-- ==== Sys2Proof/Word.lean ====
section
/-! DEFINITION. The word types of the module: bytes and 32- and 64-bit words (R5). -/

namespace Sys2Proof

/-- One byte, the unit of every address of the local space (R21). -/
abbrev Byte := BitVec 8
abbrev W16 := BitVec 16
/-- A 32-bit register or an FP32 encoding. -/
abbrev W32 := BitVec 32
/-- A 64-bit register, an instruction word or an FP64 encoding. -/
abbrev W64 := BitVec 64

end Sys2Proof
end

