-- ==== Sys2Proof/Syntax.lean ====
section
/-! DEFINITION. The commands of the module: one constructor of `Instr` for each row of spec/opcode_table.json, with the
operands that the row's rules give it. An operand is either a field that the sender states (a register field, a mailbox
payload) or what the environment shows at the event (a sensor reading, an arriving cell, a pin). -/

namespace Sys2Proof

/-- The two halves of the die (R12). -/
inductive Half where
  | west | east
  deriving DecidableEq, Repr

/-- A strand: its logical core and its context number on that core (R135). -/
structure StrandRef where
  core : Fin 128
  ctx  : Fin 2048
  deriving DecidableEq, Repr

/-- Word 0 of an instruction less its OPCODE and WORDS (R144). -/
structure Word0 where
  tag   : BitVec 4
  tagEn : Bool
  xa    : BitVec 5
  xb    : BitVec 5
  xc    : BitVec 5
  xd    : BitVec 5
  imm   : BitVec 29
  deriving DecidableEq, Repr

/-- A pilot command as the device takes it from ring `mb` (R370), less its OPCODE (`rest`: the bytes 0x20 to 0x3F of an entry whose payload is
indirect), with what the device's accesses to host
memory give: the payload bytes read (`none`: the read of an indirect payload failed), and whether the writes of the reply
buffer and of the reply entry succeed (R369, R376). -/
structure Desc where
  mb         : Fin 4
  flags      : Byte
  resv       : W16
  tag        : W32
  payloadLen : Nat
  replyLen   : Nat
  replyAddr  : Nat
  indirect   : Nat
  rest       : List (BitVec 8)
  payload    : Option (List Byte)
  bufOk      : Bool
  replyOk    : Bool
  deriving DecidableEq, Repr

/-- What PLAN_LOAD reads from host memory (R482): the entries of the scatter list and the bytes of the image, each if its reads succeed. -/
structure HostImage where
  scatter : Option (List (Nat × Nat))
  bytes   : Option (List Byte)
  deriving DecidableEq, Repr

/-- One entry of a command ring as the device reads it (R370): OPCODE, the rest, and the image of a PLAN_LOAD. -/
structure RingEntry where
  opcode : Byte
  desc   : Desc
  image  : HostImage
  deriving DecidableEq, Repr

/-- What a quay sees in its present training state (R248, R249). -/
structure TrainView where
  laser     : Bool
  peerLight : Bool
  aligned   : Bool
  payload   : List Byte
  delayPs   : Nat
  deriving DecidableEq, Repr

/-- A symbol error of a burst as stored or read: package slot 0–8, code word position 0–35, the difference (R230). -/
structure BurstError where
  slot : Fin 9
  pos  : Fin 40
  diff : Byte
  deriving DecidableEq, Repr

/-- The kinds of slot uses of a lane (R232, R233); data with the path's poison mark has kinds of its own. -/
inductive SlotUse where
  | read | write | partialWrite | writePoison | partialPoison | scrub | service
  deriving DecidableEq, Repr

/-- A memory whose rows carry the row code of R215: a pad bank, a gallery bank, the sum stores of a slice, and the structures of a core and of a half that
R429 reports elsewhere, by the numbers of R438 (a core's 1–5, a half's 6–9). -/
inductive RowBank where
  | pad (core : Fin 128) (bank : Fin 16)
  | slice (slice : Fin 128) (bank : Fin 32)
  | sums (slice : Fin 128)
  | coreStore (core : Fin 128) (no : Fin 5) (row : Nat)
  | halfStore (half : Half) (no : Fin 4) (row : Nat)
  deriving DecidableEq, Repr

/-- What a read of a row meets (R215): a cell of the physical row in error, with whether a second bit of its code word is in error; or the decoding of a row
other than the one addressed. -/
inductive RowUpset where
  | bits (cell : Nat) (two : Bool)
  | row
  deriving DecidableEq, Repr

/-- A host access through BAR2 (R365); a write carries its byte enables as `none` for a byte not enabled. -/
inductive Bar2Access where
  | read (offset : Nat) (len : Nat)
  | write (offset : Nat) (data : List (Option Byte))
  deriving DecidableEq, Repr

/-- A transfer at the I3C target port (R422), with the address that it names: a one-byte write that sets the offset or a read, as an SDR transfer or an I²C one;
ENTDAA with the dynamic address that the controller assigns; SETDASA with a static address and the dynamic one. -/
inductive I3cTransfer where
  | setOffset (i2c : Bool) (address : BitVec 7) (offset : Byte)
  | entdaa (address : BitVec 7)
  | setdasa (static address : BitVec 7)
  | i3cRead (address : BitVec 7) (len : Nat)
  | i2cRead (address : BitVec 7) (len : Nat)
  deriving DecidableEq, Repr

/-- The accesses that read TIDE_NOW (R39). -/
inductive TideNowRead where
  | whole | low | high
  deriving DecidableEq, Repr

/-- The writers that no leaf names in R213, and the cores. -/
inductive SumSource where
  | core (core : Fin 128)
  | quay (quay : Fin 48)
  | service
  deriving DecidableEq, Repr

/-- The levels that the board drives on HOLD_N and on CHART_SEL (R409). -/
structure PinLevels where
  holdLow  : Bool
  chartSel : Fin 4
  deriving DecidableEq, Repr

/-- What the temperature sensors of a half show (R418): its hottest die sensor, and its six optical engines, in °C. -/
structure HeatReading where
  celsius : Int
  engines : List Int
  deriving DecidableEq, Repr

/-- ROLLBACK_ADVANCE; `cut`: the fuses that are blown when the module loses power part-way (R461). -/
structure FuseDesc where
  desc : Desc
  cut  : Option Nat
  deriving DecidableEq, Repr

/-- The commands: one constructor for each row of the table of operations and events. -/
inductive Instr where
  -- time and the governor (R30–R59)
  | strokeBoundary (delaysW delaysE : List Nat) (late : List Nat)
  | operationVisible (op : Nat) (complete : Bool)
  | strandResume (st : StrandRef)
  | scheduleLate (st : StrandRef)
  | governorPeriod (h : Half)
  | regulatorReadback (h : Half) (sram : Bool) (ack statusError : Bool) (readMv : Nat)
  | railCurrentRead (h : Half) (coreMa sramMa : Nat)
  | thermal (h : Half) (reading : HeatReading)
  | powerCap (fixed : List (Nat × Nat))
  | enterHeld
  | tidePps
  | tideServoUpdate
  | upstreamLost
  | tideError
  | tideRefLost
  -- SSI-2, classes S and C (R147)
  | nop (st : StrandRef) (w : Word0)
  | add (st : StrandRef) (w : Word0)
  | sub (st : StrandRef) (w : Word0)
  | and (st : StrandRef) (w : Word0)
  | or (st : StrandRef) (w : Word0)
  | xor (st : StrandRef) (w : Word0)
  | shl (st : StrandRef) (w : Word0)
  | shr (st : StrandRef) (w : Word0)
  | sra (st : StrandRef) (w : Word0)
  | mul (st : StrandRef) (w : Word0)
  | mins (st : StrandRef) (w : Word0)
  | maxs (st : StrandRef) (w : Word0)
  | slt (st : StrandRef) (w : Word0)
  | sltu (st : StrandRef) (w : Word0)
  | li (st : StrandRef) (w : Word0)
  | li64 (st : StrandRef) (w : Word0) (w1 : W64)
  | sysrd (st : StrandRef) (w : Word0)
  | ld (st : StrandRef) (w : Word0)
  | st (st : StrandRef) (w : Word0)
  | jmp (st : StrandRef) (w : Word0)
  | beqz (st : StrandRef) (w : Word0)
  | bnez (st : StrandRef) (w : Word0)
  | blt (st : StrandRef) (w : Word0)
  | spawn (st : StrandRef) (w : Word0)
  | endStrand (st : StrandRef) (w : Word0)
  | waitt (st : StrandRef) (w : Word0)
  | twait (st : StrandRef) (w : Word0)
  -- classes T, U, D
  | eop (st : StrandRef) (w : Word0) (w1 w2 : W64)
  | accrd (st : StrandRef) (w : Word0)
  | accwr (st : StrandRef) (w : Word0)
  | vst (st : StrandRef) (w : Word0) (w1 : W64)
  | pcvt (st : StrandRef) (w : Word0) (w1 : W64)
  | sketch (st : StrandRef) (w : Word0) (w1 w2 : W64)
  | vew (st : StrandRef) (w : Word0) (w1 : W64)
  | vred (st : StrandRef) (w : Word0) (w1 : W64)
  | upd (st : StrandRef) (w : Word0) (w1 w2 : W64)
  | mevo (st : StrandRef) (w : Word0) (w1 w2 : W64)
  | rng (st : StrandRef) (w : Word0) (w1 : W64)
  | vfin (st : StrandRef) (w : Word0) (w1 : W64)
  | crc (st : StrandRef) (w : Word0) (w1 : W64)
  | dcopy (st : StrandRef) (w : Word0) (w1 : W64)
  | dfeed (st : StrandRef) (w : Word0) (w1 w2 : W64)
  | dset (st : StrandRef) (w : Word0) (w1 : W64)
  -- class F and the reduction instructions
  | fst (st : StrandRef) (w : Word0) (w1 : W64)
  | fld (st : StrandRef) (w : Word0) (w1 : W64)
  | fatom (st : StrandRef) (w : Word0) (w1 : W64)
  | fsig (st : StrandRef) (w : Word0)
  | fpush (st : StrandRef) (w : Word0)
  | rcontrib (st : StrandRef) (w : Word0) (w1 : W64)
  | rmerge (st : StrandRef) (w : Word0) (w1 : W64)
  -- classes Q and Y
  | bpush (st : StrandRef) (w : Word0)
  | bpop (st : StrandRef) (w : Word0)
  | btry (st : StrandRef) (w : Word0)
  | bcount (st : StrandRef) (w : Word0)
  | lenter (st : StrandRef) (w : Word0)
  | larrive (st : StrandRef) (w : Word0)
  | lwait (st : StrandRef) (w : Word0)
  | sigadd (st : StrandRef) (w : Word0)
  | sigwait (st : StrandRef) (w : Word0)
  | fence (st : StrandRef) (w : Word0)
  -- SSI-1 (R486)
  | mma (st : StrandRef) (w : Word0)
  | ldf (st : StrandRef) (w : Word0) (w1 : W64)
  | sta (st : StrandRef) (w : Word0)
  | cvt (st : StrandRef) (w : Word0)
  | cpy (st : StrandRef) (w : Word0)
  | vop (st : StrandRef) (w : Word0)
  | bar (st : StrandRef) (w : Word0)
  | qpush (st : StrandRef) (w : Word0)
  | qpop (st : StrandRef) (w : Word0)
  | swt (st : StrandRef) (w : Word0)
  | rst (st : StrandRef) (w : Word0) (w1 : W64)
  | rsig (st : StrandRef) (w : Word0)
  | fen (st : StrandRef) (w : Word0)
  -- locks, norms, the sketch, sums
  | lockOpen (core : Fin 128) (lock : Fin 64)
  | lockDeadline (core : Fin 128) (lock : Fin 64)
  | normPartAdd (group : Fin 4096) (part : Fin 64) (w2 g2 d2 : W64)
  | sketchCounterRead (layer : Nat)
  | sumContribution (source : SumSource) (slice : Fin 128) (tile : Fin 64) (values : List (Nat × W32))
  -- memories
  | sramScrub (bank : RowBank) (upsets : List RowUpset)
  | memoryFrame (temperatures : List Int)
  | memorySlot (use : SlotUse) (core : Fin 128) (line : Nat) (data : List (Nat × Byte)) (errors : List BurstError)
  | memQueueStart (op : Nat)
  | dramScrub (group : Fin 4) (lane : Fin 8) (errors : List BurstError)
  | packageLost (package : Fin 36)
  -- fabric
  | cellTransmit (quay : Fin 48) (slot : Nat)
  | cellReceive (quay : Fin 48) (cell : List Byte) (arrivalNs : Nat) (arrivalFrac : W16)
  | cellCommit (quay : Fin 48)
  | loadResponseReady (id : Nat)
  | signalApply (id : Nat)
  | linkDown (quay : Fin 48)
  | laserLoss (engine : Fin 12) (quarterDbm : Int)
  | linkTrainingAdvance (quay : Fin 48) (view : TrainView)
  | trainingTimeout (quay : Fin 48) (laser : Bool)
  -- gradient reduction
  | channelArm (channel : Fin 256)
  | reduceCellCommit (quay : Fin 48) (cell : List Byte)
  | leafSumStart (h : Half) (entry : Fin 4096) (cell : Nat)
  | nodeCombine (h : Half) (entry : Fin 4096) (cell : Nat)
  | nodeOutputComplete (h : Half) (entry : Fin 4096) (cell : Nat)
  | rootShardDone (h : Half) (entry : Fin 4096)
  | backupDeadline (h : Half) (entry : Fin 4096) (right : Bool) (cell : Nat)
  -- pilot commands (R377)
  | hello (d : Desc)
  | identify (d : Desc)
  | status (d : Desc)
  | chartRead (d : Desc)
  | chartWrite (d : Desc)
  | chartSelect (d : Desc)
  | chartSelectComplete (failed : List (Fin 144)) (packages : List (Fin 36))
  | resetPlan (d : Desc)
  | resetWarm (d : Desc)
  | resetCold (d : Desc)
  | tideSet (d : Desc)
  | fabricConfig (d : Desc)
  | quayTrain (d : Desc)
  | planLoad (d : Desc) (image : HostImage)
  | planUnload (d : Desc)
  | run (d : Desc)
  | planStart
  | resumeStart
  | hold (d : Desc)
  | hostHold
  | drain (d : Desc)
  | drainAbandoned
  | drainComplete
  | recoverEnter (d : Desc)
  | recoverExit (d : Desc)
  | recoverCopy (d : Desc)
  | recoverTimeout
  | allocCreate (d : Desc)
  | allocFree (d : Desc)
  | manifestCreate (d : Desc)
  | manifestDestroy (d : Desc)
  | manifestQuery (d : Desc)
  | memErase (d : Desc)
  | memRetirePage (d : Desc)
  | memRetireList (d : Desc)
  | logSetRing (d : Desc)
  | logReadPins (d : Desc)
  | logClear (d : Desc)
  | traceConfig (d : Desc)
  | telemetry (d : Desc)
  | inject (d : Desc)
  | attest (d : Desc)
  | debugChallenge (d : Desc)
  | debugUnlock (d : Desc)
  | rollbackAdvance (d : FuseDesc)
  -- host registers and windows
  | mbCmdDoorbell (mb : Fin 4) (value : W32) (entries : List (Option RingEntry))
  | mbRplDoorbell (mb : Fin 4) (value : W32)
  | mbEnable (mb : Fin 4) (value : W32)
  | mbDisable (mb : Fin 4) (value : W32)
  | winBaseWrite (value : W64)
  | tideNowRead (access : TideNowRead)
  | rcRead (offset : Nat) (width : Nat)
  | summaryClear (offset : Nat) (width : Nat) (value : W64)
  | ringTailWrite (ring : Fin 3) (value : W32)
  | registerWrite (offset : Nat) (width : Nat) (value : W64)
  | bar2Request (access : Bar2Access)
  | serviceSlot
  | interruptEvaluate
  | msixHoldoffExpiry
  | logWindowClose (cause : W16) (source : W16) (line : Nat)
  | alarmEmit
  | logMirrorWrite
  | traceWrite (source : Fin 8)
  -- bring-up, power, pins, board management
  | bootEntry
  | coreSelfTestDone (failed : List (Fin 144))
  | memoryTrainingDone (failed : List (Fin 36))
  | bootDone
  | verifyDone
  | gessoDone
  | powerLoss
  | railLost (input : Fin 3)
  | railGlitch (input : Fin 3)
  | thermtrip (h : Half)
  | holdPin (pins : PinLevels)
  | perstAssert
  | functionLevelReset
  | hmWatchdog (sramWord : Bool)
  | tideRefPresent (present : Bool)
  | ppsPresentLost
  | perstRelease
  | pcieLinkUp
  | i3cTransfer (transfer : I3cTransfer)
  | i3cRefresh
  | planLoadComplete
  deriving DecidableEq, Repr

end Sys2Proof
end

