-- ==== Sys2Proof/Machine/Operands.lean ====
section
/-! DEFINITION. Bit fields and byte strings, and the operand fields of an instruction word (R144, R149). -/

namespace Sys2Proof.Machine

/-! ### Bit fields and byte strings -/

/-- Bits `hi` to `lo` of a number. -/
def bitsOf (v hi lo : Nat) : Nat := v / 2 ^ lo % 2 ^ (hi + 1 - lo)

/-- The number with bits `hi` to `lo` replaced by the low bits of `x`. -/
def withBits (v hi lo x : Nat) : Nat :=
  v / 2 ^ (hi + 1) * 2 ^ (hi + 1) + x % 2 ^ (hi + 1 - lo) * 2 ^ lo + v % 2 ^ lo

/-- Bit `i` of a number. -/
def bitOf (v i : Nat) : Bool := v / 2 ^ i % 2 == 1

/-- Bits `hi` to `lo` of a 64-bit word. -/
def fieldOf (v : W64) (hi lo : Nat) : Nat := bitsOf v.toNat hi lo

/-- A 64-bit word with a field replaced. -/
def withField (v : W64) (hi lo x : Nat) : W64 := BitVec.ofNat 64 (withBits v.toNat hi lo x)

/-- The little-endian value of a byte string (R5). -/
def leNat : List Byte → Nat
  | [] => 0
  | b :: bs => b.toNat + 256 * leNat bs

/-- The `n` little-endian bytes of a number (R5). -/
def leBytes : Nat → Nat → List Byte
  | 0, _ => []
  | n + 1, v => BitVec.ofNat 8 v :: leBytes n (v / 256)

/-- `len` bytes of a byte string from `off`; bytes beyond its end are zero. -/
def sliceBytes (bs : List Byte) (off len : Nat) : List Byte :=
  let t := (bs.drop off).take len
  t ++ List.replicate (len - t.length) 0

/-- The little-endian number of `len` bytes at `off`. -/
def fieldAt (bs : List Byte) (off len : Nat) : Nat := leNat (sliceBytes bs off len)

/-- Quotient rounded up. -/
def ceilDiv (a b : Nat) : Nat := (a + b - 1) / b

/-- Replaces element `i` of a list; the list is unchanged where it has none. -/
def listSet {α : Type} (l : List α) (i : Nat) (a : α) : List α := l.set i a

/-- Inserts an element before the first that it must precede. -/
def insertBy {α : Type} (le : α → α → Bool) (x : α) : List α → List α
  | [] => [x]
  | y :: ys => if le x y then x :: y :: ys else y :: insertBy le x ys

/-- Sorts a list by `le`; elements that are equal under `le` keep their order. -/
def sortBy {α : Type} (le : α → α → Bool) (l : List α) : List α := l.foldr (insertBy le) []

/-- A signed number of `w` bits from its two's complement encoding. -/
def signedOf (w v : Nat) : Int := if 2 * v < 2 ^ w then (v : Int) else (v : Int) - 2 ^ w

/-- The two's complement encoding in `w` bits. -/
def unsignedOf (w : Nat) (v : Int) : Nat := (v % (2 ^ w : Int)).toNat

end Sys2Proof.Machine

namespace Sys2Proof

open Sys2Proof.Machine

/-- The key of a strand context. -/
def StrandRef.key (st : StrandRef) : Nat := 2048 * st.core.val + st.ctx.val

/-- sext(IMM) from 29 bits (R149). -/
def Word0.simm (w : Word0) : W64 := w.imm.signExtend 64

/-- zext(IMM) from 29 bits (R149). -/
def Word0.zimm (w : Word0) : W64 := w.imm.zeroExtend 64

/-- A field of IMM. -/
def Word0.f (w : Word0) (hi lo : Nat) : Nat := bitsOf w.imm.toNat hi lo

/-- SCHED, in IMM[28:16] of a waiting instruction (R143). -/
def Word0.sched (w : Word0) : Nat := w.f 28 16

/-- Register operand numbers. -/
def Word0.a (w : Word0) : Nat := w.xa.toNat
def Word0.b (w : Word0) : Nat := w.xb.toNat
def Word0.c (w : Word0) : Nat := w.xc.toNat
def Word0.d (w : Word0) : Nat := w.xd.toNat

/-- The registers B and C of a word 0. -/
def Word0.bc (w : Word0) : List Nat := [w.b, w.c]

/-- The tag that a word 0 counts on (R141). -/
def Word0.tagOf (w : Word0) : Option Nat := if w.tagEn then some w.tag.toNat else none

end Sys2Proof
end

