-- ==== Sys2Proof/Decode.lean ====
section
/-! DEFINITION. The words of SSI-2 and SSI-1 instructions (R144, R146, R147, R486): shapes, decoding and encoding. The table of operations and events
gives its rows no bits, so no word spells a command there. -/

namespace Sys2Proof

open Sys2Proof.Machine

/-- The command that a word spells by the bits of spec/opcode_table.json: the table gives bits to no row. -/
def decodeTableWord (_nbits _w : Nat) : Option Instr := none

/-- Bits `hi` to `lo` as a mask. -/
def span (hi lo : Nat) : Nat := 2 ^ (hi + 1) - 2 ^ lo

/-- The shape of an instruction: its words, the register fields that it uses (bit 0 XA … bit 3 XD), and the bits of IMM and of words
1 and 2 that its definition names (R146). -/
structure Shape where
  words : Nat
  regs  : Nat
  imm   : Nat
  w1    : Nat
  w2    : Nat
  deriving DecidableEq, Repr

/-- The shapes of opcodes 0x00–0x1F, which both instruction sets share (R147, R486). -/
def shapeScalar : Nat → Option Shape
  | 0x00 => some ⟨1, 0, 0, 0, 0⟩
  | 0x01 => some ⟨1, 7, span 28 0, 0, 0⟩
  | 0x02 => some ⟨1, 7, span 28 0, 0, 0⟩
  | 0x03 => some ⟨1, 7, span 28 0, 0, 0⟩
  | 0x04 => some ⟨1, 7, span 28 0, 0, 0⟩
  | 0x05 => some ⟨1, 7, span 28 0, 0, 0⟩
  | 0x06 => some ⟨1, 7, span 28 0, 0, 0⟩
  | 0x07 => some ⟨1, 7, span 28 0, 0, 0⟩
  | 0x08 => some ⟨1, 7, span 28 0, 0, 0⟩
  | 0x09 => some ⟨1, 7, 0, 0, 0⟩
  | 0x0A => some ⟨1, 7, 0, 0, 0⟩
  | 0x0B => some ⟨1, 7, 0, 0, 0⟩
  | 0x0C => some ⟨1, 7, 0, 0, 0⟩
  | 0x0D => some ⟨1, 7, 0, 0, 0⟩
  | 0x0E => some ⟨1, 1, span 28 0, 0, 0⟩
  | 0x0F => some ⟨2, 1, 0, span 63 0, 0⟩
  | 0x10 => some ⟨1, 1, span 3 0, 0, 0⟩
  | 0x11 => some ⟨1, 3, span 28 0, 0, 0⟩
  | 0x12 => some ⟨1, 6, span 28 0, 0, 0⟩
  | 0x18 => some ⟨1, 0, span 14 0, 0, 0⟩
  | 0x19 => some ⟨1, 2, span 14 0, 0, 0⟩
  | 0x1A => some ⟨1, 2, span 14 0, 0, 0⟩
  | 0x1B => some ⟨1, 6, span 14 0, 0, 0⟩
  | 0x1C => some ⟨1, 6, span 14 0, 0, 0⟩
  | 0x1D => some ⟨1, 0, 0, 0, 0⟩
  | 0x1E => some ⟨1, 2, span 28 16 + span 15 0, 0, 0⟩
  | 0x1F => some ⟨1, 0, span 28 16 + span 15 0, 0, 0⟩
  | _ => none

/-- The shapes of the other SSI-2 opcodes (R147, R151, R152, R191, R194, R267, R294, R295, R329, R339, R340, R343, R451, R497, R498). -/
def shapeSsi2 : Nat → Option Shape
  | 0x20 => some ⟨3, 14, span 28 4, span 63 6, span 63 37 + span 36 6⟩
  | 0x21 => some ⟨1, 2, span 2 0, 0, 0⟩
  | 0x22 => some ⟨1, 2, span 2 0, 0, 0⟩
  | 0x24 => some ⟨2, 15, span 28 23, span 63 56 + span 55 48 + span 47 17, 0⟩
  | 0x28 => some ⟨2, 15, span 28 12 + span 0 0, span 31 0, 0⟩
  | 0x2C => some ⟨3, 15, span 28 21, span 63 16, span 63 40⟩
  | 0x30 => some ⟨2, 15, span 28 12 + span 11 8, span 63 0, 0⟩
  | 0x31 => some ⟨2, 15, span 28 12 + span 11 8, span 63 56 + span 55 48, 0⟩
  | 0x32 => some ⟨3, 15, span 28 7, span 63 16, span 63 22 + span 21 7⟩
  | 0x33 => some ⟨3, 15, span 28 5, span 63 16, span 63 40 + span 21 8⟩
  | 0x34 => some ⟨2, 7, span 28 12 + span 11 10, span 63 0, 0⟩
  | 0x35 => some ⟨2, 6, span 28 12, 0, 0⟩
  | 0x36 => some ⟨2, 15, span 28 6, span 63 0, 0⟩
  | 0x38 => some ⟨2, 15, span 28 11, span 63 56 + span 55 48, 0⟩
  | 0x39 => some ⟨3, 15, span 28 19, span 63 32, span 63 15⟩
  | 0x3A => some ⟨2, 7, span 28 12, span 63 56 + span 55 48, 0⟩
  | 0x40 => some ⟨2, 15, span 28 11, span 63 56 + span 55 48 + span 47 32, 0⟩
  | 0x41 => some ⟨2, 15, span 28 11, span 63 56 + span 55 48 + span 47 32, 0⟩
  | 0x42 => some ⟨2, 15, 0, span 47 32 + span 3 0, 0⟩
  | 0x43 => some ⟨1, 14, span 15 0, 0, 0⟩
  | 0x44 => some ⟨1, 6, span 28 16, 0, 0⟩
  | 0x48 => some ⟨2, 15, span 28 12, span 63 40, 0⟩
  | 0x49 => some ⟨2, 15, span 28 12, span 15 8 + span 0 0, 0⟩
  | 0x50 => some ⟨1, 6, span 28 16 + span 11 0, 0, 0⟩
  | 0x51 => some ⟨1, 3, span 28 16 + span 11 0, 0, 0⟩
  | 0x52 => some ⟨1, 11, span 11 0, 0, 0⟩
  | 0x53 => some ⟨1, 3, span 11 0, 0, 0⟩
  | 0x58 => some ⟨1, 7, span 28 16 + span 5 0, 0, 0⟩
  | 0x59 => some ⟨1, 6, span 5 0, 0, 0⟩
  | 0x5A => some ⟨1, 3, span 28 16 + span 5 0, 0, 0⟩
  | 0x5B => some ⟨1, 6, span 9 0, 0, 0⟩
  | 0x5C => some ⟨1, 6, span 28 16 + span 9 0, 0, 0⟩
  | 0x5D => some ⟨1, 0, span 28 16 + span 1 0, 0, 0⟩
  | _ => none

/-- The shapes of the SSI-1 opcodes from 0x80 (R486). -/
def shapeSsi1 : Nat → Option Shape
  | 0x80 => some ⟨1, 6, span 28 21 + span 18 7, 0, 0⟩
  | 0x81 => some ⟨2, 15, span 28 26, span 63 42, 0⟩
  | 0x82 => some ⟨1, 3, span 28 26, 0, 0⟩
  | 0x83 => some ⟨1, 15, span 28 12, 0, 0⟩
  | 0x84 => some ⟨1, 15, span 28 12, 0, 0⟩
  | 0x88 => some ⟨1, 7, span 1 0, 0, 0⟩
  | 0x90 => some ⟨1, 3, span 28 16 + span 5 0, 0, 0⟩
  | 0x91 => some ⟨1, 6, span 28 16 + span 11 0, 0, 0⟩
  | 0x92 => some ⟨1, 3, span 28 16 + span 11 0, 0, 0⟩
  | 0x93 => some ⟨1, 6, span 28 16 + span 9 0, 0, 0⟩
  | 0x98 => some ⟨2, 15, span 28 12, span 47 32, 0⟩
  | 0x99 => some ⟨1, 14, span 15 0, 0, 0⟩
  | 0x9F => some ⟨1, 0, span 28 16 + span 1 0, 0, 0⟩
  | _ => none

/-- The shape of an opcode of a plan's instruction set (R487). -/
def shapeOf (isa1 : Bool) (op : Nat) : Option Shape :=
  if op < 0x20 then shapeScalar op else if isa1 then shapeSsi1 op else shapeSsi2 op

/-- OPCODE and WORDS of a word 0 (R144). -/
def opcodeOf (w : W64) : Nat := fieldOf w 63 56
def wordsOf (w : W64) : Nat := fieldOf w 55 54 + 1

/-- The other fields of a word 0 (R144). -/
def decodeWord0 (w : W64) : Word0 :=
  { tag := w.extractLsb' 50 4, tagEn := w.getLsbD 49, xa := w.extractLsb' 44 5, xb := w.extractLsb' 39 5, xc := w.extractLsb' 34 5,
    xd := w.extractLsb' 29 5, imm := w.extractLsb' 0 29 }

/-- The word 0 of an instruction (R144). -/
def word0 (op words : Nat) (w : Word0) : W64 :=
  (BitVec.ofNat 8 op ++ BitVec.ofNat 2 (words - 1) ++ w.tag ++ BitVec.ofBool w.tagEn ++ w.xa ++ w.xb ++ w.xc ++ w.xd ++ w.imm)

/-- Whether the words of an instruction set no bit that its definition does not name, register fields included (R146). -/
def shapeFits (s : Shape) (w0 w1 w2 : W64) : Bool :=
  let w := decodeWord0 w0
  let used (i : Nat) (x : BitVec 5) : Bool := bitOf s.regs i || x == 0
  used 0 w.xa && used 1 w.xb && used 2 w.xc && used 3 w.xd && (w.imm.toNat &&& s.imm) == w.imm.toNat &&
    (w1.toNat &&& s.w1) == w1.toNat && (w2.toNat &&& s.w2) == w2.toNat

/-- Opcodes 0x00–0x1F. -/
def decodeScalar (st : StrandRef) (w : Word0) (w1 : W64) : Nat → Option Instr
  | 0x00 => some (.nop st w)
  | 0x01 => some (.add st w)
  | 0x02 => some (.sub st w)
  | 0x03 => some (.and st w)
  | 0x04 => some (.or st w)
  | 0x05 => some (.xor st w)
  | 0x06 => some (.shl st w)
  | 0x07 => some (.shr st w)
  | 0x08 => some (.sra st w)
  | 0x09 => some (.mul st w)
  | 0x0A => some (.mins st w)
  | 0x0B => some (.maxs st w)
  | 0x0C => some (.slt st w)
  | 0x0D => some (.sltu st w)
  | 0x0E => some (.li st w)
  | 0x0F => some (.li64 st w w1)
  | 0x10 => some (.sysrd st w)
  | 0x11 => some (.ld st w)
  | 0x12 => some (.st st w)
  | 0x18 => some (.jmp st w)
  | 0x19 => some (.beqz st w)
  | 0x1A => some (.bnez st w)
  | 0x1B => some (.blt st w)
  | 0x1C => some (.spawn st w)
  | 0x1D => some (.endStrand st w)
  | 0x1E => some (.waitt st w)
  | 0x1F => some (.twait st w)
  | _ => none

/-- The other SSI-2 opcodes. -/
def decodeSsi2 (st : StrandRef) (w : Word0) (w1 w2 : W64) : Nat → Option Instr
  | 0x20 => some (.eop st w w1 w2)
  | 0x21 => some (.accrd st w)
  | 0x22 => some (.accwr st w)
  | 0x24 => some (.vst st w w1)
  | 0x28 => some (.pcvt st w w1)
  | 0x2C => some (.sketch st w w1 w2)
  | 0x30 => some (.vew st w w1)
  | 0x31 => some (.vred st w w1)
  | 0x32 => some (.upd st w w1 w2)
  | 0x33 => some (.mevo st w w1 w2)
  | 0x34 => some (.rng st w w1)
  | 0x35 => some (.vfin st w w1)
  | 0x36 => some (.crc st w w1)
  | 0x38 => some (.dcopy st w w1)
  | 0x39 => some (.dfeed st w w1 w2)
  | 0x3A => some (.dset st w w1)
  | 0x40 => some (.fst st w w1)
  | 0x41 => some (.fld st w w1)
  | 0x42 => some (.fatom st w w1)
  | 0x43 => some (.fsig st w)
  | 0x44 => some (.fpush st w)
  | 0x48 => some (.rcontrib st w w1)
  | 0x49 => some (.rmerge st w w1)
  | 0x50 => some (.bpush st w)
  | 0x51 => some (.bpop st w)
  | 0x52 => some (.btry st w)
  | 0x53 => some (.bcount st w)
  | 0x58 => some (.lenter st w)
  | 0x59 => some (.larrive st w)
  | 0x5A => some (.lwait st w)
  | 0x5B => some (.sigadd st w)
  | 0x5C => some (.sigwait st w)
  | 0x5D => some (.fence st w)
  | _ => none

/-- The SSI-1 opcodes from 0x80. -/
def decodeSsi1 (st : StrandRef) (w : Word0) (w1 : W64) : Nat → Option Instr
  | 0x80 => some (.mma st w)
  | 0x81 => some (.ldf st w w1)
  | 0x82 => some (.sta st w)
  | 0x83 => some (.cvt st w)
  | 0x84 => some (.cpy st w)
  | 0x88 => some (.vop st w)
  | 0x90 => some (.bar st w)
  | 0x91 => some (.qpush st w)
  | 0x92 => some (.qpop st w)
  | 0x93 => some (.swt st w)
  | 0x98 => some (.rst st w w1)
  | 0x99 => some (.rsig st w)
  | 0x9F => some (.fen st w)
  | _ => none

/-- The instruction at the head of a code store, with its words, for strand `st`; `none` where the words are no instruction of the
plan's instruction set or break R146. -/
def decodeSsi (isa1 : Bool) (st : StrandRef) (w0 w1 w2 : W64) : Option Instr :=
  match shapeOf isa1 (opcodeOf w0) with
  | none => none
  | some sh =>
    let v1 := if 2 ≤ sh.words then w1 else 0
    let v2 := if 3 ≤ sh.words then w2 else 0
    if wordsOf w0 = sh.words ∧ shapeFits sh w0 v1 v2 then
      let w := decodeWord0 w0
      if opcodeOf w0 < 0x20 then decodeScalar st w v1 (opcodeOf w0)
      else if isa1 then decodeSsi1 st w v1 (opcodeOf w0)
      else decodeSsi2 st w v1 v2 (opcodeOf w0)
    else none

/-- The words of a strand's instruction; `none` for a command that is no strand instruction. -/
def encodeSsi : Instr → Option (List W64)
  | .nop _ w => some (word0 0x00 1 w :: [])
  | .add _ w => some (word0 0x01 1 w :: [])
  | .sub _ w => some (word0 0x02 1 w :: [])
  | .and _ w => some (word0 0x03 1 w :: [])
  | .or _ w => some (word0 0x04 1 w :: [])
  | .xor _ w => some (word0 0x05 1 w :: [])
  | .shl _ w => some (word0 0x06 1 w :: [])
  | .shr _ w => some (word0 0x07 1 w :: [])
  | .sra _ w => some (word0 0x08 1 w :: [])
  | .mul _ w => some (word0 0x09 1 w :: [])
  | .mins _ w => some (word0 0x0A 1 w :: [])
  | .maxs _ w => some (word0 0x0B 1 w :: [])
  | .slt _ w => some (word0 0x0C 1 w :: [])
  | .sltu _ w => some (word0 0x0D 1 w :: [])
  | .li _ w => some (word0 0x0E 1 w :: [])
  | .li64 _ w w1 => some (word0 0x0F 2 w :: [w1])
  | .sysrd _ w => some (word0 0x10 1 w :: [])
  | .ld _ w => some (word0 0x11 1 w :: [])
  | .st _ w => some (word0 0x12 1 w :: [])
  | .jmp _ w => some (word0 0x18 1 w :: [])
  | .beqz _ w => some (word0 0x19 1 w :: [])
  | .bnez _ w => some (word0 0x1A 1 w :: [])
  | .blt _ w => some (word0 0x1B 1 w :: [])
  | .spawn _ w => some (word0 0x1C 1 w :: [])
  | .endStrand _ w => some (word0 0x1D 1 w :: [])
  | .waitt _ w => some (word0 0x1E 1 w :: [])
  | .twait _ w => some (word0 0x1F 1 w :: [])
  | .eop _ w w1 w2 => some (word0 0x20 3 w :: [w1, w2])
  | .accrd _ w => some (word0 0x21 1 w :: [])
  | .accwr _ w => some (word0 0x22 1 w :: [])
  | .vst _ w w1 => some (word0 0x24 2 w :: [w1])
  | .pcvt _ w w1 => some (word0 0x28 2 w :: [w1])
  | .sketch _ w w1 w2 => some (word0 0x2C 3 w :: [w1, w2])
  | .vew _ w w1 => some (word0 0x30 2 w :: [w1])
  | .vred _ w w1 => some (word0 0x31 2 w :: [w1])
  | .upd _ w w1 w2 => some (word0 0x32 3 w :: [w1, w2])
  | .mevo _ w w1 w2 => some (word0 0x33 3 w :: [w1, w2])
  | .rng _ w w1 => some (word0 0x34 2 w :: [w1])
  | .vfin _ w w1 => some (word0 0x35 2 w :: [w1])
  | .crc _ w w1 => some (word0 0x36 2 w :: [w1])
  | .dcopy _ w w1 => some (word0 0x38 2 w :: [w1])
  | .dfeed _ w w1 w2 => some (word0 0x39 3 w :: [w1, w2])
  | .dset _ w w1 => some (word0 0x3A 2 w :: [w1])
  | .fst _ w w1 => some (word0 0x40 2 w :: [w1])
  | .fld _ w w1 => some (word0 0x41 2 w :: [w1])
  | .fatom _ w w1 => some (word0 0x42 2 w :: [w1])
  | .fsig _ w => some (word0 0x43 1 w :: [])
  | .fpush _ w => some (word0 0x44 1 w :: [])
  | .rcontrib _ w w1 => some (word0 0x48 2 w :: [w1])
  | .rmerge _ w w1 => some (word0 0x49 2 w :: [w1])
  | .bpush _ w => some (word0 0x50 1 w :: [])
  | .bpop _ w => some (word0 0x51 1 w :: [])
  | .btry _ w => some (word0 0x52 1 w :: [])
  | .bcount _ w => some (word0 0x53 1 w :: [])
  | .lenter _ w => some (word0 0x58 1 w :: [])
  | .larrive _ w => some (word0 0x59 1 w :: [])
  | .lwait _ w => some (word0 0x5A 1 w :: [])
  | .sigadd _ w => some (word0 0x5B 1 w :: [])
  | .sigwait _ w => some (word0 0x5C 1 w :: [])
  | .fence _ w => some (word0 0x5D 1 w :: [])
  | .mma _ w => some (word0 0x80 1 w :: [])
  | .ldf _ w w1 => some (word0 0x81 2 w :: [w1])
  | .sta _ w => some (word0 0x82 1 w :: [])
  | .cvt _ w => some (word0 0x83 1 w :: [])
  | .cpy _ w => some (word0 0x84 1 w :: [])
  | .vop _ w => some (word0 0x88 1 w :: [])
  | .bar _ w => some (word0 0x90 1 w :: [])
  | .qpush _ w => some (word0 0x91 1 w :: [])
  | .qpop _ w => some (word0 0x92 1 w :: [])
  | .swt _ w => some (word0 0x93 1 w :: [])
  | .rst _ w w1 => some (word0 0x98 2 w :: [w1])
  | .rsig _ w => some (word0 0x99 1 w :: [])
  | .fen _ w => some (word0 0x9F 1 w :: [])
  | _ => none

end Sys2Proof
end

