-- ==== Sys2Proof/Config.lean ====
section
/-! DEFINITION. What an implementation fixes and the manual leaves open: constants without a body, of which no proof
can see a value. -/

namespace Sys2Proof.Config

/-- The n-th free value of a run: a value that the manual says exists and does not state (log entry 3).
The machine reads it at its counter of free values and advances the counter. -/
opaque freeValue : Nat → BitVec 64

/-- A byte of another chip's memory at a tide, by chip, tide and local address: what stands there when this chip's operation depends on it, which nothing on
this chip can tell (R70, R111, R268; log entry 77). -/
opaque peerByte : Nat → Nat → Nat → BitVec 8

/-- The 512-bit SHAKE256 output over a byte string, in bytes. R457, R459, R463 and R466 name the standard; its bits are not in
the manual (log entry 4). -/
opaque shake256 : List (BitVec 8) → List (BitVec 8)

/-- The verification of an SLH-DSA-SHAKE-256s signature: public key, message, signature (R458, R459, R466; log entry 4). -/
opaque slhVerify : List (BitVec 8) → List (BitVec 8) → List (BitVec 8) → Bool

/-- The SLH-DSA-SHAKE-256f signature that the ROM's signing service makes with the identity key of a seed (R462, R464; log
entry 4). -/
opaque slhSign : List (BitVec 8) → List (BitVec 8) → List (BitVec 8)

/-- The public key of the SLH-DSA-SHAKE-256f key pair generated from a seed (R462; log entry 4). -/
opaque slhPublicKey : List (BitVec 8) → List (BitVec 8)

/-- The bytes of the boot ROM, which measurement 0 digests (R463). -/
opaque bootRom : List (BitVec 8)

/-- The largest spacing in nanoseconds of the service slots that the loader reserves for a plan, by plan ID, beside those of main memory's frames: R24 and
R366 bound and report it, and no rule computes it (log entry 55). -/
opaque serviceSpacing : BitVec 64 → Nat

/-- The kind byte of a trace record, by source and by place in the list of R445: R446 fixes only the code of GAP (log entry 5). -/
opaque traceKind : Nat → Nat → BitVec 8

/-- The auxiliary and data bytes of a trace record, by source, place and the items that R445 names; R446 does not lay them out
(log entry 5). -/
opaque traceData : Nat → Nat → List Nat → BitVec 160

/-- The reply data of a refused plan load: R485 says what it names (the section, the entry, the core, the resource) and not how its bytes lie
(log entry 6). -/
opaque loadRefusal : List Nat → List (BitVec 8)

end Sys2Proof.Config
end

