-- ==== Sys2Proof/Machine/Reg.lean ====
section
/-! DEFINITION. The registers of the module: their names, BAR0 offsets (R488, R489, R496), widths, reset values and the access
types of their fields (R6). -/

namespace Sys2Proof

/-- 0 for West and 1 for East (R488). -/
def Half.index : Half → Nat
  | .west => 0
  | .east => 1

namespace Machine

/-- Every register of the index of R496. Core arguments are logical core numbers; check-value units 0–127 are the cores' and
128–135 the harbourmaster's. -/
inductive Reg where
  /-- HM_STATE (R373), live -/
  | hmState
  /-- HM_FAULT (R404), live -/
  | hmFault
  /-- WIN_BASE (R365) -/
  | winBase
  /-- HM_INT_CTRL (R389); CONDITION is live -/
  | hmIntCtrl
  /-- HM_CAUSE (R388) -/
  | hmCause
  /-- HM_CAUSE_EN (R388) -/
  | hmCauseEn
  /-- HM_CHART (R399), live -/
  | hmChart
  /-- HM_SUMMARY_0–2 (R388) -/
  | hmSummary (i : Fin 3)
  /-- HM_SUMMARY_EN_0–2 (R388) -/
  | hmSummaryEn (i : Fin 3)
  /-- MB_CMD_BASE_n (R367) -/
  | mbCmdBase (n : Fin 4)
  /-- MB_RPL_BASE_n (R367) -/
  | mbRplBase (n : Fin 4)
  /-- MB_CFG_n (R367) -/
  | mbCfg (n : Fin 4)
  /-- MB_CMD_DB_n (R368) -/
  | mbCmdDb (n : Fin 4)
  /-- MB_RPL_DB_n (R368) -/
  | mbRplDb (n : Fin 4)
  /-- MB_STATUS_n (R369) -/
  | mbStatus (n : Fin 4)
  /-- GRP_CAUSE_g (R387) -/
  | grpCause (g : Fin 134)
  /-- the MSI-X table entry (R389): address, then data and vector control -/
  | msixEntry (i : Fin 2)
  /-- the MSI-X pending bit array (R389) -/
  | msixPba
  /-- RING_HEAD_k (R449) -/
  | ringHead (k : Fin 3)
  /-- RING_TAIL_k (R449) -/
  | ringTail (k : Fin 3)
  /-- RING_LOST_k (R449) -/
  | ringLost (k : Fin 3)
  /-- TRACE_DROPS_s (R447) -/
  | traceDrops (t : Fin 8)
  /-- TIDE_NOW (R39), live -/
  | tideNow
  /-- TIDE_FRAC (R39) -/
  | tideFrac
  /-- TIDE_STATUS (R46), live -/
  | tideStatus
  /-- GOV_STATUS_W and GOV_STATUS_E (R51), live -/
  | govStatus (h : Half)
  /-- STOP_CAUSE (R56) -/
  | stopCause
  /-- STOP_TIDE (R58) -/
  | stopTide
  /-- STOP_SCHED (R58) -/
  | stopSched
  /-- DET_STATUS (R355); bits 12 and 11 are live -/
  | detStatus
  /-- SEC_STATUS (R470), live -/
  | secStatus
  /-- MEM_CAUSE (R244) -/
  | memCause (h : Half)
  /-- MEM_CAUSE_EN (R244) -/
  | memCauseEn (h : Half)
  /-- MEM_COUNT (R244) -/
  | memCount (h : Half)
  /-- MEM_ERASURE_READS (R244) -/
  | memErasureReads (h : Half)
  /-- MEM_PKG_STATE (R244), live -/
  | memPkgState (h : Half)
  /-- MEM_ERASE_n (R236) -/
  | memErase (h : Half) (i : Fin 8)
  /-- RED_CAUSE (R315) -/
  | redCause (h : Half)
  /-- RED_CAUSE_EN (R315) -/
  | redCauseEn (h : Half)
  /-- RED_COUNT (R315) -/
  | redCount (h : Half)
  /-- RED_STEP_STATUS (R315) -/
  | redStepStatus (h : Half)
  /-- RED_CHAN_STATE_n (R315) -/
  | redChanState (h : Half) (i : Fin 256)
  /-- QUAY_STATUS (R288) -/
  | quayStatus (q : Fin 48)
  /-- QUAY_DELAY (R288) -/
  | quayDelay (q : Fin 48)
  /-- TIDE_ASYM (R41, R288) -/
  | tideAsym (q : Fin 48)
  /-- QUAY_CAUSE (R288) -/
  | quayCause (q : Fin 48)
  /-- QUAY_CAUSE_EN (R288) -/
  | quayCauseEn (q : Fin 48)
  /-- QUAY_COUNT (R288) -/
  | quayCount (q : Fin 48)
  /-- FABRIC_CAUSE (R288) -/
  | fabricCause
  /-- FABRIC_CAUSE_EN (R288) -/
  | fabricCauseEn
  /-- FABRIC_COUNT (R288) -/
  | fabricCount
  /-- COMMIT_CFG (R349) -/
  | commitCfg
  /-- STEP_NUMBER (R349) -/
  | stepNumber
  /-- STEP_FLAGS (R349) -/
  | stepFlags
  /-- COMMIT_SIDEBAND (R349) -/
  | commitSideband
  /-- LOSS_SCALE (R349) -/
  | lossScale
  /-- RNG_SEED (R349) -/
  | rngSeed
  /-- SKETCH_REQ (R349) -/
  | sketchReq
  /-- COMMIT_CAUSE (R349) -/
  | commitCause
  /-- COMMIT_CAUSE_EN (R349) -/
  | commitCauseEn
  /-- UPD_COUNT (R349) -/
  | updCount
  /-- word w of NORM_n (R349) -/
  | norm (i : Fin 4096) (w : Fin 4)
  /-- PAL_COUNT (R75) -/
  | palCount (c : Fin 128)
  /-- PAL_CAUSE (R76) -/
  | palCause (c : Fin 128)
  /-- PAL_CAUSE_EN (R76) -/
  | palCauseEn (c : Fin 128)
  /-- EASEL_CAUSE (R102) -/
  | easelCause (c : Fin 128)
  /-- EASEL_CAUSE_EN (R102) -/
  | easelCauseEn (c : Fin 128)
  /-- EASEL_STEPS_n (R103) -/
  | easelSteps (c : Fin 128) (e : Fin 4)
  /-- EASEL_FEED_n (R103) -/
  | easelFeed (c : Fin 128) (e : Fin 4)
  /-- SPARSE_CAUSE (R134) -/
  | sparseCause (c : Fin 128)
  /-- SPARSE_CAUSE_EN (R134) -/
  | sparseCauseEn (c : Fin 128)
  /-- SPARSE_COUNT (R134) -/
  | sparseCount (c : Fin 128)
  /-- SEQ_CAUSE (R172) -/
  | seqCause (c : Fin 128)
  /-- SEQ_CAUSE_EN (R172) -/
  | seqCauseEn (c : Fin 128)
  /-- SEQ_FAULT (R172) -/
  | seqFault (c : Fin 128)
  /-- SEQ_COUNT (R172) -/
  | seqCount (c : Fin 128)
  /-- BERTH_TABLE_BASE (R172) -/
  | berthTableBase (c : Fin 128)
  /-- DMA_CAUSE (R197) -/
  | dmaCause (c : Fin 128)
  /-- DMA_CAUSE_EN (R197) -/
  | dmaCauseEn (c : Fin 128)
  /-- DMA_COUNT (R197) -/
  | dmaCount (c : Fin 128)
  /-- PAD_CAUSE (R221) -/
  | padCause (c : Fin 128)
  /-- PAD_CAUSE_EN (R221) -/
  | padCauseEn (c : Fin 128)
  /-- PAD_COUNT (R221) -/
  | padCount (c : Fin 128)
  /-- CVU_CAUSE (R454); units 128–135 are the harbourmaster’s -/
  | cvuCause (u : Fin 136)
  /-- CVU_CAUSE_EN (R454) -/
  | cvuCauseEn (u : Fin 136)
  /-- CVU_COUNT (R454) -/
  | cvuCount (u : Fin 136)
  /-- CVU_LAST (R454) -/
  | cvuLast (u : Fin 136)
  /-- LOCK_CFG_n (R163) -/
  | lockCfg (c : Fin 128) (l : Fin 64)
  /-- LOCK_STATE_n (R163) -/
  | lockState (c : Fin 128) (l : Fin 64)
  /-- LOCK_DL_BASE_n (R163) -/
  | lockDlBase (c : Fin 128) (l : Fin 64)
  /-- LOCK_DL_PERIOD_n (R163) -/
  | lockDlPeriod (c : Fin 128) (l : Fin 64)
  /-- LOCK_SIDEBAND_n (R163) -/
  | lockSideband (c : Fin 128) (l : Fin 64)
  /-- GAL_CAUSE (R221) -/
  | galCause (s : Fin 128)
  /-- GAL_CAUSE_EN (R221) -/
  | galCauseEn (s : Fin 128)
  /-- GAL_COUNT (R221) -/
  | galCount (s : Fin 128)
  /-- SUM_CFG_n (R208) -/
  | sumCfg (s : Fin 128) (d : Fin 16)
  /-- SUM_STATE_n (R208) -/
  | sumState (s : Fin 128) (d : Fin 16)
  /-- SUM_LEAF_i (R208) -/
  | sumLeaf (s : Fin 128) (i : Fin 528)
  deriving Repr

/-- The check-value base of a unit (R489, R488). -/
def cvuBase (u : Fin 136) : Nat :=
  if u.val < 128 then 0x100000 + 0x4000 * u.val + 0x600 else 0x11000 + 0x100 * (u.val - 128)

/-- The BAR0 offset of a register (R488, R489, R496). -/
def Reg.offset : Reg → Nat
  | .hmState => 0x000
  | .hmFault => 0x004
  | .winBase => 0x008
  | .hmIntCtrl => 0x010
  | .hmCause => 0x018
  | .hmCauseEn => 0x01C
  | .hmChart => 0x020
  | .hmSummary i => 0x040 + 8 * i.val
  | .hmSummaryEn i => 0x060 + 8 * i.val
  | .mbCmdBase n => 0x100 + 0x40 * n.val
  | .mbRplBase n => 0x108 + 0x40 * n.val
  | .mbCfg n => 0x110 + 0x40 * n.val
  | .mbCmdDb n => 0x118 + 0x40 * n.val
  | .mbRplDb n => 0x11C + 0x40 * n.val
  | .mbStatus n => 0x120 + 0x40 * n.val
  | .grpCause g => 0x1000 + 8 * g.val
  | .msixEntry i => 0x2000 + 8 * i.val
  | .msixPba => 0x2800
  | .ringHead k => 0x3000 + 0x20 * k.val
  | .ringTail k => 0x3004 + 0x20 * k.val
  | .ringLost k => 0x3008 + 0x20 * k.val
  | .traceDrops t => 0x3080 + 8 * t.val
  | .tideNow => 0x10000
  | .tideFrac => 0x10008
  | .tideStatus => 0x10010
  | .govStatus h => 0x10100 + 8 * h.index
  | .stopCause => 0x10110
  | .stopTide => 0x10118
  | .stopSched => 0x10120
  | .detStatus => 0x10200
  | .secStatus => 0x10300
  | .memCause h => 0x20000 + 0x100 * h.index + 0x000
  | .memCauseEn h => 0x20000 + 0x100 * h.index + 0x004
  | .memCount h => 0x20000 + 0x100 * h.index + 0x008
  | .memErasureReads h => 0x20000 + 0x100 * h.index + 0x010
  | .memPkgState h => 0x20000 + 0x100 * h.index + 0x018
  | .memErase h i => 0x20000 + 0x100 * h.index + (0x020 + 4 * i.val)
  | .redCause h => 0x21000 + 0x1000 * h.index + 0x000
  | .redCauseEn h => 0x21000 + 0x1000 * h.index + 0x004
  | .redCount h => 0x21000 + 0x1000 * h.index + 0x008
  | .redStepStatus h => 0x21000 + 0x1000 * h.index + 0x010
  | .redChanState h i => 0x21000 + 0x1000 * h.index + (0x100 + 8 * i.val)
  | .quayStatus q => 0x30000 + 0x100 * q.val + 0x000
  | .quayDelay q => 0x30000 + 0x100 * q.val + 0x004
  | .tideAsym q => 0x30000 + 0x100 * q.val + 0x008
  | .quayCause q => 0x30000 + 0x100 * q.val + 0x010
  | .quayCauseEn q => 0x30000 + 0x100 * q.val + 0x014
  | .quayCount q => 0x30000 + 0x100 * q.val + 0x018
  | .fabricCause => 0x33000
  | .fabricCauseEn => 0x33004
  | .fabricCount => 0x33008
  | .commitCfg => 0x40000
  | .stepNumber => 0x40008
  | .stepFlags => 0x40010
  | .commitSideband => 0x40018
  | .lossScale => 0x40020
  | .rngSeed => 0x40028
  | .sketchReq => 0x40030
  | .commitCause => 0x40038
  | .commitCauseEn => 0x4003C
  | .updCount => 0x40040
  | .norm i w => 0x50000 + 0x20 * i.val + 8 * w.val
  | .palCount c => 0x100000 + 0x4000 * c.val + 0x000
  | .palCause c => 0x100000 + 0x4000 * c.val + 0x008
  | .palCauseEn c => 0x100000 + 0x4000 * c.val + 0x00C
  | .easelCause c => 0x100000 + 0x4000 * c.val + 0x100
  | .easelCauseEn c => 0x100000 + 0x4000 * c.val + 0x104
  | .easelSteps c e => 0x100000 + 0x4000 * c.val + (0x110 + 0x10 * e.val)
  | .easelFeed c e => 0x100000 + 0x4000 * c.val + (0x118 + 0x10 * e.val)
  | .sparseCause c => 0x100000 + 0x4000 * c.val + 0x200
  | .sparseCauseEn c => 0x100000 + 0x4000 * c.val + 0x204
  | .sparseCount c => 0x100000 + 0x4000 * c.val + 0x208
  | .seqCause c => 0x100000 + 0x4000 * c.val + 0x300
  | .seqCauseEn c => 0x100000 + 0x4000 * c.val + 0x304
  | .seqFault c => 0x100000 + 0x4000 * c.val + 0x308
  | .seqCount c => 0x100000 + 0x4000 * c.val + 0x310
  | .berthTableBase c => 0x100000 + 0x4000 * c.val + 0x318
  | .dmaCause c => 0x100000 + 0x4000 * c.val + 0x400
  | .dmaCauseEn c => 0x100000 + 0x4000 * c.val + 0x404
  | .dmaCount c => 0x100000 + 0x4000 * c.val + 0x408
  | .padCause c => 0x100000 + 0x4000 * c.val + 0x500
  | .padCauseEn c => 0x100000 + 0x4000 * c.val + 0x504
  | .padCount c => 0x100000 + 0x4000 * c.val + 0x508
  | .cvuCause u => cvuBase u + 0x000
  | .cvuCauseEn u => cvuBase u + 0x004
  | .cvuCount u => cvuBase u + 0x008
  | .cvuLast u => cvuBase u + 0x010
  | .lockCfg c l => 0x100000 + 0x4000 * c.val + 0x1000 + 0x40 * l.val + 0x00
  | .lockState c l => 0x100000 + 0x4000 * c.val + 0x1000 + 0x40 * l.val + 0x08
  | .lockDlBase c l => 0x100000 + 0x4000 * c.val + 0x1000 + 0x40 * l.val + 0x10
  | .lockDlPeriod c l => 0x100000 + 0x4000 * c.val + 0x1000 + 0x40 * l.val + 0x18
  | .lockSideband c l => 0x100000 + 0x4000 * c.val + 0x1000 + 0x40 * l.val + 0x20
  | .galCause s => 0x400000 + 0x4000 * s.val + 0x000
  | .galCauseEn s => 0x400000 + 0x4000 * s.val + 0x004
  | .galCount s => 0x400000 + 0x4000 * s.val + 0x008
  | .sumCfg s d => 0x400000 + 0x4000 * s.val + (0x100 + 0x10 * d.val)
  | .sumState s d => 0x400000 + 0x4000 * s.val + (0x108 + 0x10 * d.val)
  | .sumLeaf s i => 0x400000 + 0x4000 * s.val + (0x1000 + 8 * i.val)

/-- The width of a register in bits (R496). -/
def Reg.width : Reg → Nat
  | .hmState => 32
  | .hmFault => 32
  | .hmIntCtrl => 32
  | .hmCause => 32
  | .hmCauseEn => 32
  | .hmChart => 32
  | .mbCfg _ => 32
  | .mbCmdDb _ => 32
  | .mbRplDb _ => 32
  | .ringHead _ => 32
  | .ringTail _ => 32
  | .tideFrac => 32
  | .tideStatus => 32
  | .stopCause => 32
  | .detStatus => 32
  | .secStatus => 32
  | .memCause _ => 32
  | .memCauseEn _ => 32
  | .memErase _ _ => 32
  | .redCause _ => 32
  | .redCauseEn _ => 32
  | .quayStatus _ => 32
  | .quayDelay _ => 32
  | .tideAsym _ => 32
  | .quayCause _ => 32
  | .quayCauseEn _ => 32
  | .fabricCause => 32
  | .fabricCauseEn => 32
  | .stepFlags => 32
  | .sketchReq => 32
  | .commitCause => 32
  | .commitCauseEn => 32
  | .palCause _ => 32
  | .palCauseEn _ => 32
  | .easelCause _ => 32
  | .easelCauseEn _ => 32
  | .sparseCause _ => 32
  | .sparseCauseEn _ => 32
  | .seqCause _ => 32
  | .seqCauseEn _ => 32
  | .berthTableBase _ => 32
  | .dmaCause _ => 32
  | .dmaCauseEn _ => 32
  | .padCause _ => 32
  | .padCauseEn _ => 32
  | .cvuCause _ => 32
  | .cvuCauseEn _ => 32
  | .galCause _ => 32
  | .galCauseEn _ => 32
  | _ => 64

/-- The Reset column of a register (registers that R495 calls live are computed from the state instead). -/
def Reg.reset : Reg → W64
  | .hmCauseEn => 0x3fff
  | .hmSummaryEn i => if i.val = 2 then 0x3F else 0xFFFFFFFFFFFFFFFF
  | .mbCfg _ => 0x4
  | .msixEntry i => if i.val = 1 then 0x100000000 else 0
  | .memCauseEn _ => 0x1fe
  | .redCauseEn _ => 0xed
  | .redStepStatus _ => 0x3
  | .quayCauseEn _ => 0x39
  | .fabricCauseEn => 0x3f
  | .stepFlags => 0x3
  | .lossScale => 0x07D01118F2000010
  | .commitCauseEn => 0x7e
  | .palCauseEn _ => 0x8
  | .easelCauseEn _ => 0x7
  | .sparseCauseEn _ => 0xdd
  | .seqCauseEn _ => 0x7f
  | .dmaCauseEn _ => 0xf
  | .padCauseEn _ => 0x5
  | .cvuCauseEn _ => 0x1
  | .lockSideband _ _ => 0xFFFFFFFF
  | .galCauseEn _ => 0x1d
  | _ => 0

/-- The access types that a host write or read acts on (R6); a bit in no listed field is RO or reserved. -/
inductive Access where
  | rw | w1c | rc
  deriving DecidableEq, Repr

/-- A field of a register: its access type and its bits. -/
structure Field where
  acc : Access
  hi  : Nat
  lo  : Nat
  deriving DecidableEq, Repr

/-- The fields of a register that are not RO, by the register tables of the chapters. -/
def Reg.fields : Reg → List Field
  | .winBase => [.mk .rw 11 0]
  | .hmIntCtrl => [.mk .rw 15 0]
  | .hmCause => [.mk .w1c 13 0]
  | .hmCauseEn => [.mk .rw 13 0]
  | .hmSummary i => if i.val = 2 then [.mk .w1c 5 0] else [.mk .w1c 63 0]
  | .hmSummaryEn i => if i.val = 2 then [.mk .rw 5 0] else [.mk .rw 63 0]
  | .mbCmdBase _ => [.mk .rw 63 12]
  | .mbRplBase _ => [.mk .rw 63 12]
  | .mbCfg _ => [.mk .rw 31 31, .mk .rw 3 0]
  | .mbCmdDb _ => [.mk .rw 15 0]
  | .mbRplDb _ => [.mk .rw 15 0]
  | .grpCause _ => [.mk .w1c 63 0]
  | .msixEntry i => if i.val = 1 then [.mk .rw 31 0, .mk .rw 32 32] else [.mk .rw 63 0]
  | .ringTail _ => [.mk .rw 31 0]
  | .ringLost _ => [.mk .rc 63 0]
  | .traceDrops _ => [.mk .rc 63 0]
  | .stopCause => [.mk .w1c 10 0]
  | .detStatus => [.mk .w1c 10 0]
  | .memCause _ => [.mk .w1c 8 0]
  | .memCauseEn _ => [.mk .rw 8 0]
  | .memCount _ => [.mk .rc 63 48, .mk .rc 47 32, .mk .rc 31 16, .mk .rc 15 0]
  | .memErasureReads _ => [.mk .rc 63 0]
  | .redCause _ => [.mk .w1c 7 0]
  | .redCauseEn _ => [.mk .rw 7 0]
  | .redCount _ => [.mk .rc 63 48, .mk .rc 47 32, .mk .rc 31 16, .mk .rc 15 0]
  | .tideAsym _ => [.mk .rw 31 0]
  | .quayCause _ => [.mk .w1c 5 0]
  | .quayCauseEn _ => [.mk .rw 5 0]
  | .quayCount _ => [.mk .rc 63 48, .mk .rc 47 32, .mk .rc 31 16, .mk .rc 15 0]
  | .fabricCause => [.mk .w1c 5 0]
  | .fabricCauseEn => [.mk .rw 5 0]
  | .fabricCount => [.mk .rc 63 48, .mk .rc 47 32, .mk .rc 31 16, .mk .rc 15 0]
  | .lossScale => [.mk .rw 63 48, .mk .rw 47 44, .mk .rw 43 40, .mk .rw 39 32, .mk .rw 31 24, .mk .rw 7 0]
  | .sketchReq => [.mk .rw 31 0]
  | .commitCause => [.mk .w1c 6 0]
  | .commitCauseEn => [.mk .rw 6 0]
  | .updCount => [.mk .rc 63 32, .mk .rc 31 16, .mk .rc 15 0]
  | .palCount _ => [.mk .rc 63 48, .mk .rc 47 32, .mk .rc 31 0]
  | .palCause _ => [.mk .w1c 3 0]
  | .palCauseEn _ => [.mk .rw 3 0]
  | .easelCause _ => [.mk .w1c 11 0]
  | .easelCauseEn _ => [.mk .rw 2 0]
  | .easelFeed _ _ => [.mk .rc 63 32, .mk .rc 31 0]
  | .sparseCause _ => [.mk .w1c 7 0]
  | .sparseCauseEn _ => [.mk .rw 7 0]
  | .sparseCount _ => [.mk .rc 63 48, .mk .rc 47 32, .mk .rc 31 16, .mk .rc 15 0]
  | .seqCause _ => [.mk .w1c 6 0]
  | .seqCauseEn _ => [.mk .rw 6 0]
  | .seqFault _ => [.mk .w1c 63 63]
  | .seqCount _ => [.mk .rc 63 48, .mk .rc 47 32, .mk .rc 31 16, .mk .rc 15 0]
  | .dmaCause _ => [.mk .w1c 3 0]
  | .dmaCauseEn _ => [.mk .rw 3 0]
  | .dmaCount _ => [.mk .rc 63 32, .mk .rc 31 0]
  | .padCause _ => [.mk .w1c 2 0]
  | .padCauseEn _ => [.mk .rw 2 0]
  | .padCount _ => [.mk .rc 63 48, .mk .rc 47 32, .mk .rc 31 16, .mk .rc 15 0]
  | .cvuCause _ => [.mk .w1c 0 0]
  | .cvuCauseEn _ => [.mk .rw 0 0]
  | .cvuCount _ => [.mk .rc 63 32, .mk .rc 31 0]
  | .galCause _ => [.mk .w1c 4 0]
  | .galCauseEn _ => [.mk .rw 4 0]
  | .galCount _ => [.mk .rc 63 48, .mk .rc 47 32, .mk .rc 31 16, .mk .rc 15 0]
  | _ => []

/-- Where REGISTER_WRITE reaches the function's configuration space (DESIGN CHOICE, log entry 82: no rule gives its offsets): its power management control,
whose bits [1:0] are 3 in D3hot, and its MSI-X control with MSI-X Enable in bit 31 and Function Mask in bit 30. -/
def cfgPower : Nat := 0x1000000
def cfgMsix : Nat := 0x1000004

end Machine
end Sys2Proof
end

