-- ==== Sys2Proof/Machine/Tab.lean ====
section
/-! DEFINITION. Sparse tables: lists of key and value pairs in one canonical form (keys strictly rising, no entry equal to
what an unlisted key reads as). Memories, register files and the tables of the units are held in this form. -/

namespace Sys2Proof.Machine

/-- A sparse table from natural-number keys. -/
abbrev Tab (α : Type) := List (Nat × α)

/-- What key `k` reads as; `d` where no entry lists it. -/
def Tab.get {α : Type} (d : α) : Tab α → Nat → α
  | [], _ => d
  | (j, v) :: t, k => if j = k then v else Tab.get d t k

/-- The entry of key `k`, if one is listed. -/
def Tab.find? {α : Type} : Tab α → Nat → Option α
  | [], _ => none
  | (j, v) :: t, k => if j = k then some v else Tab.find? t k

/-- The table without an entry for `k`. -/
def Tab.erase {α : Type} : Tab α → Nat → Tab α
  | [], _ => []
  | (j, v) :: t, k => if j = k then Tab.erase t k else (j, v) :: Tab.erase t k

/-- The table with `v` listed at `k`, in key order. -/
def Tab.put {α : Type} : Tab α → Nat → α → Tab α
  | [], k, v => [(k, v)]
  | (j, w) :: t, k, v =>
    if k < j then (k, v) :: (j, w) :: t else if j = k then (k, v) :: t else (j, w) :: Tab.put t k v

/-- The table in which `k` reads as `v`; no entry stands for the default `d`. -/
def Tab.set {α : Type} [DecidableEq α] (d : α) (t : Tab α) (k : Nat) (v : α) : Tab α :=
  if v = d then Tab.erase t k else Tab.put t k v

/-- The table with `v` written at `k`, `k + 1`, … for the values of the list. -/
def Tab.setMany {α : Type} [DecidableEq α] (d : α) : Tab α → Nat → List α → Tab α
  | t, _, [] => t
  | t, k, v :: vs => Tab.setMany d (Tab.set d t k v) (k + 1) vs

/-- The `n` values from key `k` on. -/
def Tab.getMany {α : Type} (d : α) (t : Tab α) (k : Nat) : Nat → List α
  | 0 => []
  | n + 1 => Tab.get d t k :: Tab.getMany d t (k + 1) n

/-- The table without its entries of keys `lo` to `hi - 1`. -/
def Tab.eraseRange {α : Type} (t : Tab α) (lo hi : Nat) : Tab α :=
  t.filter fun e => !(decide (lo ≤ e.1) && decide (e.1 < hi))

/-- Keys rise strictly and lie above `lo`. -/
def Tab.sortedFrom {α : Type} : Option Nat → Tab α → Bool
  | _, [] => true
  | none, (j, _) :: t => Tab.sortedFrom (some j) t
  | some lo, (j, _) :: t => decide (lo < j) && Tab.sortedFrom (some j) t

/-- The canonical form of a table with default `d`. -/
def Tab.wf {α : Type} [DecidableEq α] (d : α) (t : Tab α) : Bool :=
  Tab.sortedFrom none t && t.all fun e => decide (e.2 ≠ d)

/-- Sorted insertion into a list of marks (a set of natural numbers). -/
def Marks.insert : List Nat → Nat → List Nat
  | [], k => [k]
  | j :: t, k => if k < j then k :: j :: t else if j = k then j :: t else j :: Marks.insert t k

/-- The marks without `k`. -/
def Marks.erase (l : List Nat) (k : Nat) : List Nat := l.filter fun j => decide (j ≠ k)

end Sys2Proof.Machine
end

