-- ==== Sys2Proof/Machine/Types.lean ====
section
/-! DEFINITION. The parts of the state of the units: charts, strands, operations in flight, locks, logs, mailboxes. -/

namespace Sys2Proof.Machine

/-- The device states of R400. -/
inductive DevState where
  | off | boot | verify | gesso | ready | loaded | running | held | draining | recovery | fault
  deriving DecidableEq, Repr

/-- The roles of a chip in the hall's tide (R40). -/
inductive TideRole where
  | free | source | follower
  deriving DecidableEq, Repr

/-- TIDE_STATUS.STATE (R46). -/
inductive TideState where
  | acquiring | locked | holdover | freeRun
  deriving DecidableEq, Repr

/-- A chart (R395). Voltages are in units of 2.5 mV. `intact` is false for a stored image whose CHECK, FORMAT_VERSION or
CHART_NO is wrong. -/
structure Chart where
  intact         : Bool
  relaxed        : Bool
  west           : Bool
  east           : Bool
  opPoint        : Nat
  strokePeriod   : Nat
  slackMargin    : Nat
  slackFloor     : Nat
  vmin           : Nat
  vmax           : Nat
  junctionLimit  : Nat
  tideRole       : TideRole
  powerCap       : Nat
  tideUpstream   : List Nat
  tideTolerance  : Nat
  waitTolerance  : Nat
  fabricProtoMax : Nat
  redIqwOnly     : Bool
  quayEnable     : Nat
  fabricCycle    : Nat
  redF16wMax     : Nat
  galleryRegions : Nat
  sketchAudit    : Nat
  sramScrub      : Nat
  dramScrub      : Nat
  logBudget      : Nat
  traceBudget    : Nat
  alarmBudget    : Nat
  deriving DecidableEq, Repr

/-- The tide unit (R38–R46). `ran`: the tide has run since power-on. Errors are in units of 10 ps; in HOLDOVER the estimate grows from `estError` at the tide `errFrom`. -/
structure Tide where
  count      : Nat
  frac       : Nat
  running    : Bool
  ran        : Bool
  latchedHi  : Nat
  pendingSet : Option Nat
  role       : TideRole
  state      : TideState
  stratum    : Nat
  upstream   : Option Nat
  estError   : Nat
  errFrom    : Nat
  lastError  : Nat
  refPresent : Bool
  ppsPresent : Bool
  recovered  : Bool
  deriving DecidableEq, Repr

/-- One half's governor (R47–R51). Voltages are in units of 0.1 mV; slacks in per-mille, signed. `coreNext`: the VCORE to write once VSRAM is
confirmed; `sramNext`: the VSRAM to write once VCORE is (R49). `periodSlip`: a slip of the half fell in the running period. `failed` and
`sramFailed`: the last read-back of VCORE and of VSRAM failed (R50). -/
structure Governor where
  vcore       : Nat
  vsram       : Nat
  coreNext    : Option Nat
  sramNext    : Option Nat
  slackMin    : Int
  slackNow    : Int
  history     : List Int
  periodMin   : Option Int
  goodPeriods : Nat
  strokes     : Nat
  atVmaxAll   : Bool
  action      : Nat
  periodSlip  : Bool
  tjMax       : Int
  failed      : Bool
  sramFailed  : Bool
  coreMa      : Nat
  sramMa      : Nat
  deriving DecidableEq, Repr

/-- The states of a strand context (R135). -/
inductive StrandStatus where
  | free | ready | waiting | parked | faulted | done
  deriving DecidableEq, Repr

/-- What a WAITING or PARKED context waits for. `retry`: the instruction at PC is tried again at each boundary (R140–R143).
`lock`: an LENTER waits for its round to open and then writes the side band to `dest`. `parked`: an entry two rounds ahead waits
for its chamber (R164). `opened`: an LWAIT is tried again at each boundary and is noted for the deadline of its round (R166). `fenced`: a FENCE is tried
again, and orders the operations numbered below `next`, those issued before it (R170). -/
inductive WaitKind where
  | retry
  | opened (key round : Nat)
  | fenced (next : Nat)
  | lock (key round dest : Nat)
  | parked (key round dest : Nat) (sideband : W64) (arrive : Bool) (tag : Option Nat)
  deriving DecidableEq, Repr

/-- A wait: what for, the tide count of its issue boundary, its SCHED, whether its lateness has been raised (R143), and the boundary at which it is scheduled
to be satisfied (0 where no schedule gives one): of a WAITT its target, else SCHED strokes after its issue (R58). -/
structure Wait where
  kind  : WaitKind
  since : Nat
  sched : Nat
  late  : Bool
  due   : Nat := 0
  deriving DecidableEq, Repr

/-- One strand context (R135). `regs` lists the registers that are not zero; `notBefore` is the first boundary of its next issue
group. -/
structure Strand where
  status    : StrandStatus
  regs      : Tab W64
  pc        : BitVec 15
  tags      : Tab Nat
  pendRegs  : BitVec 32
  fault     : Byte
  wait      : Option Wait
  notBefore : Nat
  deriving DecidableEq, Repr

/-- A context that the loader left FREE (R482). -/
def Strand.idle : Strand := { status := .free, regs := [], pc := 0, tags := [], pendRegs := 0, fault := 0, wait := none, notBefore := 0 }

/-- The engines and ports that accept operations (R142). -/
inductive Engine where
  | scalar | easel | varnish | palette | sketch | vector | dma | fabric | berth | lock | signal
  deriving DecidableEq, Repr

/-- An occurrence of a logged cause (R435, R436): its code, SOURCE, the key bytes of R439, payload items (R438), structure number
(R431; 0 none), whether it is an alarm, how many occurrences it stands for (R76), and the cause register bit that it sets (BAR0 offset and bit),
if any. -/
structure Event where
  cause     : Nat
  source    : Nat
  line      : Nat
  items     : List Nat
  structNo  : Nat
  alarm     : Bool
  times     : Nat
  injected  : Bool
  bit       : Option (Nat × Nat)
  deriving DecidableEq, Repr

/-- The kinds of write that FENCE tells apart (R170). -/
inductive OpKind where
  | plain | localWrite | fabricWrite
  deriving DecidableEq, Repr

/-- What an operation does at its visibility boundary (R35). Addresses are local (R21). -/
inductive Effect where
  | mem (addr : Nat) (bytes : List Byte)
  | memBits (addr : Nat) (mask val : Byte)
  | poison (addr : Nat) (len : Nat)
  | acc (key : Nat) (values : List W32)
  | feed (key : Nat) (bytes : List Byte)
  | reg (strand r : Nat) (v : W64)
  | signal (key : Nat) (v : W64)
  | berthEntry (key : Nat) (addr : Nat) (v : W64)
  | event (e : Event)
  | count (offset hi lo n : Nat)
  | wrapCount (offset n : Nat)
  | padCount (addr n : Nat)
  | gate (key descr : Nat)
  | fault (strand pc code : Nat)
  | det (bit : Nat)
  | sum (core slice tile : Nat) (values : List (Nat × W32 × Bool))
  | finite (strand pc : Nat) (bad : Bool)
  | setReg (offset : Nat) (v : W64)
  | field (offset hi lo x : Nat)
  | poisonVote
  | normPart (group part : Nat) (w2 g2 d2 : W64)
  | staged (channel tile : Nat)
  | rootCell (channel cell : Nat)
  | telemetry (which n : Nat)
  | disarm (id scope : Nat)
  | stepTag (addr : Nat)
  | atomic (strand r addr op : Nat) (operand cmp : W64)
  deriving DecidableEq, Repr

/-- The fields of an EOP with its effective rows and gate entry (R80, R151). -/
structure EopArgs where
  mask   : Nat
  bank   : Nat
  accum  : Bool
  aFmt   : BitVec 32
  wFmt   : BitVec 32
  aDir   : Bool
  wDir   : Bool
  pat    : Nat
  k      : Nat
  run    : Nat
  rows   : Nat
  cols   : Nat
  half   : Nat
  lead   : Nat
  follow : Nat
  band   : Option (Nat × Nat)
  gate   : Option (Nat × Nat)
  deriving DecidableEq, Repr

/-- A running EOP: its fields, its fed steps and open column blocks as its start found them, whether what it read of its pad was poisoned, whether a fill has
become visible in its feed half since, and the feed bytes that its earlier records held before such a fill (R85, R88). -/
structure EopRun where
  args  : EopArgs
  steps : List (Nat × Nat)
  gates : List Bool
  bad   : Bool
  dirty : Bool
  old   : Tab Byte
  deriving DecidableEq, Repr

/-- The words and register operands of a vector-class instruction. -/
structure VecArgs where
  w  : Word0
  w1 : W64
  w2 : W64
  ra : W64
  rb : W64
  rc : W64
  rd : W64
  deriving DecidableEq, Repr

/-- The fields of a VST (R97, R152): FUSE_OP 0 NONE, 1 ADD, 2 MUL. -/
structure VstArgs where
  easel : Nat
  bank  : Nat
  fuse  : Nat
  trans : Bool
  rows  : Nat
  cols  : Nat
  gate  : Option (Nat × Nat)
  dst   : W64
  tile  : Nat
  src   : W64
  stile : Nat
  deriving DecidableEq, Repr

/-- The operands of an operation that its engine holds until it starts: in an easel's waiting slot (R83), or behind the vector unit's previous
operation (R34, R142). -/
inductive LateStart where
  | eop (a : EopArgs)
  | acc (write : Bool) (easel bank addr : Nat)
  | vst (a : VstArgs)
  | vector (opcode : Nat) (a : VecArgs)
  deriving DecidableEq, Repr

/-- Who asks for a slot of a bank, a port or a feed row (R199, R204, R206); an operation of a core asks for its engine, with its context. -/
inductive Requester where
  | scrub | service
  | sumUnit (slice : Nat)
  | quay (quay : Nat)
  | core (core : Nat) (engine : Engine) (ctx : Nat)
  deriving DecidableEq, Repr

/-- What a request reads or writes: a pad row or a gallery sector, by its local address, a sector of a sum window on its way to the sum unit, a row of an
easel's feed half (2 × easel + half, row), or, as the place of a meeting, the remote port of a core's pad. -/
inductive BankPlace where
  | row (addr : Nat)
  | port (core : Nat)
  | sector (addr : Nat)
  | feed (key row : Nat)
  deriving DecidableEq, Repr

/-- A request for a slot (R199–R206): the operation that it belongs to, if one; its bytes; the bank cycle in which it is performed unless a meeting defers
it, and the cycle for which it was made. -/
structure BankReq where
  op    : Option Nat
  who   : Requester
  place : BankPlace
  write : Bool
  bytes : Nat
  cycle : Nat
  since : Nat
  deriving DecidableEq, Repr

/-- What an operation holds from its start to its visibility boundary: an easel's EOPs, an accumulator bank, a palette pipe, a core's varnish stage (R74,
R83, R100), or a core's vector unit (R34); by their keys in State. -/
inductive HeldUnit where
  | easel (key : Nat)
  | bank (key : Nat)
  | pipe (key : Nat)
  | varnish (core : Nat)
  | vector (core : Nat)
  deriving DecidableEq, Repr

/-- What the visibility of a class F operation waits for (R273): an ack that covers a sequence number of a flow, or responses,
named by their destination addresses (LOAD_RESP) or their register (ATOMIC_RESP). -/
inductive RemoteWait where
  | none
  | ack (flow seq : Nat)
  | loads (addrs : List Nat)
  | atomic (r : Nat)
  deriving DecidableEq, Repr

/-- What an operation that reads main memory was issued or started from: its strand, memory with its poison marks, the accumulator banks, and what its engine
held until the start. A line that its slot finds changed since is read anew (R229). -/
structure ReadFrom where
  strand : Strand
  mem    : List Host.Cell
  poison : List Nat
  acc    : Tab W32
  later  : Option LateStart
  deriving DecidableEq, Repr

/-- An operation in flight (R34, R35): its boundaries, the strand and tag that it counts on, the registers that it holds pending,
its effects, which are computed from the state at its start boundary, the units that it holds, what a running EOP keeps of its feed, what one that reads main
memory started from, and what trace source 2 records of a DMA transfer (R445). -/
structure InFlight where
  id      : Nat
  strand  : Nat
  core    : Nat
  pc      : Nat
  engine  : Engine
  kind    : OpKind
  tag     : Option Nat
  regs    : List Nat
  issue   : Nat
  start   : Nat
  vis     : Nat
  late    : Bool
  later   : Option LateStart
  effects : List Effect
  remote  : RemoteWait
  holds   : List HeldUnit := []
  eop     : Option EopRun := none
  from_   : Option ReadFrom := none
  moves   : List Nat := []
  deriving DecidableEq, Repr

/-- The parts of a lock that its registers do not show: the combined side bands of the two chambers, the boundaries of the last
entry of each and of the last opening, the rounds that the chip has voted for, the rounds whose passed deadlines have been raised, the votes of other chips that the home holds (round, chip, side band), and the boundary and side band of a HALL opening that
a release has settled, and whether the home has queued the round's releases (R164–R166, R282). -/
structure LockX where
  side      : List W64
  lastEntry : List Nat
  lastOpen  : Nat
  voted     : List Nat
  deadlined : List Nat
  votes     : List (Nat × Nat × W64)
  due       : Option (Nat × W64)
  released  : Bool
  deriving DecidableEq, Repr

/-- A lock with empty chambers. The identity of a side band has an OR part of zero and an AND part of ones (R163). -/
def LockX.empty : LockX :=
  { side := [0xFFFFFFFF, 0xFFFFFFFF], lastEntry := [0, 0], lastOpen := 0, voted := [], deadlined := [], votes := [],
    due := none, released := false }

/-- A dimension entry of a manifest (R175). -/
structure Dim where
  extent     : Nat
  stride     : Int
  padLo      : Nat
  padHi      : Nat
  shardBlock : Nat
  shardKind  : Nat
  shardAxis  : Nat
  deriving DecidableEq, Repr

/-- A manifest record (R174). `dims` has six entries. -/
structure Manifest where
  format      : BitVec 32
  ndim        : Nat
  use         : Nat
  stencilled  : Bool
  distributed : Bool
  scaleArray  : Bool
  padFill     : Nat
  padValue    : W32
  scaleMan    : Nat
  grid        : Nat
  allocBase   : Nat
  allocSize   : Nat
  offset      : Nat
  stencilBase : Nat
  dims        : List Dim
  deriving DecidableEq, Repr

/-- A grid descriptor (R186). -/
structure Grid where
  axes     : Nat
  chipBase : Nat
  extents  : List Nat
  strides  : List Nat
  deriving DecidableEq, Repr

/-- A logbook record (R437). -/
structure LogRec where
  seq       : Nat
  cause     : Nat
  alarm     : Bool
  flags     : Nat
  first     : Nat
  last      : Nat
  count     : Nat
  source    : Nat
  phys      : Nat
  line      : Nat
  payload   : List Byte
  deriving DecidableEq, Repr

/-- A pending entry of the alarm table (R443). `reserved`: the cause's reserved entry (R444); `cut`: its payload is TRUNCATED (R438). -/
structure AlarmEntry where
  cause    : Nat
  source   : Nat
  reserved : Bool
  first    : Nat
  last     : Nat
  count    : Nat
  injected : Bool
  payload  : List Byte
  cut      : Bool
  deriving DecidableEq, Repr

/-- A host ring of R449: whether it is configured, its address, size and watermark, and its path's credit in units of 1 nB at a tide. -/
structure HostRing where
  configured : Bool
  addr       : Nat
  sizeLog2   : Nat
  watermark  : Nat
  credit     : Nat
  creditAt   : Nat
  deriving DecidableEq, Repr

/-- A trace record (R446); `gap`: it is a GAP record. -/
structure TraceRec where
  gap  : Bool
  tide : Nat
  src  : Nat
  kind : Byte
  inst : Nat
  aux  : W32
  data : BitVec 128
  deriving DecidableEq, Repr

/-- A trace source's device buffer and the credit of its share in units of 1 nB at a tide (R447). -/
structure TraceBuf where
  recs      : List TraceRec
  dropping  : Bool
  dropped   : Nat
  firstDrop : Nat
  lastDrop  : Nat
  credit    : Nat
  creditAt  : Nat
  deriving DecidableEq, Repr

/-- The trace configuration of R448 and the buffers of the eight sources. -/
structure Trace where
  ring     : HostRing
  sources  : Nat
  coreMask : Nat
  quayMask : Nat
  bufs     : List TraceBuf
  deriving DecidableEq, Repr

/-- The logbook, its open records and pinned area, the alarm table and the trace buffers (R437–R449). `nextSeq` and `mirrored` count records without
wrapping: the next to enter, and the next to mirror. -/
structure Log where
  open_     : List LogRec
  ring      : List LogRec
  pins      : List LogRec
  nextSeq   : Nat
  mirrored  : Nat
  alarms    : List AlarmEntry
  alarmSeq  : Nat
  logRing   : HostRing
  alarmRing : HostRing
  trace     : Trace
  armings   : List (Nat × Nat × Nat)
  deriving DecidableEq, Repr

/-- A running L command (R373). `cut`: its mailbox has been disabled since, so its reply is logged and not written (R368). -/
structure Running where
  opcode : Nat
  mb     : Fin 4
  tag    : W32
  desc   : Desc
  cut    : Bool
  deriving DecidableEq, Repr

/-- The capabilities that the configuration space presents (R361). -/
inductive PciCap where
  | pciExpress | functionLevelReset | msix | powerManagement | advancedErrors | serialNumber | dataLinkFeature | physical64 | laneMargining
  deriving DecidableEq, Repr

/-- A base address register of the function (R361): its number, whether it is 64 bits wide and prefetchable, and its size as a power of two. -/
structure PciBar where
  no       : Nat
  wide     : Bool
  prefetch : Bool
  log2     : Nat
  deriving DecidableEq, Repr

/-- The PCI Express function (R361, R363, R389): the identifiers, BARs and capabilities of its configuration space, whether it supports 10-bit tags and honours
relaxed ordering and no-snoop on received requests, whether it is in D3hot, MSI-X enable and function mask, and whether the device's last write to host memory
carried the Relaxed Ordering attribute. -/
structure PciFn where
  vendor    : BitVec 16
  device    : BitVec 16
  revision  : Byte
  classCode : BitVec 24
  intPin    : Byte
  bars      : List PciBar
  maxPay    : Nat
  maxRead   : Nat
  tags10    : Bool
  relaxedIn : Bool
  noSnoop   : Bool
  caps      : List PciCap
  d3hot     : Bool
  msixOn    : Bool
  msixMask  : Bool
  relaxed   : Bool
  deriving DecidableEq, Repr

/-- The host side of the block: the PCI Express function, the pilot protocol, the running L command, host memory as the device has written it, the
interrupt lines, the image of a running PLAN_LOAD, ring entries that wait to be taken (`none`: the device's read of the entry fails). -/
structure HostIf where
  pci         : PciFn
  proto       : Nat
  busy        : Option Running
  lastServed  : Nat
  phase       : List Bool
  loading     : Option HostImage
  mem         : Tab Byte
  lastRead    : W64
  readData    : List Byte
  condition   : Bool
  msgDue      : Bool
  lastMsg     : Option Nat
  msgs        : Nat
  linkUp      : Bool
  held        : List (Fin 4 × Option RingEntry)
  services    : List (Bar2Access × Nat)
  pendingRegs : List (Nat × Nat × W64)
  deriving DecidableEq, Repr

end Sys2Proof.Machine
end

