-- ==== Sys2Proof/Machine/TypesFab.lean ====
section
/-! DEFINITION. The parts of the state of the fabric, the reduction units, the commit machinery, main memory, a loaded plan,
the security functions and the device as a whole. -/

namespace Sys2Proof.Machine

/-- The fields of a cell (R258); `payload` has `len` bytes, and the bytes beyond are zero. -/
structure Cell where
  kind      : Nat
  flags     : Nat
  len       : Nat
  srcChip   : Nat
  dstChip   : Nat
  rxFlow    : Nat
  planCycle : Nat
  seq       : Nat
  addr      : Nat
  arg       : W64
  payload   : List Byte
  deriving DecidableEq, Repr

/-- A cell of a send flow that waits for its slot, with the tide at which it is complete, in picoseconds (R255, R264), and the tide at which the operation
that it belongs to was issued (R56). -/
structure Queued where
  cell   : Cell
  ready  : Nat
  issued : Nat
  deriving DecidableEq, Repr

/-- A flow context (R262), with the device's own parts: the cells waiting to be sent, the tide in picoseconds at which an ack fell due (R277), and the
committed sequence numbers above COMMITTED of an unordered flow (R275). `role`: 0 UNUSED, 1 SEND, 2 RECV. -/
structure Flow where
  role       : Nat
  ackCarrier : Bool
  ordered    : Bool
  broken     : Bool
  berthEn    : Bool
  berth      : Nat
  proxy      : Nat
  peerChip   : Nat
  peerFlow   : Nat
  returnFlow : Nat
  credits    : Nat
  seq        : Nat
  acked      : Nat
  winBase    : Nat
  winSize    : Nat
  queue      : List Queued
  ackDue     : Option Nat
  above      : List Nat
  deriving DecidableEq, Repr

/-- An unused flow context. -/
def Flow.unused : Flow :=
  { role := 0, ackCarrier := false, ordered := false, broken := false, berthEn := false, berth := 0, proxy := 0, peerChip := 0,
    peerFlow := 0, returnFlow := 0, credits := 0, seq := 0, acked := 0, winBase := 0, winSize := 0, queue := [], ackDue := none,
    above := [] }

/-- A received cell that waits for its commit, its arrival in picoseconds and, where it goes to main memory, the end of the slot that writes it
(R278). -/
structure RxCell where
  cell    : Cell
  arrival : Nat
  due     : Option Nat
  deriving DecidableEq, Repr

/-- The parts of a quay that its registers do not show (R255, R260, R275, R279, R283): the tables; the link counts of the two directions; the
last 512 cells sent with their LINK_SEQ; cells to resend, with how often each was requested; requests to send; how often each kept cell was
requested; the instants of failed checks; cells to relay, by slot; the outgoing quays of relay slots whose cells failed; cells to commit and
cells held for a gap; the stamps to echo; the configured peer; the tide that the peer reports; twice the offsets measured since the servo last
took them, in picoseconds, and their number; the last TRAIN cell sent (R249); the own chip, the peer and the TIDE_ASYM with which the last training began
(R251); the cycles of the slots whose cells were asked for again (R287). -/
structure Quay where
  txTable    : Tab W32
  rxTable    : Tab W32
  txSeq      : Nat
  rxSeq      : Nat
  history    : List (Nat × List Byte)
  resend     : List (Nat × List Byte)
  naks       : List Nat
  requests   : Tab Nat
  checkFails : List Nat
  relayed    : Tab (List Byte)
  awaiting   : List Nat
  arrived    : List RxCell
  heldCells  : List RxCell
  echoTx     : Nat
  echoRx     : Nat
  expectChip : Nat
  expectQuay : Nat
  peerTide   : Nat
  offsetSum  : Int
  offsetNum  : Nat
  trainTx    : List Byte
  ownChip    : Nat
  trainChip  : Nat
  trainQuay  : Nat
  asym       : Nat
  nakCycles  : List Nat
  deriving DecidableEq, Repr

/-- A quay after a COLD reset. -/
def Quay.reset : Quay :=
  { txTable := [], rxTable := [], txSeq := 0, rxSeq := 0, history := [], resend := [], naks := [], requests := [], checkFails := [],
    relayed := [], awaiting := [], arrived := [], heldCells := [], echoTx := 0, echoRx := 0, expectChip := 0, expectQuay := 0,
    peerTide := 0xF, offsetSum := 0, offsetNum := 0, trainTx := [], ownChip := 0, trainChip := 0, trainQuay := 0, asym := 0, nakCycles := [] }

/-- A waiting signal (R276): its counter, count, cover context and sequence number, and its own flow and sequence number. -/
structure WaitSignal where
  id      : Nat
  counter : Nat
  count   : W64
  cover   : Nat
  covers  : Nat
  flow    : Nat
  seq     : Nat
  deriving DecidableEq, Repr

/-- A committed LOAD_REQ entry whose data is being read (R269). -/
structure LoadServe where
  id    : Nat
  flow  : Nat
  src   : Nat
  dst   : Nat
  len   : Nat
  ready : Nat
  deriving DecidableEq, Repr

/-- Bytes that a received cell wrote, visible at the next stroke boundary, with their poison and PROXY_CORE of their flow (R278). -/
structure Landing where
  addr   : Nat
  bytes  : List Byte
  poison : Bool
  core   : Nat
  deriving DecidableEq, Repr

/-- A committed remote push, which takes effect at the next stroke boundary (R159, R160): its flow, its sender, its value, its poison. -/
structure RemotePush where
  flow    : Nat
  srcChip : Nat
  value   : List Byte
  poison  : Bool
  deriving DecidableEq, Repr

/-- The fabric of the chip (R245–R288). -/
structure Fabric where
  chip       : Nat
  configured : Bool
  hall       : List Nat
  quays      : Tab Quay
  flows      : Tab Flow
  signals    : List WaitSignal
  loads      : List LoadServe
  nextId     : Nat
  origin     : Nat
  shiftSum   : Nat
  landing    : List Landing
  pushes     : List RemotePush
  deriving DecidableEq, Repr

/-- A reduction channel descriptor (R289). -/
structure Channel where
  enabled      : Bool
  iqw          : Bool
  fp16         : Bool
  express      : Bool
  east         : Bool
  accumN       : Nat
  contributes  : Bool
  backupRole   : Bool
  groupSize    : Nat
  contrib      : Nat
  tiles        : Nat
  stage        : Nat
  result       : Nat
  armLock      : Nat
  armCore      : Nat
  cellPitch    : Nat
  mirrorFlow   : Nat
  mirrorBase   : Nat
  mirrorSignal : Nat
  mirrorCore   : Nat
  doneCounter  : Nat
  proxy        : Nat
  nodeFirst    : Nat
  nodeCount    : Nat
  deriving DecidableEq, Repr

/-- One input of a node entry (R299). -/
structure NodeIn where
  remote : Bool
  src    : Nat
  backup : Nat
  down   : Nat
  downB  : Nat
  deriving DecidableEq, Repr

/-- A node table entry (R299) with the channel that owns it. -/
structure Node where
  channel    : Nat
  lo         : Nat
  level      : Nat
  root       : Bool
  in0        : NodeIn
  in1        : NodeIn
  shardFirst : Nat
  shardTiles : Nat
  outFlow    : Nat
  upDown     : Nat
  deadline   : Nat
  deriving DecidableEq, Repr

/-- What a REDUCE cell carries (R305), in the input store or as an output in progress. `phase`: 0 SUM, 1 EXP_UP, 2 EXP_DOWN; `poison`: it comes from poisoned
data (R217, R258). -/
structure RedCell where
  entry    : Nat
  input    : Nat
  backup   : Bool
  phase    : Nat
  cell     : Nat
  values   : List Int
  residue  : Nat
  finite   : Bool
  srcChip  : Nat
  doneAt   : Nat
  poison   : Bool := false
  deriving DecidableEq, Repr

/-- The run-time state of a channel (R295, R297, R310, R311): tiles staged in the current step, the arm instant, whether ARM_LOCK has
opened since the channel last armed, the agreed exponents (2^20 × entry + cell), the cells that its entries have started and finished
(entry, phase, cell), the backed-up inputs that their deadlines have settled (2 × entry + input, phase, cell; 0 primary, 1 backup, 2 whichever
commits first), the root cells that are visible, whether the mirror copy has been queued and the sequence number of its signal, and the step of the last
BACKUP_TAKEN record. -/
structure ChanRun where
  staged    : List Nat
  armAt     : Option Nat
  lockOpen  : Bool
  exps      : Tab Nat
  started   : List (Nat × Nat × Nat)
  finished  : List (Nat × Nat × Nat)
  settled   : List (Nat × Nat × Nat × Nat)
  written   : List Nat
  mirrored  : Bool
  mirrorSeq : Nat
  takenStep : Option Nat
  deriving DecidableEq, Repr

/-- A channel that has not armed. -/
def ChanRun.idle : ChanRun :=
  { staged := [], armAt := none, lockOpen := false, exps := [], started := [], finished := [], settled := [], written := [],
    mirrored := false, mirrorSeq := 0, takenStep := none }

/-- The reduction units: descriptors, node tables (key 4096 × half + entry), channel state, input stores and outputs in progress. -/
structure Reduction where
  channels : Tab Channel
  nodes    : Tab Node
  runs     : Tab ChanRun
  store    : List RedCell
  outputs  : List RedCell
  deriving DecidableEq, Repr

/-- A norm group of the current step (R336): running sums, the next part to add, and whether a part was dropped. -/
structure NormRun where
  w2      : W64
  g2      : W64
  d2      : W64
  next    : Nat
  dropped : Bool
  deriving DecidableEq, Repr

/-- A part of a norm group that waits for its predecessors (R336). -/
structure NormWait where
  group : Nat
  part  : Nat
  w2    : W64
  g2    : W64
  d2    : W64
  deriving DecidableEq, Repr

/-- The window totals of a gated layer (R133): AUDITED, MISSES and SKIPPED of the window, whether this chip has requested dense
operation in it, whether the layer runs dense, and the counters read in the present step. -/
structure SketchRun where
  audited : Nat
  misses  : Nat
  skipped : Nat
  request : Bool
  dense   : Bool
  pendAud : Nat
  pendMis : Nat
  pendSki : Nat
  deriving DecidableEq, Repr

/-- A window with no counts (R133). -/
def SketchRun.fresh : SketchRun :=
  { audited := 0, misses := 0, skipped := 0, request := false, dense := false, pendAud := 0, pendMis := 0, pendSki := 0 }

/-- The commit machinery (R316–R336). `carried`: the dense requests that this step's vote carried; `gates`: the layer descriptor of the SKETCH
that last wrote the gate record at 65536 × core + pad address / 32 (R128, R131, R132). -/
structure Commit where
  carried : Nat
  norms   : Tab NormRun
  waiting : List NormWait
  layers  : Tab SketchRun
  gates   : Tab Nat
  deriving DecidableEq, Repr

/-- A gated layer of a loaded plan (R481). -/
structure SketchLayer where
  core       : Nat
  descr      : Nat
  group      : Nat
  deriving DecidableEq, Repr

/-- A lock as the plan image initialises it (R500). -/
structure LockInit where
  key      : Nat
  cfg      : W64
  dlBase   : W64
  dlPeriod : W64
  round    : Nat
  list     : List W64
  deriving DecidableEq, Repr

/-- What the loader keeps of a loaded plan: what RUN and RECOVER_EXIT start from (R403, R482), the declared end of the task
(R171), the declared ranges (R25) and the figures of the plan-load reply (R384). -/
structure Plan where
  planId      : W64
  isa1        : Bool
  fabricCycle : Nat
  allocs      : List (Nat × Nat)
  entries     : List (Nat × Nat × List (Nat × W64))
  berths      : List (Nat × Nat × W64)
  locks       : List LockInit
  endBerths   : Tab Nat
  endLocks    : Tab Nat
  endCounters : Tab W64
  hasFlows    : Bool
  layers      : List SketchLayer
  sysrdUses   : Nat
  sysrdFirst  : Nat
  spacing     : Nat
  padScrub    : Nat
  galScrub    : Nat
  dramScrub   : Nat
  manifests   : Nat
  slotsW      : List (Option Nat)
  slotsE      : List (Option Nat)
  deriving DecidableEq, Repr

/-- A slot that a transfer uses (R228, R229): its operation and core, the line, the start of the slot in thirds of a nanosecond, the boundary at which
the operation is visible, and whether the slot has passed. -/
structure LineUse where
  op    : Option Nat
  core  : Nat
  line  : Nat
  write : Bool
  slot  : Nat
  vis   : Nat
  done  : Bool
  deriving DecidableEq, Repr

/-- Main memory beside its contents (R226–R242): DEAD packages, halves under extra refresh, package temperatures and the times of BAD
bursts, retired pages, scrub queues (by group) and sweeps (8 × group + lane), the first free frame of each core's queue
(2 × core + half), transfers that have still to start using their queue (operation, first frame, slot uses), symbol errors as stored (by line:
package slot, position, difference), the slots of transfers that are not yet visible, the slot that each lane served last (8 × group + lane; 96 × frame + slot
number + 1), the marks that take effect at the next frame (0: package DEAD; 1: half and MEM_ERASE entry), the lines that scrub write slots have still to write
back, with the start of the slot in thirds of a nanosecond (R239), the lines that a partial write has read and not yet written, with its core (R233), and
the lines that a read delivered as poisoned and that are stored without the poison pattern until they are written (R232, R239), the bursts (16 × line + slot)
whose stored error is an injection's, and the packages and times of bursts that an injection made BAD (R433). -/
structure MainMem where
  dead       : List Nat
  hot        : List Bool
  temps      : Tab Int
  badTimes   : Tab (List Nat)
  retired    : List Nat
  scrubQueue : Tab (List Nat)
  sweep      : Tab Nat
  queueFree  : Tab Nat
  waiting    : List (Nat × Nat × Nat)
  burstErrs  : Tab (List (Nat × Nat × Byte))
  uses       : List LineUse
  lastSlot   : Tab Nat
  marks      : List (Nat × Nat × Nat)
  backs      : List (Nat × Nat)
  merging    : List (Nat × Nat)
  failed     : List Nat
  burstInj   : List Nat
  badInj     : List (Nat × Nat)
  deriving DecidableEq, Repr

/-- A contribution held at a sum unit (R211, R213): its window tile (slice, tile of the slice), its leaf, or its core where it waits for the next round, and
its values (element, FP32 value, whether it is poisoned). -/
structure SumHeld where
  slice  : Nat
  tile   : Nat
  leaf   : Nat
  values : List (Nat × W32 × Bool)
  deriving DecidableEq, Repr

/-- On-die memories beside their contents (R199–R218): sum-window contributions held, the ordinal counters of the cores, rows in
error and those of them whose error an injection stored (R433), the scrub queues and sweeps, and the requests for bank slots that are still to be
performed. -/
structure OnDie where
  sumHeld   : List SumHeld
  sumEarly  : List SumHeld
  ordinals  : Tab Nat
  leafDone  : List (Nat × Nat × Nat)
  rowErrs   : Tab (List Nat)
  rowInj    : List Nat
  rowQueue  : Tab (List Nat)
  rowSweep  : Tab Nat
  reqs      : List BankReq
  deriving DecidableEq, Repr

/-- A firmware image slot: the header fields that R458 checks, the signed bytes and the signature. -/
structure FwImage where
  header : List Byte
  body   : List Byte
  sig    : List Byte
  deriving DecidableEq, Repr

/-- Fuses, firmware slots, measurements and debug state (R456–R470). -/
structure Security where
  keyDigest    : List (List Byte)
  keyRevoked   : Nat
  debugDigest  : List Byte
  debugDisable : Bool
  rollback     : Nat
  seed         : List Byte
  slotA        : Option FwImage
  slotB        : Option FwImage
  activeB      : Bool
  runningB     : Bool
  fwVersion    : Nat
  secVersion   : Nat
  keySlot      : Nat
  revokeMask   : Nat
  fallback     : Bool
  staged       : Option FwImage
  status       : Nat
  measures     : List (List Byte)
  challenge    : Option (List Byte)
  unlocked     : Bool
  certificate  : List Byte
  serial       : List Byte
  deriving DecidableEq, Repr

/-- The device as a whole: state, fault, grade, positions, charts, pins and power-good inputs (R14–R18, R391–R406, R415). -/
structure Device where
  state      : DevState
  fault      : Nat
  faultFrom  : DevState
  grade      : Nat
  fuseBad    : List Nat
  testBad    : List Nat
  map        : Tab Nat
  foundW     : Option Nat
  foundE     : Option Nat
  chart      : Chart
  chartNo    : Nat
  stored     : List Chart
  pins       : Nat
  sampled    : Nat
  fallback   : Bool
  everReady  : Bool
  pgW        : Bool
  pgE        : Bool
  pgAux      : Bool
  testDone   : Bool
  memDone    : Bool
  holdLow    : Bool
  perstLow   : Bool
  tripW      : Bool
  tripE      : Bool
  selecting  : Option (Nat × Desc × Fin 4)
  warm       : Bool
  allocs     : Tab (Nat × Nat)
  services   : Tab Manifest
  deriving DecidableEq, Repr

/-- Where the run of a plan stands (R56, R58, R378–R380): the first boundary at which no strand issues, the stop and hold
requests, the start and the resume, standing mismatches, the entry to DRAINING, the code of the cause that stopped the chip, the waits that an
armed 0x0018 treats as late (strand key, PC, SCHED, due boundary), the READY strands that the last boundary left without an issue group, in the order in
which they are served next (R138), the pops of each berth at the present boundary (4096 × core + berth; R159), the bits of DET_STATUS that the next stroke
boundary sets (R355), the resume that the present stop found still to come, the boundary of the entry to HELD, and the resumes of this run: STOP_SCHED and
shift of each (R58); the boundary at which a PLAN reset takes effect (R405), and whether a cell of the running RECOVER_COPY arrived poisoned (R381). -/
structure RunCtl where
  stopFrom  : Option Nat
  holdAt    : Option (Nat × Nat)
  startAt   : Option Nat
  resumeAt  : Option (Nat × Nat)
  dirty     : Nat
  drainFrom : Option Nat
  stopCode  : Nat
  injLate   : List (Nat × Nat × Nat × Nat)
  deferred  : List Nat
  pops      : Tab Nat
  detDue    : List Nat
  cutResume : Option Nat
  heldAt    : Option Nat
  shifts    : List (Nat × Nat)
  resetAt   : Option Nat := none
  copyPoison : Bool := false
  deriving DecidableEq, Repr

/-- What the sensors last showed, where they have been read (R413, R418, R423): module power, the voltage (mV) and current (mA) of each fixed rail in the order of
R411, the power of each half's rails at its last ten reads of their currents (half, mW), temperatures, laser inputs, and the temperature of each optical engine (engine, °C). -/
structure Env where
  power     : Option Nat
  fixed     : List (Nat × Nat)
  halfMw    : List (Nat × Nat)
  engines   : Tab Int
  tjW       : Option Int
  tjE       : Option Int
  lasers    : Tab Int
  thermW    : Bool
  thermE    : Bool
  capOver   : Bool
  deriving DecidableEq, Repr

/-- The I3C target (R422, R423). `on`: the port answers, from its first refresh after BOOT entry until VIO falls. -/
structure I3c where
  on      : Bool
  address : Option (BitVec 7)
  offset  : Nat
  image   : List Byte
  out     : List Byte
  deriving DecidableEq, Repr

/-- The telemetry totals of R455. -/
structure Totals where
  easelSteps : Nat
  sectors    : Nat
  memSlots   : Nat
  cellsSent  : Nat
  resent     : Nat
  corrected  : Nat
  deriving DecidableEq, Repr

end Sys2Proof.Machine
end

