-- ==== Sys2Proof/Machine/State.lean ====
section
/-! DEFINITION. The state of the module as plain data, the reasons a step can stop, and the state after reset. -/

namespace Sys2Proof.Machine

/-- Why a step stops with a fault. -/
inductive Fault where
  /-- Raised by the meanings of CELL_RECEIVE and REDUCE_CELL_COMMIT on a cell operand of other than 320 bytes, which no slot carries
  (R253). Safe: the machine stops where no event exists. -/
  | cellSize
  deriving DecidableEq, Repr

/-- Why a step has no meaning. -/
inductive Refusal where
  /-- Raised by an arm of `exec` whose command has no meaning yet. Safe: the machine stops. -/
  | notModelled (mnemonic : String)
  deriving DecidableEq, Repr

/-- What a byte of local memory that the list does not hold reads as (log entry 2). -/
def Memory.unlisted : Byte := 0

/-- The canonical form of local memory: addresses strictly rising, and no entry equal to what an unlisted address reads as. -/
def Memory.wf (m : List Host.Cell) : Bool := Tab.wf Memory.unlisted m

/-- The state of the module.

Keys of the tables: `regs` BAR0 offset; `strands` 2048 × core + context; `code` and `marks` (the first words of instructions) 32768 × core + word; `signals`
1024 × core + counter; `lockx` 64 × core + lock; `acc` 16384 × (2 × (4 × core + easel) + bank) + element;
`feed` 131072 × (2 × (4 × core + easel) + half) + byte; `easelFree` 4 × core + easel; `bankFree` 2 × (4 × core + easel) + bank;
`pipeFree` 2 × core + pipe; `varnishFree` and `vectorFree` core; `mem` local address (R21).

`regs` lists the registers that differ from their Reset column, `snap` those that differed at the preceding stroke boundary, and `fresh` what
the counters have counted and which cause bits have been set since that boundary (R75, R492). `pending` and `freeCtr` are the model's own: the queue of waiting
commands and the counter of free values. -/
structure State where
  dev         : Device
  tide        : Tide
  govW        : Governor
  govE        : Governor
  run         : RunCtl
  regs        : Tab W64
  snap        : Tab W64
  fresh       : Tab W64
  strands     : Tab Strand
  code        : Tab W64
  marks       : Tab Bool
  signals     : Tab W64
  lockx       : Tab LockX
  ops         : List InFlight
  nextOp      : Nat
  acc         : Tab W32
  feed        : Tab Byte
  easelFree   : Tab Nat
  bankFree    : Tab Nat
  pipeFree    : Tab Nat
  varnishFree : Tab Nat
  vectorFree  : Tab Nat
  mem         : List Host.Cell
  poison      : List Nat
  onDie       : OnDie
  main        : MainMem
  manifests   : Tab Manifest
  grids       : Tab Grid
  fab         : Fabric
  red         : Reduction
  com         : Commit
  plan        : Option Plan
  log         : Log
  host        : HostIf
  sec         : Security
  env         : Env
  i3c         : I3c
  totals      : Totals
  pending     : List Instr
  freeCtr     : Nat
  deriving DecidableEq, Repr

/-- Chart 0 (R52, R396). -/
def Chart.shipped0 : Chart :=
  { intact := true, relaxed := false, west := true, east := true, opPoint := 0, strokePeriod := 4, slackMargin := 60, slackFloor := 30,
    vmin := 240, vmax := 320, junctionLimit := 100, tideRole := .free, powerCap := 2400, tideUpstream := [255, 255, 255, 255],
    tideTolerance := 2, waitTolerance := 8, fabricProtoMax := 2, redIqwOnly := false, quayEnable := 0xFFFFFFFFFFFF,
    fabricCycle := 16384, redF16wMax := 256, galleryRegions := 0xFFFF, sketchAudit := 10, sramScrub := 10, dramScrub := 3600,
    logBudget := 1000000, traceBudget := 500000000, alarmBudget := 64000 }

/-- Charts 1–3 as shipped (R396). -/
def Chart.shipped1 : Chart := { Chart.shipped0 with tideRole := .follower, tideUpstream := [0, 24, 255, 255] }

/-- Chart 2 as shipped (R396). -/
def Chart.shipped2 : Chart :=
  { Chart.shipped1 with opPoint := 2, vmin := 220, vmax := 288, junctionLimit := 95, powerCap := 1600 }

/-- Chart 3 as shipped (R396). -/
def Chart.shipped3 : Chart :=
  { Chart.shipped1 with east := false, opPoint := 1, vmin := 232, vmax := 304, powerCap := 1200, tideUpstream := [0, 12, 255, 255],
                        quayEnable := 0xFFFFFF, galleryRegions := 0xFF }

/-- The tide unit before the tide first runs (R40, R46). -/
def Tide.reset : Tide :=
  { count := 0, frac := 0, running := false, ran := false, latchedHi := 0, pendingSet := none, role := .free, state := .acquiring,
    stratum := 0xF, upstream := none, estError := 0xFFF, errFrom := 0, lastError := 0, refPresent := false, ppsPresent := false, recovered := false }

/-- A governor at the references of OP0 (R51, Reset column of GOV_STATUS). -/
def Governor.reset : Governor :=
  { vcore := 7200, vsram := 7500, coreNext := none, sramNext := none, slackMin := 0, slackNow := 0, history := [], periodMin := none, goodPeriods := 0, strokes := 0,
    atVmaxAll := false, action := 0, periodSlip := false, tjMax := 0, failed := false, sramFailed := false, coreMa := 0, sramMa := 0 }

/-- A host ring that no command has configured (R441, R449). -/
def HostRing.reset : HostRing := { configured := false, addr := 0, sizeLog2 := 6, watermark := 0, credit := 0, creditAt := 0 }

/-- An empty trace buffer (R447). -/
def TraceBuf.empty : TraceBuf := { recs := [], dropping := false, dropped := 0, firstDrop := 0, lastDrop := 0, credit := 0, creditAt := 0 }

/-- Trace capture with no source enabled (R448). -/
def Trace.reset : Trace :=
  { ring := HostRing.reset, sources := 0, coreMask := 0, quayMask := 0, bufs := List.replicate 8 TraceBuf.empty }

/-- An empty logbook (R440). -/
def Log.reset : Log :=
  { open_ := [], ring := [], pins := [], nextSeq := 0, mirrored := 0, alarms := [], alarmSeq := 0, logRing := HostRing.reset,
    alarmRing := HostRing.reset, trace := Trace.reset, armings := [] }

/-- The PCI Express function at the end of its link's training: D0, MSI-X enabled (R361; log entry 59). -/
def PciFn.reset : PciFn := 
  { vendor := 0x1D7C, device := 0x7A07, revision := 1, classCode := 0x120000, intPin := 0,
    bars := [{ no := 0, wide := true, prefetch := false, log2 := 24 }, { no := 2, wide := true, prefetch := true, log2 := 36 }], maxPay := 512, maxRead := 4096,
    tags10 := true, relaxedIn := true, noSnoop := true,
    caps := [.pciExpress, .functionLevelReset, .msix, .powerManagement, .advancedErrors, .serialNumber, .dataLinkFeature, .physical64,
             .laneMargining]
    d3hot := false, msixOn := true, msixMask := false, relaxed := false }

/-- The host interface with every mailbox disabled (R367, R362). -/
def HostIf.reset : HostIf :=
  { pci := PciFn.reset, proto := 0, busy := none, lastServed := 3, phase := [true, true, true, true], loading := none, mem := [],
    lastRead := 0, readData := [], condition := false, msgDue := false, lastMsg := none, msgs := 0, linkUp := false, held := [],
    services := [], pendingRegs := [] }

/-- The device in OFF (R400), with both halves' positions good. -/
def Device.reset : Device :=
  { state := .off, fault := 0, faultFrom := .off, grade := 0, fuseBad := [], testBad := [], map := [], foundW := none, foundE := none,
    chart := Chart.shipped0, chartNo := 0, stored := [Chart.shipped1, Chart.shipped2, Chart.shipped3], pins := 0, sampled := 0,
    fallback := false, everReady := false, pgW := false, pgE := false, pgAux := false, testDone := false, memDone := false,
    holdLow := false, perstLow := true, tripW := false, tripE := false, selecting := none, warm := false, allocs := [], services := [] }

/-- No plan runs. -/
def RunCtl.reset : RunCtl :=
  { stopFrom := none, holdAt := none, startAt := none, resumeAt := none, dirty := 0, drainFrom := none, stopCode := 0, injLate := [], deferred := [],
    pops := [], detDue := [], cutResume := none, heldAt := none, shifts := [], resetAt := none, copyPoison := false }

/-- Main memory with no erasure, retirement or queue entry (R406). -/
def MainMem.reset : MainMem :=
  { dead := [], hot := [false, false], temps := [], badTimes := [], retired := [], scrubQueue := [], sweep := [],
    queueFree := [], waiting := [], burstErrs := [], uses := [], lastSlot := [],
    marks := [], backs := [], merging := [], failed := [], burstInj := [], badInj := [] }

/-- On-die memories with no held contribution and no row in error (R213, R216). -/
def OnDie.reset : OnDie :=
  { sumHeld := [], sumEarly := [], ordinals := [], leafDone := [], rowErrs := [], rowInj := [], rowQueue := [], rowSweep := [], reqs := [] }

/-- The fabric at power-on (R252). -/
def Fabric.reset : Fabric :=
  { chip := 0, configured := false, hall := [], quays := [], flows := [], signals := [], loads := [], nextId := 0, origin := 0,
    shiftSum := 0, landing := [], pushes := [] }

/-- Reduction units with no channel (R289). -/
def Reduction.reset : Reduction := { channels := [], nodes := [], runs := [], store := [], outputs := [] }

/-- The commit machinery with no norm part (R336). -/
def Commit.reset : Commit := { carried := 0, norms := [], waiting := [], layers := [], gates := [] }

/-- A firmware image with a well-formed header (R458): key slot 0, security version 0, an empty body. Whether its signature verifies is open. -/
def FwImage.shipped : FwImage :=
  let head : List Byte := [0x53, 0x56, 0x46, 0x57, 1]
  { header := head ++ List.replicate 123 0, body := [], sig := [] }

/-- The security functions as manufactured (R457): fuse digests of zeros, and firmware in slot A. -/
def Security.reset : Security :=
  { keyDigest := List.replicate 4 (List.replicate 64 0), keyRevoked := 0, debugDigest := List.replicate 64 0, debugDisable := false,
    rollback := 0, seed := List.replicate 96 0, slotA := some FwImage.shipped, slotB := none, activeB := false,
    runningB := false, fwVersion := 0, secVersion := 0, keySlot := 0, revokeMask := 0, fallback := false, staged := none, status := 0,
    measures := List.replicate 8 (List.replicate 64 0), challenge := none, unlocked := false, certificate := [],
    serial := List.replicate 16 0 }

/-- Sensors before their first reading. -/
def Env.reset : Env :=
  { power := none, fixed := [], halfMw := [], engines := [], tjW := none, tjE := none, lasers := [], thermW := false, thermE := false, capOver := false }

/-- The I3C target with no dynamic address (R422); a field not yet known reads all ones (R423). -/
def I3c.reset : I3c := { on := false, address := none, offset := 0, image := List.replicate 64 0xFF, out := [] }

/-- Telemetry totals at zero (R455). -/
def Totals.reset : Totals := { easelSteps := 0, sectors := 0, memSlots := 0, cellsSent := 0, resent := 0, corrected := 0 }

/-- The module right after reset: unpowered, in OFF, every register at its Reset column, no plan, memory with nothing listed. -/
def State.reset : State :=
  { dev := Device.reset, tide := Tide.reset, govW := Governor.reset, govE := Governor.reset, run := RunCtl.reset, regs := [], snap := [], fresh := [],
    strands := [], code := [], marks := [], signals := [], lockx := [], ops := [], nextOp := 0,
    acc := [], feed := [], easelFree := [], bankFree := [], pipeFree := [], varnishFree := [], vectorFree := [], mem := [],
    poison := [], onDie := OnDie.reset, main := MainMem.reset, manifests := [], grids := [], fab := Fabric.reset,
    red := Reduction.reset, com := Commit.reset, plan := none, log := Log.reset, host := HostIf.reset, sec := Security.reset,
    env := Env.reset, i3c := I3c.reset, totals := Totals.reset, pending := [], freeCtr := 0 }

end Sys2Proof.Machine
end

