-- ==== Sys2Proof/Machine/Flags.lean ====
section
/-! DEFINITION. Cause bits and cause codes: the codes of R435, SOURCE of R437, the payload packing of R438, and the occurrences that
units raise. -/

namespace Sys2Proof.Machine

/-! ### Sources and cause codes -/

/-- The code of bit `b` of unit cause register `u` (R435). -/
def unitCode (u b : Nat) : Nat := 0x0200 + 0x20 * u + b

/-- SOURCE of a core, an easel, a slice, a half, a package, a quay, a channel, an engine, the harbourmaster and the host
interface (R437). -/
def srcCore (n : Nat) : Nat := n
def srcEasel (n : Nat) : Nat := 0x1000 + n
def srcSlice (n : Nat) : Nat := 0x2000 + n
def srcHalf (h : Half) : Nat := 0x3000 + h.index
def srcPackage (n : Nat) : Nat := 0x4000 + n
def srcQuay (n : Nat) : Nat := 0x5000 + n
def srcChannel (n : Nat) : Nat := 0x6000 + n
def srcEngine (n : Nat) : Nat := 0x7000 + n
def srcHm : Nat := 0x8000
def srcHost : Nat := 0x9000

/-- The size that a payload item takes: the smallest of 1, 2, 4 or 8 bytes that holds it (R438). -/
def itemSize (v : Nat) : Nat := if v < 0x100 then 1 else if v < 0x10000 then 2 else if v < 0x100000000 then 4 else 8

/-- Packs items from offset `off` at their natural alignment into at most `room` bytes; the flag says whether an item was left
out (R438). -/
def packItems (room : Nat) : Nat → List Nat → List Byte × Bool
  | _, [] => ([], false)
  | off, v :: vs =>
    let n := itemSize v
    let gap := ceilDiv off n * n - off
    if off + gap + n ≤ room then
      let r := packItems room (off + gap + n) vs
      (List.replicate gap 0 ++ leBytes n v ++ r.1, r.2)
    else ([], true)

/-- The 32-byte payload of a record (R438), with the structure number of R431 in its last byte. -/
def payloadOf (items : List Nat) (structNo : Nat) : List Byte × Bool :=
  let r := packItems (if structNo = 0 then 32 else 31) 0 items
  let body := r.1 ++ List.replicate (31 - r.1.length) 0
  (if structNo = 0 then sliceBytes r.1 0 32 else body ++ [BitVec.ofNat 8 structNo], r.2)

/-- An occurrence of bit `b` of a unit cause register (R435). -/
def causeEvent (u : Nat) (r : Reg) (b source : Nat) (items : List Nat) : Event :=
  { cause := unitCode u b, source := source, line := 0, items := items, structNo := 0, alarm := false, times := 1, injected := false,
    bit := some (r.offset, b) }

/-- An occurrence in a field with one bit for each easel: the code names the field's lowest bit `b`, the bit set is the easel's (R102, R435). -/
def easelEvent (r : Reg) (b easel source : Nat) (items : List Nat) : Event :=
  { causeEvent 1 r b source items with bit := some (r.offset, b + easel) }

/-- An alarm of bit `b` of a unit cause register. -/
def causeAlarm (u : Nat) (r : Reg) (b source : Nat) (items : List Nat) : Event :=
  { causeEvent u r b source items with alarm := true }

/-- An occurrence of an assigned code (R435). -/
def plainEvent (code source : Nat) (items : List Nat) : Event :=
  { cause := code, source := source, line := 0, items := items, structNo := 0, alarm := false, times := 1, injected := false, bit := none }

/-- An alarm of an assigned code. -/
def plainAlarm (code source : Nat) (items : List Nat) : Event := { plainEvent code source items with alarm := true }

end Sys2Proof.Machine
end

