-- ==== Sys2Proof/Machine/Ops.lean ====
section
/-! DEFINITION. The named operations on the state: registers and their fields, free values, the tide, strands, local memory bytes,
logging and raising causes, device states, tide slips. -/

namespace Sys2Proof.Machine

/-! ### Registers -/

/-- The value of a register: the one listed, or its Reset column (R495). -/
def State.reg (s : State) (r : Reg) : W64 := (Tab.find? s.regs r.offset).getD r.reset

/-- Stores a register. -/
def State.setReg (s : State) (r : Reg) (v : W64) : State := { s with regs := Tab.set r.reset s.regs r.offset v }

/-- A field of a register. -/
def State.fld (s : State) (r : Reg) (hi lo : Nat) : Nat := fieldOf (s.reg r) hi lo

/-- Stores a field of a register. -/
def State.setFld (s : State) (r : Reg) (hi lo x : Nat) : State := s.setReg r (withField (s.reg r) hi lo x)

/-- A register whose Reset column is zero, by its offset: cause registers and counters. -/
def State.regAt (s : State) (offset : Nat) : W64 := Tab.get 0 s.regs offset

/-- Stores a register whose Reset column is zero. -/
def State.setRegAt (s : State) (offset : Nat) (v : W64) : State := { s with regs := Tab.set 0 s.regs offset v }

/-- Sets a cause bit: W1C fields are set by the device and cleared by the host (R6). -/
def State.setBitAt (s : State) (offset bit : Nat) : State :=
  { s.setRegAt offset (withField (s.regAt offset) bit bit 1) with
    fresh := Tab.set 0 s.fresh offset (withField (Tab.get 0 s.fresh offset) bit bit 1) }

/-- Adds to a counter field, saturating at all-ones (R75, R172). -/
def State.countAt (s : State) (offset hi lo n : Nat) : State :=
  let add (v : W64) : W64 := withField v hi lo (min (2 ^ (hi + 1 - lo) - 1) (fieldOf v hi lo + n))
  { s.setRegAt offset (add (s.regAt offset)) with fresh := Tab.set 0 s.fresh offset (add (Tab.get 0 s.fresh offset)) }

/-- Adds to a counter field of a register, saturating at all-ones. -/
def State.count (s : State) (r : Reg) (hi lo n : Nat) : State := s.countAt r.offset hi lo n

/-! ### Free values -/

/-- The next free value (a value the manual does not state), and the state that has used it. -/
def State.takeFree (s : State) : W64 × State := (Config.freeValue s.freeCtr, { s with freeCtr := s.freeCtr + 1 })

/-! ### Time -/

/-- The tide nanosecond count (R38). -/
def State.now (s : State) : Nat := s.tide.count

/-- The stroke period P in nanoseconds (R33, R52). -/
def State.period (s : State) : Nat := s.dev.chart.strokePeriod

/-- The rated step t in picoseconds (R30). -/
def State.stepPs (s : State) : Nat :=
  match s.dev.chart.opPoint with
  | 0 => 1250
  | 1 => 1500
  | 2 => 2000
  | _ => 2500

/-- The first stroke boundary at or after a tide count (R33). -/
def State.boundaryAt (s : State) (t : Nat) : Nat := ceilDiv t s.period * s.period

/-- The stroke boundary at or after now: an instant with a nonzero fraction lies after its count (R33). -/
def State.boundary (s : State) : Nat := s.boundaryAt (s.now + if s.tide.frac = 0 then 0 else 1)

/-- Whether the tide runs and stands at a stroke boundary (R33). -/
def State.atBoundary (s : State) : Bool := s.tide.running && decide (s.boundary = s.now)

/-- The visibility boundary of an operation that starts at `start` with a rated duration in picoseconds (R35). -/
def State.visibleAt (s : State) (start ps : Nat) : Nat := start + s.period * ceilDiv ps (1000 * s.period)

/-- Whether the chart's mode is STRICT (R26). -/
def State.strict (s : State) : Bool := !s.dev.chart.relaxed

/-! ### Cores, halves and grades -/

/-- H: active cores per half (R14). -/
def State.perHalf (s : State) : Nat :=
  match s.dev.grade with
  | 0 => 64
  | 1 => 60
  | _ => 56

/-- Whether the active chart enables a half (R22). -/
def State.halfOn (s : State) : Half → Bool
  | .west => s.dev.chart.west
  | .east => s.dev.chart.east

/-- The half of a logical core (R14). -/
def State.coreHalf (s : State) (core : Nat) : Half := if core < s.perHalf then .west else .east

/-- Whether a logical core exists on the module (R14). -/
def State.coreExists (s : State) (core : Nat) : Bool := decide (core < 2 * s.perHalf)

/-- Whether a logical core exists and its half is enabled. -/
def State.coreOn (s : State) (core : Nat) : Bool := s.coreExists core && s.halfOn (s.coreHalf core)

/-- The half of a gallery slice (R21). -/
def sliceHalf (slice : Nat) : Half := if slice < 64 then .west else .east

/-- The half of a quay (R245). -/
def quayHalf (quay : Nat) : Half := if quay < 24 then .west else .east

/-- The enabled logical cores in increasing number (R474). -/
def State.enabledCores (s : State) : List Nat := (List.range 128).filter fun c => s.coreOn c

/-! ### Strands -/

/-- A strand context (R135). -/
def State.strand (s : State) (key : Nat) : Strand := Tab.get Strand.idle s.strands key

/-- Stores a strand context. -/
def State.setStrand (s : State) (key : Nat) (st : Strand) : State := { s with strands := Tab.set Strand.idle s.strands key st }

/-- A scalar register; x0 reads as zero (R135). -/
def Strand.x (st : Strand) (r : Nat) : W64 := if r = 0 then 0 else Tab.get 0 st.regs r

/-- Writes a scalar register; a write to x0 is discarded (R135). -/
def Strand.setX (st : Strand) (r : Nat) (v : W64) : Strand :=
  if r = 0 then st else { st with regs := Tab.set 0 st.regs r v }

/-- Whether an outstanding operation will write a register (R140). -/
def Strand.isPending (st : Strand) (r : Nat) : Bool := decide (r ≠ 0) && st.pendRegs.getLsbD r

/-- Marks a register pending (R140); x0 is never pending, since a write to it is discarded. -/
def Strand.addPending (st : Strand) (r : Nat) : Strand :=
  if r = 0 then st else { st with pendRegs := st.pendRegs ||| (1#32 <<< r) }

/-- Clears a register's pending bit (R140). -/
def Strand.clearPending (st : Strand) (r : Nat) : Strand := { st with pendRegs := st.pendRegs &&& ~~~(1#32 <<< r) }

/-- The pending count of a completion tag (R141). -/
def Strand.tag (st : Strand) (t : Nat) : Nat := Tab.get 0 st.tags t

/-! ### Local space -/

/-- A byte of local memory; an unlisted byte reads as `Memory.unlisted`. -/
def State.byte (s : State) (a : Nat) : Byte := Tab.get Memory.unlisted s.mem a

/-- `n` bytes from a local address. -/
def State.bytes (s : State) (a n : Nat) : List Byte := Tab.getMany Memory.unlisted s.mem a n

/-- Stores bytes from a local address on. -/
def State.store (s : State) (a : Nat) (bs : List Byte) : State := { s with mem := Tab.setMany Memory.unlisted s.mem a bs }

/-- The local address of a core's pad (R21). -/
def padBase (core : Nat) : Nat := 0x20040000000 + 0x200000 * core

/-- The local address of a gallery slice (R21). -/
def sliceBase (slice : Nat) : Nat := 0x20000000000 + 0x400000 * slice

/-- The ranges of the local address map (R21). -/
inductive Region where
  | main (h : Half)
  | gallery (slice : Nat)
  | pad (core : Nat)
  | regs
  | unmapped
  deriving DecidableEq, Repr

/-- The range that holds a local address (R21); pads of cores that the module does not have are unmapped. -/
def State.region (s : State) (a : Nat) : Region :=
  if a < 0x8000000000 then .main .west
  else if a < 0x10000000000 then .main .east
  else if a < 0x20000000000 then .unmapped
  else if a < 0x20020000000 then .gallery ((a - 0x20000000000) / 0x400000)
  else if a < 0x20040000000 then .unmapped
  else if a < 0x20050000000 then
    let core := (a - 0x20040000000) / 0x200000
    if s.coreExists core then .pad core else .unmapped
  else if a < 0x30000000000 then .unmapped
  else if a < 0x30001000000 then .regs
  else .unmapped

/-! ### Records -/

/-- The physical position of a logical core as PHYS gives it: bit 8 half, bits [7:4] row, bits [3:0] position (R437). -/
def State.physOf (s : State) (core : Nat) : Nat :=
  match List.find? (fun e => e.2 == core) s.dev.map with
  | some (p, _) => 256 * (p / 72) + 16 * (p % 72 / 9) + p % 9
  | none => 0xFFFF

/-- PHYS of a source (R437). -/
def State.physOfSource (s : State) (source : Nat) : Nat :=
  if source < 0x1000 then s.physOf source
  else if source < 0x2000 then s.physOf ((source - 0x1000) / 4)
  else 0xFFFF

/-! ### Logging and raising -/

/-- A record enters the logbook with the next SEQ (R439); the first of its cause is PINNED and copied (R440); a full ring overwrites its oldest
record, which counts in LOST if it was not mirrored; while no logbook ring is configured none is (R442). -/
def State.logEnter (s : State) (r : LogRec) : State :=
  let l := s.log
  let pin := !l.pins.any fun x => x.cause == r.cause
  let r : LogRec := { r with seq := l.nextSeq, flags := r.flags + (if 1 < r.count then 4 else 0) + if pin then 1 else 0 }
  let ring := l.ring ++ [r]
  let l : Log := { l with nextSeq := l.nextSeq + 1, pins := if pin then l.pins ++ [r] else l.pins }
  if 8192 < ring.length then
    let lost := !l.logRing.configured || decide (l.mirrored + 8192 < l.nextSeq)
    let s : State := { s with log := { l with ring := ring.drop 1, mirrored := max l.mirrored (l.nextSeq - 8192) } }
    if lost then s.count (.ringLost 0) 63 0 1 else s
  else { s with log := { l with ring := ring } }

/-- Whether the coalescing window of an open record has ended (R439). -/
def State.windowOver (s : State) (r : LogRec) : Bool := decide (r.first + 100000 ≤ s.now)

/-- The order in which records enter the logbook: by the end of their windows, at one instant by CAUSE, then SOURCE (R439). -/
def LogRec.before (a b : LogRec) : Bool :=
  decide (a.first < b.first) || (a.first == b.first && (decide (a.cause < b.cause) || (a.cause == b.cause && decide (a.source ≤ b.source))))

/-- Every open record whose window has ended and that `sel` selects enters the logbook, in order. -/
def State.logExpire (s : State) (sel : LogRec → Bool) : State :=
  let due := sortBy LogRec.before (s.log.open_.filter fun r => s.windowOver r && sel r)
  due.foldl State.logEnter { s with log := { s.log with open_ := s.log.open_.filter fun r => !(s.windowOver r && sel r) } }

/-- Whether a log record is open under the key of an event (R439). -/
def Event.sameKey (e : Event) (r : LogRec) : Bool := r.cause == e.cause && r.source == e.source && r.line == e.line

/-- Joins the occurrences of an event to the open record of its key, or opens one (R439). At most 2,048 records are open; an occurrence
that finds none free is counted in LOST of the logbook ring. -/
def State.logJoin (s : State) (e : Event) : State :=
  match s.log.open_.find? e.sameKey with
  | some _ =>
    let join (r : LogRec) : LogRec := { r with last := s.now, count := min 0xFFFFFFFF (r.count + e.times) }
    { s with log := { s.log with open_ := s.log.open_.map fun r => if e.sameKey r then join r else r } }
  | none =>
    if s.log.open_.length < 2048 then
      let p := payloadOf e.items e.structNo
      let flags := (if e.injected then 2 else 0) + if p.2 then 8 else 0
      { s with log := { s.log with open_ := s.log.open_ ++
        [{ seq := 0, cause := e.cause, alarm := e.alarm, flags := flags, first := s.now, last := s.now, count := min 0xFFFFFFFF e.times, source := e.source,
           phys := s.physOfSource e.source, line := e.line, payload := p.1 }] } }
    else s.count (.ringLost 0) 63 0 e.times

/-- Logs the occurrences of an event: records whose windows have ended are open no more (R439). -/
def State.logOpen (s : State) (e : Event) : State := (s.logExpire fun _ => true).logJoin e

/-- Delivers an alarm to the alarm table (R443, R444): it joins the pending entry of its key, or opens one; when only reserved
entries remain, it joins its cause's reserved entry. `causes` alarm causes have reserved entries. -/
def State.alarmOpen (s : State) (e : Event) : State :=
  let joins (a : AlarmEntry) : Bool := a.cause == e.cause && (a.source == e.source && !a.reserved)
  let p := payloadOf e.items e.structNo
  let bump (a : AlarmEntry) : AlarmEntry := { a with last := s.now, count := min 0xFFFFFFFF (a.count + e.times) }
  let fresh (source : Nat) (res : Bool) : AlarmEntry :=
    { cause := e.cause, source := source, reserved := res, first := s.now, last := s.now, count := min 0xFFFFFFFF e.times, injected := e.injected,
      payload := p.1, cut := p.2 }
  if s.log.alarms.any joins then
    { s with log := { s.log with alarms := s.log.alarms.map fun a => if joins a then bump a else a } }
  else if (s.log.alarms.filter fun a => !a.reserved).length < 1024 - 36 then
    { s with log := { s.log with alarms := s.log.alarms ++ [fresh e.source false] } }
  else
    let res (a : AlarmEntry) : Bool := a.cause == e.cause && a.reserved
    if s.log.alarms.any res then
      { s with log := { s.log with alarms := s.log.alarms.map fun a => if res a then bump a else a } }
    else { s with log := { s.log with alarms := s.log.alarms ++ [fresh 0xFFFF true] } }

/-- Raises an occurrence: sets its cause bit, logs it, and delivers an alarm (R172, R436, R439, R443). -/
def State.raise (s : State) (e : Event) : State :=
  let s := match e.bit with
    | some (off, b) => s.setBitAt off b
    | none => s
  let s := s.logOpen e
  if e.alarm then s.alarmOpen e else s

/-- An event of R354 is recorded in DET_STATUS at the stroke boundary at or after it (R355); at once where the tide does not run. -/
def State.det (s : State) (bit : Nat) : State :=
  if !s.tide.running || s.boundary == s.now then s.setBitAt Reg.detStatus.offset bit
  else { s with run := { s.run with detDue := s.run.detDue ++ [bit] } }

/-- The events since the last boundary are recorded in DET_STATUS. -/
def State.recordDet (s : State) : State :=
  let t := s.run.detDue.foldl (fun s bit => s.setBitAt Reg.detStatus.offset bit) s
  { t with run := { t.run with detDue := [] } }

/-! ### Injection (R433) -/

/-- Whether a detector is armed for a scope. -/
def State.armed (s : State) (id scope : Nat) : Bool := s.log.armings.any fun a => a.1 == id && a.2.1 == scope && decide (0 < a.2.2)

/-- Consumes one count of an arming. -/
def State.disarm (s : State) (id scope : Nat) : State :=
  let dec (a : Nat × Nat × Nat) : Nat × Nat × Nat := if a.1 == id && a.2.1 == scope then (a.1, a.2.1, a.2.2 - 1) else a
  { s with log := { s.log with armings := (s.log.armings.map dec).filter fun a => decide (0 < a.2.2) } }

/-! ### Trace streams (R445–R447) -/

/-- Stores a trace buffer. -/
def State.setTraceBuf (s : State) (src : Nat) (b : TraceBuf) : State :=
  { s with log := { s.log with trace := { s.log.trace with bufs := listSet s.log.trace.bufs src b } } }

/-- Captures a trace record of source `src`; a full buffer drops it, and a buffer that has dropped accepts nothing until 4 KiB of
it is free, and then first a GAP record (R447). -/
def State.trace (s : State) (src : Nat) (idx inst : Nat) (items : List Nat) : State :=
  if bitOf s.log.trace.sources src then
    let b := s.log.trace.bufs.getD src TraceBuf.empty
    let word := Config.traceData src idx items
    let r : TraceRec := { gap := false, tide := s.now, src := src, kind := Config.traceKind src idx, inst := inst,
                          aux := word.extractLsb' 0 32, data := word.extractLsb' 32 128 }
    let drop : State :=
      let b' : TraceBuf := { b with dropping := true, dropped := b.dropped + 1, lastDrop := s.now,
                                    firstDrop := if b.dropped = 0 then s.now else b.firstDrop }
      let s := s.setTraceBuf src b'
      let s := s.countAt (0x3080 + 8 * src) 63 0 1
      s.setBitAt Reg.hmCause.offset 12
    if b.dropping then
      if b.recs.length ≤ 2048 - 128 then
        let gap : TraceRec := { gap := true, tide := b.lastDrop, src := src, kind := 0, inst := inst, aux := 0,
                                data := BitVec.ofNat 128 (b.dropped + 2 ^ 64 * b.firstDrop) }
        let b' : TraceBuf := { b with recs := b.recs ++ [gap, r], dropping := false, dropped := 0, firstDrop := 0, lastDrop := 0 }
        s.setTraceBuf src b'
      else drop
    else if b.recs.length < 2048 then s.setTraceBuf src { b with recs := b.recs ++ [r] }
    else drop
  else s

/-- Captures a trace record of a core's source when the core mask names the core (R445). -/
def State.traceCore (s : State) (src idx core : Nat) (items : List Nat) : State :=
  if bitOf s.log.trace.coreMask core then s.trace src idx core items else s

/-- Captures the start (0) or the end (1) of a DMA transfer: its manifests, tiles and bytes (R445); nothing of an operation that moves nothing. -/
def State.traceMove (s : State) (idx core : Nat) (items : List Nat) : State := if items.isEmpty then s else s.traceCore 2 idx core items

/-- Captures a trace record of a quay when the quay mask names it (R445). -/
def State.traceQuay (s : State) (idx quay : Nat) (items : List Nat) : State :=
  if bitOf s.log.trace.quayMask quay then s.trace 4 idx quay items else s

/-! ### Device states -/

/-- The state code of HM_STATE (R373); OFF has none, and the register's Reset column then shows BOOT. -/
def DevState.code : DevState → Nat
  | .off => 1
  | .boot => 1
  | .verify => 2
  | .gesso => 3
  | .ready => 4
  | .loaded => 5
  | .running => 6
  | .held => 7
  | .draining => 8
  | .recovery => 9
  | .fault => 10

/-- Whether a thermal trip is latched: no state but OFF follows it (R421). -/
def State.tripped (s : State) : Bool := s.dev.tripW || s.dev.tripE

/-- Changes the device state: STATE_CHANGE is set and the change is logged with the old state, the new state and the cause (R400). After a
thermal trip the state stays as it is (R421). `injected`: by an injection (R433). -/
def State.enterBy (s : State) (injected : Bool) (d : DevState) (cause : Nat) : State :=
  if s.tripped then s else
  let e := { causeEvent 13 .hmCause 8 srcHm [s.dev.state.code, d.code, cause, s.now] with injected := injected }
  let s := { s with dev := { s.dev with state := d } }
  s.raise e

/-- Changes the device state. -/
def State.enter (s : State) (d : DevState) (cause : Nat) : State := s.enterBy false d cause

/-! ### Stops (R55, R56) -/

/-- The least of some tide counts, or `d` where there is none. -/
def leastTide (d : Nat) : List Nat → Nat
  | [] => d
  | x :: xs => xs.foldl min x

/-- The scheduled starts, from `b` on, of what a strand issues next: of a READY strand its next boundary; of a waiting one the boundary at which its wait is
scheduled to be satisfied; where no schedule gives one, those at which operations now in flight become visible, its own where it has any. -/
def State.strandTimes (s : State) (b : Nat) (key : Nat) (st : Strand) : List Nat :=
  let due : Nat := (st.wait.map fun w => w.due).getD 0
  match st.status with
  | .ready => [max b st.notBefore]
  | .waiting | .parked =>
    if 0 < due then [max b (s.boundaryAt due)]
    else
      let later := s.ops.filter fun o => decide (b ≤ o.vis)
      let own := later.filter fun o => o.strand == key
      (if own.isEmpty then later else own).map fun o => o.vis
  | _ => []

/-- The scheduled starts, from `b` on, of the operations that the strands issue next. -/
def State.issueTimes (s : State) (b : Nat) : List Nat := s.strands.flatMap fun e => s.strandTimes b e.1 e.2

/-- The scheduled start of the chip's first unissued operation from `b` on (R56): the start or the resume of the plan where that is still to come or the
stop has cut it off, else the first scheduled start of a strand; `b` where nothing known lets one issue. -/
def State.firstUnissued (s : State) (b : Nat) : Nat :=
  match s.run.startAt, s.run.resumeAt, s.run.cutResume with
  | some t, _, _ => t
  | none, some (t, _), _ => t
  | none, none, some t => t
  | none, none, none => leastTide b (s.issueTimes b)

/-- Whether issue is stopped at a boundary (R56). -/
def State.stoppedAt (s : State) (b : Nat) : Bool :=
  match s.run.stopFrom with
  | some f => decide (f ≤ b)
  | none => false

/-- Stops issue from the boundary after `b`, recording STOP_TIDE and STOP_SCHED (steps 1 and 2 of R56); `code` names the cause. -/
def State.stopIssue (s : State) (b code : Nat) : State :=
  let s := s.setReg .stopTide (BitVec.ofNat 64 b)
  let s := s.setReg .stopSched (BitVec.ofNat 64 (s.firstUnissued (b + s.period)))
  { s with run := { s.run with stopFrom := some (b + s.period), cutResume := s.run.resumeAt.map fun x => x.1, resumeAt := none, stopCode := code } }

/-- Whether a cause stops the chip: in RUNNING, unless it already stops (R401). -/
def State.mayStop (s : State) : Bool := s.dev.state == .running && (s.run.stopFrom.isNone || s.run.resumeAt.isSome)

/-- Records a slip cause (bit of STOP_CAUSE) and, in RUNNING, stops the chip as R56 states. A cause raised while the chip already
stops, or in another state, is recorded and logged only (R401). -/
def State.slip (s : State) (bit source : Nat) (items : List Nat) (injected : Bool) : State :=
  let e := { causeAlarm 12 .stopCause bit source (unitCode 12 bit :: items) with injected := injected }
  let s := s.raise e
  if s.mayStop then s.stopIssue s.boundary (unitCode 12 bit) else s

/-- A secondary cause in STRICT (R55): it stops the chip under its own name. -/
def State.slipSecondary (s : State) (bit source : Nat) (items : List Nat) (injected : Bool) : State :=
  let e := { causeEvent 12 .stopCause bit source (unitCode 12 bit :: items) with injected := injected }
  let s := s.raise e
  if s.mayStop then s.stopIssue s.boundary (unitCode 12 bit) else s

end Sys2Proof.Machine
end

