-- ==== Sys2Proof/Machine/Burst.lean ====
section
/-! DEFINITION. Main memory's bursts and lines (R222, R224, R230–R237, R243, R244): where a line lies, the burst code, the outcome of reading a
line, and the marks of packages. -/

namespace Sys2Proof.Machine

/-! ### Where a line lies (R222, R224) -/

/-- The fields of a line number (local address divided by 256). -/
structure LinePos where
  half   : Half
  group  : Nat
  lane   : Nat
  bank   : Nat
  row    : Nat
  col    : Nat
  parity : Nat
  deriving DecidableEq, Repr

/-- The decoding of R224. -/
def linePos (line : Nat) : LinePos :=
  let h := bitsOf line 31 31
  let lh := bitsOf line 30 0
  let lp := lh / 2
  let b := lp / 8
  { half := if h = 0 then .west else .east, group := 2 * h + lh % 2, lane := lp % 8, bank := bitsOf b 9 6, row := bitsOf b 26 10, col := bitsOf b 5 0,
    parity := b % 9 }

/-- The line number of a group, a lane and a burst address: the inverse of R224. -/
def lineOf (group lane b : Nat) : Nat := group / 2 * 2 ^ 31 + (b * 8 + lane) * 2 + group % 2

/-- The package of a slot of a group (R222). -/
def packageOf (group slot : Nat) : Nat := 9 * group + slot

/-! ### The burst code (R230) -/

/-- Multiplication in GF(2^8) with the field polynomial of R230, by shifting: `n` bits of `b` remain. -/
def gfMulFrom : Nat → Nat → Nat → Nat
  | 0, _, _ => 0
  | n + 1, a, b =>
    let r := gfMulFrom n (if 128 ≤ a then (2 * a - 256) ^^^ 0x1D else 2 * a) (b / 2)
    if b % 2 = 1 then a ^^^ r else r

/-- Multiplication in GF(2^8). -/
def gfMul (a b : Nat) : Nat := gfMulFrom 8 (a % 256) (b % 256)

/-- α to a power. -/
def gfPow : Nat → Nat
  | 0 => 1
  | n + 1 => gfMul 2 (gfPow n)

/-- The inverse of a nonzero element, its 254th power. -/
def gfInv (a : Nat) : Nat :=
  let a2 := gfMul a a
  let a4 := gfMul a2 a2
  let a8 := gfMul a4 a4
  let a16 := gfMul a8 a8
  let a32 := gfMul a16 a16
  let a64 := gfMul a32 a32
  let a128 := gfMul a64 a64
  gfMul a128 (gfMul a64 (gfMul a32 (gfMul a16 (gfMul a8 (gfMul a4 a2)))))

/-- The syndromes of an error pattern, a list of positions and differences: its polynomial at 1, α, α², α³. -/
def syndrome (errs : List (Nat × Nat)) : List Nat :=
  (List.range 4).map fun j => errs.foldl (fun s e => s ^^^ gfMul e.2 (gfPow (j * e.1))) 0

/-- A polynomial's value, by Horner's rule; coefficient `n` belongs to the `n`th power. -/
def polyAt (x : Nat) (cs : List Nat) : Nat := cs.foldr (fun c v => c ^^^ gfMul v x) 0

/-- The syndromes of a word of 40 symbols: zero for a valid code word. -/
def wordSyndrome (word : List Nat) : List Nat := (List.range 4).map fun j => polyAt (gfPow j) word

/-- The generator (x − 1)(x − α)(x − α²)(x − α³), lowest coefficient first. -/
def genPoly : List Nat :=
  (List.range 4).foldl (fun p j => List.zipWith (fun a b => a ^^^ b) (0 :: p) ((p.map fun c => gfMul (gfPow j) c) ++ [0])) [1]

/-- The check symbols of positions 4 to 39, computed systematically: the remainder by the generator. -/
def checkSymbols (rest : List Nat) : List Nat :=
  let g := genPoly
  let next (r : List Nat) (c : Nat) : List Nat :=
    let f := c ^^^ r.getD 3 0
    (List.range 4).map fun i => (if i = 0 then 0 else r.getD (i - 1) 0) ^^^ gfMul f (g.getD i 0)
  rest.reverse.foldl next [0, 0, 0, 0]

/-- The four address symbols of a line: the bytes of the address word of R230. -/
def addressSymbols (p : LinePos) : List Nat :=
  let w := p.group * 2 ^ 30 + p.lane * 2 ^ 27 + p.bank * 2 ^ 23 + p.row * 2 ^ 6 + p.col
  (List.range 4).map fun i => w / 256 ^ i % 256

/-- The code word that a write makes of a burst's 32 data bytes, address symbols included. -/
def encodeBurst (p : LinePos) (data : List Nat) : List Nat :=
  let rest := data ++ addressSymbols p
  checkSymbols rest ++ rest

/-- The single-symbol error that has a syndrome, if one has. -/
def locateOne (syn : List Nat) : Option (List (Nat × Nat)) :=
  (List.range 40).findSome? fun n =>
    let e := [(n, syn.getD 0 0)]
    if syn.getD 0 0 ≠ 0 ∧ syndrome e = syn then some e else none

/-- The two-symbol error that has a syndrome, if one has. -/
def locateTwo (syn : List Nat) : Option (List (Nat × Nat)) :=
  (List.range 40).findSome? fun m => (List.range m).findSome? fun n =>
    let am := gfPow m
    let en := gfMul (syn.getD 1 0 ^^^ gfMul (syn.getD 0 0) am) (gfInv (am ^^^ gfPow n))
    let e := [(n, en), (m, syn.getD 0 0 ^^^ en)]
    if en ≠ 0 ∧ syn.getD 0 0 ^^^ en ≠ 0 ∧ syndrome e = syn then some e else none

/-- What the decoder makes of a burst (R231). -/
inductive BurstClass where
  | erased | poison | clean
  | corrected (errs : List (Nat × Nat))
  | mismatch (errs : List (Nat × Nat))
  | uncorrectable
  deriving DecidableEq, Repr

/-- BAD: classes 5 and 6 of R231. -/
def BurstClass.bad : BurstClass → Bool
  | .mismatch _ => true
  | .uncorrectable => true
  | _ => false

/-- The poison pattern of a parity burst (R231). -/
def poisonPattern : List (Nat × Nat) := [(0, 0xFF), (1, 0xFF), (2, 0xFF), (3, 0xFF)]

/-- The class of a burst from the syndromes of the word that is read; `parity`: it is the parity burst. -/
def classify (parity : Bool) (syn : List Nat) : BurstClass :=
  if parity && syn == syndrome poisonPattern then .poison
  else if syn == [0, 0, 0, 0] then .clean
  else match (locateOne syn).orElse fun _ => locateTwo syn with
    | none => .uncorrectable
    | some e => if e.all fun x => decide (x.1 < 36) then .corrected e else .mismatch e

/-- What remains wrong in a burst's data after its class has been acted on, by position. -/
def residual (errs : List (Nat × Nat)) : BurstClass → List (Nat × Nat)
  | .corrected c => (errs ++ c).filter fun e => decide (4 ≤ e.1 ∧ e.1 < 36)
  | _ => errs.filter fun e => decide (4 ≤ e.1 ∧ e.1 < 36)

/-- Whether the differences of a list of bursts cancel at every data position: the XOR check of R232. -/
def cancels (errs : List (Nat × Nat)) : Bool :=
  (List.range 32).all fun i => errs.foldl (fun x e => if e.1 = 4 + i then x ^^^ e.2 else x) 0 == 0

/-! ### Erasures (R234–R237) -/

/-- A MEM_ERASE entry of a half. -/
def State.eraseEntry (s : State) (h : Half) (i : Nat) : Nat := (s.reg (.memErase h (Fin.ofNat 8 i))).toNat

/-- Whether a MEM_ERASE entry covers a package, lane and bank. -/
def eraseCovers (e package lane bank : Nat) : Bool :=
  bitOf e 31 && bitsOf e 21 16 == package && (bitOf e 8 || bitsOf e 11 9 == lane) && (bitOf e 3 || bitsOf e 7 4 == bank)

/-- Whether a burst is ERASED (R237). -/
def State.burstErased (s : State) (p : LinePos) (slot : Nat) : Bool :=
  let pkg := packageOf p.group slot
  s.main.dead.contains pkg || (List.range 8).any fun i => eraseCovers (s.eraseEntry p.half i) pkg p.lane p.bank

/-- The packages of a group that hold an erasure. -/
def State.erasedPackages (s : State) (group : Nat) : List Nat :=
  let h : Half := if group < 2 then .west else .east
  (List.range 9).filterMap fun k =>
    let pkg := packageOf group k
    let entry (i : Nat) : Bool := bitOf (s.eraseEntry h i) 31 && bitsOf (s.eraseEntry h i) 21 16 == pkg
    if s.main.dead.contains pkg || (List.range 8).any entry then some pkg else none

/-- Whether a half's lanes serve no slot in a frame: refresh frames (R226), and frames 10 and 11 of a cycle under extra refresh (R240). -/
def refreshFrame (extra : Bool) (frame : Nat) : Bool := decide (22 ≤ frame % 24) || (extra && decide (frame % 24 = 10 ∨ frame % 24 = 11))

/-- Whether a half is under extra refresh: one of its packages is above 80 °C and no plan runs (R240). -/
def State.extraRefresh (s : State) (h : Half) : Bool := s.dev.state != .running && s.main.hot.getD h.index false

/-- Whether a half's lanes serve no slot in a frame. -/
def State.refreshing (s : State) (h : Half) (frame : Nat) : Bool := refreshFrame (s.extraRefresh h) frame

/-- MEM_PKG_STATE of a half as its marks give it (R244). -/
def State.updatePkgState (s : State) (h : Half) : State :=
  let base := 18 * h.index
  let v := (List.range 18).foldl (fun v i =>
    let st := if s.main.dead.contains (base + i) then 2
      else if (List.range 8).any (fun j => bitOf (s.eraseEntry h j) 31 && bitsOf (s.eraseEntry h j) 21 16 == base + i) then 1 else 0
    v + st * 4 ^ i) 0
  s.setReg (.memPkgState h) (BitVec.ofNat 64 v)

/-! ### Events (R243) -/

/-- The 32 payload bytes of a memory event, one item a byte. -/
def memItems (line kind package : Nat) (positions : List Nat) (source core : Nat) : List Nat :=
  let p := linePos line
  let symbols := positions.foldl (fun v n => v ||| 2 ^ n) 0
  (leBytes 8 (line * 256) ++ leBytes 1 kind ++ leBytes 1 package ++ leBytes 1 (p.group * 16 + p.lane) ++ leBytes 1 p.bank ++
    leBytes 4 (p.row + p.col * 2 ^ 17) ++ leBytes 8 symbols ++ leBytes 1 source ++ leBytes 1 core).map fun b => b.toNat

/-- Raises a memory event: its cause bit, its kind, and its counter field in MEM_COUNT. -/
def State.memEvent (s : State) (line bit kind package : Nat) (positions : List Nat) (source core : Nat) (alarm injected : Bool) : State :=
  let h := (linePos line).half
  let src := if package < 36 then srcPackage package else srcHalf h
  let e := causeEvent 7 (.memCause h) bit src (memItems line kind package positions source core)
  s.raise { e with line := line, alarm := alarm, injected := injected }

/-- Queues a line for a scrub write-back: at most 16 a group (R239). -/
def State.queueLine (s : State) (line : Nat) : State :=
  let g := (linePos line).group
  let q := Tab.get [] s.main.scrubQueue g
  if q.contains line ∨ 16 ≤ q.length then s
  else { s with main := { s.main with scrubQueue := Tab.set [] s.main.scrubQueue g (q ++ [line]) } }

/-- Notes a BAD burst of a package; times older than 1 ms are forgotten (R234). `injected`: an injection made it so. -/
def State.noteBadBurst (s : State) (package : Nat) (injected : Bool) : State :=
  let l := (Tab.get [] s.main.badTimes package).filter fun t => decide (s.now < t + 1000000)
  let j := s.main.badInj.filter fun e => decide (s.now < e.2 + 1000000)
  { s with main := { s.main with badTimes := Tab.set [] s.main.badTimes package (l ++ [s.now]),
                                 badInj := if injected then j ++ [(package, s.now)] else j } }

/-! ### Reading a line (R232) -/

/-- How a line was read: delivered clean, corrected or rebuilt, or poisoned by a new detection. -/
inductive LineRead where
  | clean | repaired | poisoned | failed
  deriving DecidableEq, Repr

/-- The errors of a burst: those stored, those that the event shows, and for the parity burst of a line stored as poisoned the poison pattern. -/
def State.burstDiff (s : State) (line slot : Nat) (shown : List (Nat × Nat × Byte)) : List (Nat × Nat) :=
  let all := Tab.get [] s.main.burstErrs line ++ shown
  let own := all.filterMap fun e => if e.1 = slot then some (e.2.1, e.2.2.toNat) else none
  if slot = (linePos line).parity ∧ s.poison.contains (line * 256) ∧ !s.main.failed.contains line then own ++ poisonPattern else own

/-- The 32 data bytes of a burst of a line: those of its data slot, or the XOR of the eight (R224, R233). -/
def State.burstData (s : State) (line slot : Nat) : List Nat :=
  let p := linePos line
  let part (j : Nat) : List Nat := (s.bytes (256 * line + 32 * j) 32).map fun b => b.toNat
  if slot = p.parity then
    (List.range 8).foldl (fun x j => List.zipWith (fun a b => a ^^^ b) x (part j)) (List.replicate 32 0)
  else part ((slot + 9 - (p.parity + 1)) % 9)

/-- The word that a read of a burst meets: the code word of its data, with the differences of what is stored and the location's own address symbols. -/
def State.burstWord (s : State) (line slot : Nat) (errs : List (Nat × Nat)) : List Nat :=
  errs.foldl (fun w e => w.set e.1 (w.getD e.1 0 ^^^ e.2)) (encodeBurst (linePos line) (s.burstData line slot))

/-- The class of a burst as it is read, and whether an injection made it so: those of R432 that a read consumes (0x000A, 0x000B), or an error that one stored. -/
def State.readBurst (s : State) (line slot : Nat) (shown : List (Nat × Nat × Byte)) : BurstClass × Bool × State :=
  let p := linePos line
  let pkg := packageOf p.group slot
  if s.burstErased p slot then (.erased, false, s)
  else if s.armed 0x0B pkg then (.uncorrectable, true, s.disarm 0x0B pkg)
  else
    let fold := s.armed 0x0A pkg
    let errs := s.burstDiff line slot shown ++ (if fold then [(36, 1)] else [])
    let r := classify (decide (slot = p.parity)) (wordSyndrome (s.burstWord line slot errs))
    (r, fold || (r != .clean && s.main.burstInj.contains (16 * line + slot)), if fold then s.disarm 0x0A pkg else s)

/-- Reads the nine bursts of a line. -/
def State.readBursts (s : State) (line : Nat) (shown : List (Nat × Nat × Byte)) : List (BurstClass × Bool) × State :=
  (List.range 9).foldl (fun acc k =>
    let r := acc.2.readBurst line k shown
    (acc.1 ++ [(r.1, r.2.1)], r.2.2)) ([], s)

/-- Adds differences (package slot, position, difference) of data bursts to the bytes of a line. -/
def State.spill (s : State) (line : Nat) (errs : List (Nat × Nat × Nat)) : State :=
  let p := linePos line
  let put (s : State) (e : Nat × Nat × Nat) : State :=
    let j := (e.1 + 9 - (p.parity + 1)) % 9
    if j < 8 ∧ 4 ≤ e.2.1 ∧ e.2.1 < 36 then
      let a := line * 256 + 32 * j + (e.2.1 - 4)
      { s with mem := Tab.set 0 s.mem a (s.byte a ^^^ BitVec.ofNat 8 e.2.2) }
    else s
  errs.foldl put s

/-- An uncorrectable line is delivered as read, and poisoned; its code words stay as they are stored: against the bytes as read they differ in what is left. Until
it is written, another read finds it uncorrectable again (R232, R239). -/
def State.spillErrors (s : State) (line : Nat) (shown : List (Nat × Nat × Byte)) : State :=
  let words := (List.range 9).map fun k => s.burstWord line k (s.burstDiff line k shown)
  let s := s.spill line ((Tab.get [] s.main.burstErrs line ++ shown).map fun e => (e.1, e.2.1, e.2.2.toNat))
  let diff (k : Nat) : List (Nat × Nat × Byte) :=
    let old := words.getD k []
    let new := encodeBurst (linePos line) (s.burstData line k)
    (List.range 36).filterMap fun i =>
      let d := old.getD i 0 ^^^ new.getD i 0
      if d = 0 then none else some (k, i, BitVec.ofNat 8 d)
  { s with main := { s.main with burstErrs := Tab.set [] s.main.burstErrs line ((List.range 9).flatMap diff),
                                 failed := Marks.insert s.main.failed line },
           poison := Marks.insert s.poison (line * 256) }

/-- A line is delivered with what its decoders left wrong in it, in each burst that was not rebuilt and, as their XOR, in the rebuilt one: `left` gives the
residual differences by package slot. Where nothing is left wrong the line is as it was written. -/
def State.deliverBursts (s : State) (line : Nat) (rebuilt : Option Nat) (left : Nat → List (Nat × Nat)) : State :=
  let bad := (List.range 9).flatMap fun k => if rebuilt = some k then [] else (left k).map fun e => (k, e.1, e.2)
  let cover := match rebuilt with
    | some k => bad.map fun e => (k, e.2.1, e.2.2)
    | none => []
  match bad with
  | [] => s
  | _ =>
    let s := s.spill line (bad ++ cover)
    { s with main := { s.main with burstErrs := Tab.erase s.main.burstErrs line } }

/-- Reads a line (R232): its outcome, with causes, counts and the scrub queue. `source`: 0 plan read, 1 partial write, 2 scrub, 3 service. No record has KIND 0x03
BURST_UNCORRECTABLE of R243: no rule names its event, and MEM_CAUSE has no bit for it (DESIGN CHOICE, log entry 81). -/
def State.readLine (s : State) (line : Nat) (shown : List (Nat × Nat × Byte)) (source core : Nat) : LineRead × State :=
  let p := linePos line
  let h := p.half
  let r := s.readBursts line shown
  let s := r.2
  let cls (k : Nat) : BurstClass := (r.1.getD k (.clean, false)).1
  let inj := r.1.any fun x => x.2
  let slots := List.range 9
  let bads := slots.filter fun k => (cls k).bad
  let erased := slots.filter fun k => cls k == .erased
  let corr := slots.filter fun k => match cls k with
    | .corrected _ => true
    | _ => false
  let s := bads.foldl (fun s k => s.noteBadBurst (packageOf p.group k) (r.1.getD k (.clean, false)).2) s
  let left (k : Nat) : List (Nat × Nat) := residual (s.burstDiff line k shown) (cls k)
  let xorOk := cancels (slots.flatMap left)
  let at_ (k : Nat) : List Nat := match cls k with
    | .corrected e => e.map fun x => x.1
    | .mismatch e => e.map fun x => x.1
    | _ => []
  let rebuilt (s : State) (k : Nat) : State :=
    let s := { s with totals := { s.totals with corrected := s.totals.corrected + 1 } }
    ((s.count (.memCount h) 47 32 1).memEvent line 2 0x04 (packageOf p.group k) (at_ k) source core false inj).queueLine line
  let unpoisoned (s : State) : State :=
    { s with poison := Marks.erase s.poison (line * 256), main := { s.main with failed := Marks.erase s.main.failed line } }
  if cls p.parity == .poison && bads.isEmpty then (.poisoned, s)
  else if bads.isEmpty && erased.isEmpty && xorOk then
    let s := s.deliverBursts line none left
    if corr.isEmpty then (.clean, s)
    else
      let one (s : State) (k : Nat) : State :=
        let s := { s with totals := { s.totals with corrected := s.totals.corrected + 1 } }
        (s.count (.memCount h) 63 48 1).memEvent line 0 0x01 (packageOf p.group k) (at_ k) source core false inj
      (.repaired, (corr.foldl one s).queueLine line)
  else if bads.isEmpty && erased.isEmpty && corr.length == 1 then
    (.repaired, rebuilt (s.deliverBursts line corr.head? left) (corr.headD 0))
  else if bads.length + erased.length = 1 then
    let s := unpoisoned (s.deliverBursts line (bads ++ erased).head? left)
    match bads with
    | [] => (.repaired, (s.count (.memErasureReads h) 63 0 1).queueLine line)
    | k :: _ =>
      let s := match cls k with
        | .mismatch _ => s.memEvent line 1 0x02 (packageOf p.group k) (at_ k) source core false inj
        | _ => s
      (.repaired, rebuilt s k)
  else
    let s := s.spillErrors line shown
    let s := (s.count (.memCount h) 31 16 1).det 4
    (.failed, (s.memEvent line 3 0x05 0xFF [] source core true inj).queueLine line)

/-- Whether a read of a line can come to anything but clean: stored errors, marks or armed injections. -/
def State.lineAtRisk (s : State) (line : Nat) : Bool :=
  (Tab.find? s.main.burstErrs line).isSome || !(s.erasedPackages (linePos line).group).isEmpty ||
    s.log.armings.any fun a => a.1 == 0x0A || a.1 == 0x0B

/-- A transfer's read of a line. -/
def State.readLineAt (s : State) (line source core : Nat) : State :=
  if s.lineAtRisk line then (s.readLine line [] source core).2 else s

/-! ### Writing a line (R233) -/

/-- A line is written whole: its bursts are encoded anew (R230), but for the injections 0x0008 and 0x0009 of R432; an ERASED burst is not written. -/
def State.writeLine (s : State) (line : Nat) : State :=
  let g := (linePos line).group
  let one (acc : List (Nat × Nat × Byte) × State) (k : Nat) : List (Nat × Nat × Byte) × State :=
    let pkg := packageOf g k
    if acc.2.burstErased (linePos line) k then acc
    else if acc.2.armed 9 pkg then (acc.1 ++ [(k, 4, 1), (k, 5, 1), (k, 6, 1)], acc.2.disarm 9 pkg)
    else if acc.2.armed 8 pkg then (acc.1 ++ [(k, 4, 1)], acc.2.disarm 8 pkg)
    else acc
  let r := (List.range 9).foldl one ([], s)
  let inj := (r.1.map fun e => 16 * line + e.1).eraseDups
  { r.2 with main := { r.2.main with burstErrs := Tab.set [] r.2.main.burstErrs line r.1, failed := Marks.erase r.2.main.failed line,
                                     burstInj := (r.2.main.burstInj.filter fun b => b / 16 != line) ++ inj } }

/-- The lines of main memory that a range of bytes touches, each with whether the range covers it whole. -/
def linesOf (a n : Nat) : List (Nat × Bool) :=
  if a < 0x10000000000 then
    (List.range ((a + n - 1) / 256 + 1 - a / 256)).map fun i =>
      let l := a / 256 + i
      (l, decide (a ≤ 256 * l) && decide (256 * l + 256 ≤ a + n))
  else []

/-- What a store into main memory does to its lines: a partial line is read first (R233), by a transfer of a core (0xFF: none) or a service access. -/
def State.storeLines (s : State) (source core a n : Nat) : State :=
  if n = 0 then s
  else (linesOf a n).foldl (fun s l => (if l.2 then s else s.readLineAt l.1 source core).writeLine l.1) s

/-- Every line of main memory that a read of `n` bytes touches passes its decoders (R232). -/
def State.senseLines (s : State) (a n source core : Nat) : State :=
  if n = 0 then s else (linesOf a n).foldl (fun s l => s.readLineAt l.1 source core) s

end Sys2Proof.Machine
end

