-- ==== Sys2Proof/Machine/Memory.lean ====
section
/-! DEFINITION. Local memory as the units reach it: which bytes exist and are enabled (R21, R22, R219, R220), code words in error and poison
marks (R215–R217, R233), stores, and the berth descriptors and locks' lists that live in the pads. -/

namespace Sys2Proof.Machine

/-! ### Which bytes exist -/

/-- How an access to a byte of local space completes (R21, R220, R242). -/
inductive Mapped where
  | ok | unmapped | offline | regionOff | retired
  deriving DecidableEq, Repr

/-- Whether the chart enables the region of a slice (R219). -/
def State.sliceOn (s : State) (slice : Nat) : Bool := bitOf s.dev.chart.galleryRegions (slice / 8)

/-- How an access to a local address completes. The register range is not memory. -/
def State.mapped (s : State) (a : Nat) : Mapped :=
  match s.region a with
  | .main h => if !s.halfOn h then .offline else if s.main.retired.contains (a / 0x40000) then .retired else .ok
  | .gallery sl => if !s.halfOn (sliceHalf sl) then .offline else if !s.sliceOn sl then .regionOff else .ok
  | .pad c => if !s.halfOn (s.coreHalf c) then .offline else .ok
  | .regs => .unmapped
  | .unmapped => .unmapped

/-- A byte as an access reads it: zero unless the address is mapped and enabled (R21, R220). -/
def State.readByte (s : State) (a : Nat) : Byte := if s.mapped a = .ok then s.byte a else 0

/-- `n` bytes as an access reads them. -/
def State.readBytes (s : State) (a : Nat) : Nat → List Byte
  | 0 => []
  | n + 1 => s.readByte a :: State.readBytes s (a + 1) n

/-- Stores one byte where the address is mapped and enabled. -/
def State.writeByte (s : State) (a : Nat) (b : Byte) : State :=
  if s.mapped a = .ok then { s with mem := Tab.set Memory.unlisted s.mem a b } else s

/-- Stores bytes, each where its address is mapped and enabled (R21: byte by byte). -/
def State.writeBytes (s : State) (a : Nat) : List Byte → State
  | [] => s
  | b :: bs => State.writeBytes (s.writeByte a b) (a + 1) bs

/-- The first ways other than `ok` in which the bytes of an access complete, each once. -/
def State.badRanges (s : State) (a : Nat) : Nat → List Mapped
  | 0 => []
  | n + 1 =>
    let rest := State.badRanges s (a + 1) n
    let m := s.mapped a
    if m = .ok ∨ rest.contains m then rest else m :: rest

/-- The log records of an access that reached bytes outside mapped, enabled memory: each cause once (R21, R220). -/
def State.logBad (s : State) (source : Nat) : List Mapped → State
  | [] => s
  | m :: ms =>
    let s := match m with
      | .ok => s
      | .unmapped => s.raise (plainEvent 0x0409 source [])
      | .offline =>
        if source < 0x1000 then s.raise (causeEvent 4 (.dmaCause (Fin.ofNat 128 source)) 3 source [])
        else s.raise (plainEvent (unitCode 4 3) source [])
      | .regionOff => s.raise (plainEvent 0x040A source [])
      | .retired => s
    State.logBad s source ms

/-! ### Code words in error and poison -/

/-- The poison unit that holds a local address: a 32-byte code word of a pad or slice, or a 256-byte line of main memory. -/
def unitOf (a : Nat) : Nat := if a < 0x10000000000 then a / 256 * 256 else a / 32 * 32

/-- The length of the poison unit at a local address. -/
def unitLen (a : Nat) : Nat := if a < 0x10000000000 then 256 else 32

/-- Whether a byte lies in a poisoned unit. -/
def State.poisoned (s : State) (a : Nat) : Bool := s.poison.contains (unitOf a)

/-- Whether any byte of a range lies in a poisoned unit. -/
def State.poisonedRange (s : State) (a n : Nat) : Bool :=
  s.poison.any fun u => decide (u < a + n) && decide (a < u + unitLen u)

/-- The name that this model gives the first code word of a slice's sum stores, which are not in local space (R208, R215): 16 words of descriptors, then
132 of leaves, then 65,536 of partial sums. -/
def sumStore (slice : Nat) : Nat := 2 ^ 44 + 2 ^ 22 * slice

/-- The number of code words of a slice's sum stores. -/
def sumStoreWords : Nat := 16 + 132 + 65536

/-- The code words of a row of the sum stores: R218 visits them in 2,048 cycles a period, so that a row has this many, the last rows fewer (log entry 74). -/
def sumRowWords : Nat := 36

/-- The first code word of slot `i` of a slice's partial-sum store (R208). -/
def sumSlot (slice i : Nat) : Nat := sumStore slice + 32 * (148 + 2048 * i)

/-- The names that this model gives the first byte of the feed buffers and of the accumulator banks, which are not in local space: their code words
(R429) are named by them and the key of the byte or of four times the entry. -/
def feedStore : Nat := 2 ^ 45
def accStore : Nat := 2 ^ 46

/-- The structure of R438 to which a code word outside local space belongs: 1 a feed buffer, 2 an accumulator bank, 0 none of them. -/
def structOf (a : Nat) : Nat := if accStore ≤ a then 2 else if feedStore ≤ a then 1 else 0

/-- The cause register, count register, unit number and SOURCE of a slice. -/
def sliceHome (sl : Nat) : Reg × Reg × Nat × Nat := (.galCause (Fin.ofNat 128 sl), .galCount (Fin.ofNat 128 sl), 6, srcSlice sl)

/-- The cause register, count register, unit number and SOURCE of a core's pad. -/
def padHome (c : Nat) : Reg × Reg × Nat × Nat := (.padCause (Fin.ofNat 128 c), .padCount (Fin.ofNat 128 c), 5, srcCore c)

/-- The pad or slice cause register of a code word, its count register, its unit number and its SOURCE. -/
def State.rowHome (s : State) (a : Nat) : Option (Reg × Reg × Nat × Nat) :=
  match s.region a with
  | .pad c => some (padHome c)
  | .gallery sl => some (sliceHome sl)
  | _ =>
    if accStore ≤ a then some (padHome ((a - accStore) / 2 ^ 19))
    else if feedStore ≤ a then some (padHome ((a - feedStore) / 2 ^ 20))
    else if 2 ^ 44 ≤ a then some (sliceHome (a / 2 ^ 22 % 128)) else none

/-- The scrub key of the bank that holds an address: 16 × core + bank of a pad, 2048 + 32 × slice + bank of a slice (R198, R200), 6144 + slice of its sum
stores. -/
def State.bankKey (s : State) (a : Nat) : Nat :=
  match s.region a with
  | .pad c => 16 * c + bitsOf (a - padBase c) 10 7
  | .gallery sl => 2048 + 32 * sl + bitsOf (a - sliceBase sl) 10 6
  | _ => 6144 + a / 2 ^ 22 % 128

/-- The row within its bank of an address of a pad or slice (R198, R200), or its row in the sum stores. -/
def State.rowOf (s : State) (a : Nat) : Nat :=
  match s.region a with
  | .pad c => bitsOf (a - padBase c) 20 11
  | .gallery sl => bitsOf (a - sliceBase sl) 21 11
  | _ => a % 2 ^ 22 / (32 * sumRowWords)

/-- The bank, row and code word of a unit, as a record names them (R216); the bank of the sum stores is 32, beyond those of the
slice; of a feed buffer or an accumulator bank the code word alone, for the spec gives them no rows. -/
def State.wordItems (s : State) (unit : Nat) : List Nat :=
  match s.region unit with
  | .pad _ => [s.bankKey unit % 16, s.rowOf unit, unit % 128 / 32]
  | .gallery _ => [s.bankKey unit % 32, s.rowOf unit, unit % 64 / 32]
  | _ =>
    if accStore ≤ unit then [(unit - accStore) % 2 ^ 19 / 32]
    else if feedStore ≤ unit then [(unit - feedStore) % 2 ^ 20 / 32]
    else [32, s.rowOf unit, unit % 2 ^ 22 / 32 % sumRowWords]

/-- Inverts a bit of a stored code word. -/
def State.flipBit (s : State) (unit bit : Nat) : State :=
  let a := unit + bit / 8
  let b : Byte := BitVec.ofNat 8 (2 ^ (bit % 8))
  if accStore ≤ a then
    let k := (a - accStore) / 4
    { s with acc := Tab.set 0 s.acc k (Tab.get 0 s.acc k ^^^ BitVec.ofNat 32 (2 ^ (bit % 32))) }
  else if feedStore ≤ a then { s with feed := Tab.set 0 s.feed (a - feedStore) (Tab.get 0 s.feed (a - feedStore) ^^^ b) }
  else { s with mem := Tab.set Memory.unlisted s.mem a (s.byte a ^^^ b) }

/-- A code word passes the decoder (R216, R217): one bit in error is corrected, counted, logged and queued for scrub, at most 4 rows a
bank (R218 names no scrub of feed buffers and accumulator banks); more bits are uncorrectable: counted once, raised as an alarm, and the unit is delivered with its stored bits and a poison
mark. -/
def State.senseUnit (s : State) (unit : Nat) : State :=
  match Tab.get [] s.onDie.rowErrs unit, s.rowHome unit with
  | [], _ => s
  | _, none => s
  | [b], some (cause, cnt, u, src) =>
    let key := s.bankKey unit
    let q := Tab.get [] s.onDie.rowQueue key
    let row := s.rowOf unit
    let q' := if q.contains row ∨ 4 ≤ q.length then q else q ++ [row]
    let s := s.count cnt 63 48 1
    let s := { s with totals := { s.totals with corrected := s.totals.corrected + 1 },
                      onDie := if structOf unit = 0 then { s.onDie with rowQueue := Tab.set [] s.onDie.rowQueue key q' } else s.onDie }
    s.raise { causeEvent u cause 1 src (s.wordItems unit ++ [b]) with
      line := unit, injected := s.onDie.rowInj.contains unit, structNo := structOf unit }
  | b :: b' :: bs, some (cause, cnt, u, src) =>
    let inj := s.onDie.rowInj.contains unit
    let s := (b :: b' :: bs).foldl (fun s b => if b < 256 then s.flipBit unit b else s) s
    let s := { s with poison := Marks.insert s.poison unit,
                      onDie := { s.onDie with rowErrs := Tab.erase s.onDie.rowErrs unit, rowInj := Marks.erase s.onDie.rowInj unit } }
    let s := s.count cnt 47 32 1
    let s := s.det 4
    s.raise { causeAlarm u cause 2 src (s.wordItems unit) with line := unit, injected := inj, structNo := structOf unit }

/-- Every code word that a read of `n` bytes touches passes the decoder. -/
def State.sense (s : State) (a n : Nat) : State :=
  (s.onDie.rowErrs.filter fun e => decide (e.1 < a + n) && decide (a < e.1 + 32)).foldl (fun s e => s.senseUnit e.1) s

/-- Whether a range covers a poison unit whole. -/
def coversUnit (a n u : Nat) : Bool := decide (a ≤ u) && decide (u + unitLen u ≤ a + n)

/-- The code words that a range touches are encoded anew. -/
def State.encodeWords (s : State) (a n : Nat) : State :=
  let hit (u : Nat) : Bool := decide (u < a + n) && decide (a < u + 32)
  { s with onDie := { s.onDie with rowErrs := s.onDie.rowErrs.filter fun e => !hit e.1, rowInj := s.onDie.rowInj.filter fun u => !hit u } }

/-- A write reads each code word that it covers in part, merges, and encodes anew every code word that it touches (R199, R200, R215). -/
def State.mergeWords (s : State) (a n : Nat) : State :=
  let hit (u : Nat) : Bool := decide (u < a + n) && decide (a < u + 32)
  let s := (s.onDie.rowErrs.filter fun e => hit e.1 && !coversUnit a n e.1).foldl (fun s e => s.senseUnit e.1) s
  s.encodeWords a n

/-- A write that replaces a whole unit with unpoisoned data clears its poison (R217, R233). -/
def State.cleanUnits (s : State) (a n : Nat) : State := { s with poison := s.poison.filter fun u => !coversUnit a n u }

/-- A store into a feed buffer or an accumulator bank: the code words that it touches are merged and encoded anew (R215, R429). -/
def State.storeWords (s : State) (a n : Nat) : State := (s.mergeWords a n).cleanUnits a n

/-- Marks every unit that a range touches as poisoned. -/
def State.markPoison (s : State) (a n : Nat) : State :=
  let first := unitOf a
  let len := unitLen a
  { s with poison := (List.range (ceilDiv (a + n - first) len)).foldl (fun p i => Marks.insert p (first + len * i)) s.poison }

/-- The injections of R432 on a row that a core writes in its pad (0x0002, 0x0003) or that is written in a slice (0x0004, 0x0005):
one data bit, or two of one code word, are stored inverted. -/
def State.injectRow (s : State) (a : Nat) : State :=
  let go (one two scope : Nat) : State :=
    let u := unitOf a
    if s.armed two scope then
      let s := s.disarm two scope
      { s with onDie := { s.onDie with rowErrs := Tab.put s.onDie.rowErrs u [0, 1], rowInj := Marks.insert s.onDie.rowInj u } }
    else if s.armed one scope then
      let s := s.disarm one scope
      { s with onDie := { s.onDie with rowErrs := Tab.put s.onDie.rowErrs u [0], rowInj := Marks.insert s.onDie.rowInj u } }
    else s
  match s.region a with
  | .pad c => go 2 3 c
  | .gallery sl => go 4 5 sl
  | _ => s

/-- A unit's store into local memory: the bytes land where mapped, code words and lines covered in part are read and merged, whole units written are clean,
injected row errors take hold. `source` and `core`: who reads a partial line (R243). -/
def State.memWriteFrom (s : State) (source core a : Nat) (bs : List Byte) : State :=
  match bs with
  | [] => s
  | _ => ((((s.storeLines source core a bs.length).mergeWords a bs.length).writeBytes a bs).cleanUnits a bs.length).injectRow a

/-- A store that belongs to no core's transfer. -/
def State.memWrite (s : State) (a : Nat) (bs : List Byte) : State := s.memWriteFrom 1 0xFF a bs

/-- A core's write of poisoned data: stored, and its units marked with the poison pattern (R217, R233). -/
def State.memWritePoison (s : State) (core a : Nat) (bs : List Byte) : State :=
  match bs with
  | [] => s
  | _ => (((s.storeLines 1 core a bs.length).mergeWords a bs.length).writeBytes a bs).markPoison a bs.length

/-- Bytes are merged into code words and lines that the same access has just read: they are encoded and written once, and read no more (R215, R233). -/
def State.rewrite (s : State) (a : Nat) (bs : List Byte) : State :=
  match bs with
  | [] => s
  | _ =>
    let s := (linesOf a bs.length).foldl (fun s l => s.writeLine l.1) s
    (((s.encodeWords a bs.length).writeBytes a bs).cleanUnits a bs.length).injectRow a

/-! ### Sum windows as writes meet them (R208, R213) -/

/-- The sum window that holds an address: slice, descriptor, window tile and byte of the tile (R208). -/
def State.sumWindow (s : State) (a : Nat) : Option (Nat × Nat × Nat × Nat) :=
  match s.region a with
  | .gallery sl =>
    let t := (a - sliceBase sl) / 0x10000
    let hit (d : Nat) : Option (Nat × Nat × Nat × Nat) :=
      let r := Reg.sumCfg (Fin.ofNat 128 sl) (Fin.ofNat 16 d)
      let base := s.fld r 38 33
      if s.fld r 63 48 ≠ 0 ∧ base ≤ t ∧ t < base + s.fld r 47 40 then some (sl, d, t - base, (a - sliceBase sl) % 0x10000) else none
    (List.range 16).findSome? hit
  | _ => none

/-- A write that no leaf names is discarded; it is logged with its source, the window's descriptor, the window tile and the round (R213). -/
def State.strayIn (s : State) (source slice descr tile : Nat) : State :=
  let round := s.fld (.sumState (Fin.ofNat 128 slice) (Fin.ofNat 16 descr)) 63 32
  s.raise (causeEvent 6 (.galCause (Fin.ofNat 128 slice)) 3 (srcSlice slice) [source, descr, tile, round])

/-- The bytes of a write that lie in sum windows are stray, once for each window tile that they reach; the others are left (R213). -/
def State.windowStray (s : State) (source a : Nat) (data : List (Option Byte)) : List (Option Byte) × State :=
  let at_ (i : Nat) : Option (Nat × Nat × Nat) := (s.sumWindow (a + i)).map fun w => (w.1, w.2.1, w.2.2.1)
  let hits := ((List.range data.length).filterMap fun i => if (data.getD i none).isSome then at_ i else none).eraseDups
  ((List.range data.length).map fun i => if (at_ i).isSome then none else data.getD i none,
   hits.foldl (fun s w => s.strayIn source w.1 w.2.1 w.2.2) s)

/-- The runs of consecutive bytes of data with gaps. -/
def runsFrom : Nat → List (Option Byte) → List (Nat × List Byte)
  | _, [] => []
  | a, none :: rest => runsFrom (a + 1) rest
  | a, some b :: rest =>
    match runsFrom (a + 1) rest with
    | [] => [(a, [b])]
    | (a', bs) :: more => if a' = a + 1 then (a, b :: bs) :: more else (a, [b]) :: (a', bs) :: more

/-! ### Berth descriptors (R156, R157) -/

/-- The pad offset of a core's berth table (R172). -/
def State.berthTable (s : State) (core : Nat) : Nat := s.fld (.berthTableBase (Fin.ofNat 128 core)) 20 12 * 4096

/-- The local address of a berth's descriptor. -/
def State.berthAddr (s : State) (core berth : Nat) : Nat := padBase core + s.berthTable core + 16 * berth

/-- A berth's 128-bit descriptor. -/
def State.berth (s : State) (core berth : Nat) : Nat := leNat (s.bytes (s.berthAddr core berth) 16)

/-- Stores a berth's descriptor, which has been read: its code word is encoded anew (R199, R215). -/
def State.setBerth (s : State) (core berth d : Nat) : State := s.rewrite (s.berthAddr core berth) (leBytes 16 d)

/-- DEPTH, BASE, REMOTE_OK, BROKEN, PUSHED and POPPED of a descriptor (R156). -/
def berthDepth (d : Nat) : Nat := bitsOf d 47 35
def berthBase (d : Nat) : Nat := bitsOf d 34 17
def berthRemoteOk (d : Nat) : Bool := bitOf d 49
def berthBroken (d : Nat) : Bool := bitOf d 48
def berthPushed (d : Nat) : Nat := bitsOf d 127 96
def berthPopped (d : Nat) : Nat := bitsOf d 95 64

/-- The occupancy of a berth: PUSHED − POPPED modulo 2^32 (R157). -/
def berthOcc (d : Nat) : Nat := (berthPushed d + 2 ^ 32 - berthPopped d) % 2 ^ 32

/-- The local address of the entry of slot `n` (R157). -/
def berthEntry (core d n : Nat) : Nat := padBase core + 8 * berthBase d + 8 * (n % berthDepth d)

/-- Whether the oldest entry of a berth exists and is visible: no push in flight has still to write its slot (R157). -/
def State.berthHead (s : State) (core berth d : Nat) : Bool :=
  let a := berthEntry core d (berthPopped d)
  let writes (e : Effect) : Bool := match e with
    | .berthEntry key at_ _ => key == 4096 * core + berth && at_ == a
    | _ => false
  decide (berthOcc d ≠ 0) && !s.ops.any fun o => o.effects.any writes

/-- A write by ST or DMA into the berth table or into a ring leaves that berth's counts open (R156): PUSHED and POPPED take a free
value. -/
def State.spoilBerths (s : State) (core a n : Nat) : State :=
  if s.berthTable core = 0 then s
  else
    let hit (s : State) (b : Nat) : Bool :=
      let d := s.berth core b
      let at_ := s.berthAddr core b
      let ring := padBase core + 8 * berthBase d
      decide (berthDepth d ≠ 0) &&
        ((decide (at_ < a + n) && decide (a < at_ + 16)) || (decide (ring < a + n) && decide (a < ring + 8 * berthDepth d)))
    let spoil (s : State) (b : Nat) : State :=
      if hit s b then
        let f := s.takeFree
        f.2.store (f.2.berthAddr core b + 8) (leBytes 8 f.1.toNat)
      else s
    (List.range 4096).foldl spoil s

end Sys2Proof.Machine
end

