-- ==== Sys2Proof/Machine/Meet.lean ====
section
/-! DEFINITION. Bank slots, port slots and feed rows: which requests an operation makes, and what happens where two meet (R88, R199–R207, R356). The spec leaves
the slots that the compiler gives each requester to the plan's schedule, which no plan image carries: the bank cycles in which an operation's rows are
read and written are the model's choice (DESIGN CHOICE, log entry 71). -/

namespace Sys2Proof.Machine

/-! ### The requests of an operation -/

/-- The bytes of local memory that an effect writes: address and length. A contribution to a sum window reaches the sum unit instead (R211). -/
def Effect.span : Effect → Option (Nat × Nat)
  | .mem a bs => some (a, bs.length)
  | .memBits a _ _ => some (a, 1)
  | .berthEntry _ a _ => some (a, 8)
  | .padCount a _ => some (a, 4)
  | .atomic _ _ a _ _ _ => some (a, 8)
  | .stepTag a => some (a, 8)
  | _ => none

/-- The code words that an effect writes, also those of feed buffers and accumulator banks. -/
def Effect.markSpan : Effect → Option (Nat × Nat)
  | .feed k bs => some (feedStore + k, bs.length)
  | .acc k vs => some (accStore + 4 * k, 4 * vs.length)
  | e => e.span

/-- The poison marks of effects that are written from poisoned data (R217). -/
def poisonMarks (bad : Bool) (effects : List Effect) : List Effect :=
  if bad then (effects.filterMap Effect.markSpan).map fun sp => .poison sp.1 sp.2 else []

/-- The feed rows that an effect writes, with their bytes (R86, R88). -/
def Effect.feedRows : Effect → List (BankPlace × Nat)
  | .feed k bs => (List.range (ceilDiv (k % 128 + bs.length) 128)).map fun i => (.feed (k / 131072) (k % 131072 / 128 + i), min 128 bs.length)
  | _ => []

/-- The length of a row at a local address: a pad row has 128 bytes, a gallery sector 64 (R198, R200). -/
def State.rowLen (s : State) (a : Nat) : Option Nat :=
  match s.region a with
  | .pad _ => some 128
  | .gallery _ => some 64
  | _ => none

/-- The rows that a range of bytes touches, each with how many of its bytes. -/
def State.rowsIn (s : State) (sp : Nat × Nat) : List (Nat × Nat) :=
  match s.rowLen sp.1 with
  | none => []
  | some z => (List.range ((sp.1 + sp.2 + z - 1) / z - sp.1 / z)).map fun i =>
      let r := sp.1 / z + i
      (r * z, min (sp.1 + sp.2) ((r + 1) * z) - max sp.1 (r * z))

/-- The rows of some ranges in increasing address, with the bytes of each. -/
def State.rowTab (s : State) (spans : List (Nat × Nat)) : Tab Nat :=
  (spans.flatMap s.rowsIn).foldl (fun t e => Tab.put t e.1 (Tab.get 0 t e.1 + e.2)) []

/-- The bank cycle in which an instant in picoseconds lies: a cycle lasts one rated step (R199). -/
def State.cycleAt (s : State) (ps : Nat) : Nat := ps / s.stepPs

/-- The bank whose slot a place takes; a feed row and a sector on its way to a sum unit take none. -/
def State.bankOf (s : State) : BankPlace → Option Nat
  | .row a => some (s.bankKey a)
  | _ => none

/-- The most places of a list that lie in one bank. -/
def State.mostInBank (s : State) (places : List (BankPlace × Nat)) : Nat :=
  let ks := places.filterMap fun p => s.bankOf p.1
  let counts := ks.foldl (fun t k => Tab.put t k (Tab.get 0 t k + 1)) ([] : Tab Nat)
  counts.foldl (fun n e => max n e.2) 0

/-- Requests for some places at a pace in bytes a cycle, between two cycles: reads from the first on, writes up to the last. Those of one list in one bank
take cycles of their own (R199, R200); a list that its time does not hold runs beyond it. -/
def State.spreadReqs (s : State) (op : Option Nat) (who : Requester) (write : Bool) (c0 c1 pace : Nat) (places : List (BankPlace × Nat)) : List BankReq :=
  let total := places.foldl (fun n p => n + p.2) 0
  let len := max 1 (min (ceilDiv total pace) (c1 - c0))
  let first := if write then max c0 (c1 - max len (s.mostInBank places)) else c0
  let go (acc : List BankReq × Nat × Tab Nat) (p : BankPlace × Nat) : List BankReq × Nat × Tab Nat :=
    let paced := first + acc.2.1 * len / max 1 total
    let k := s.bankOf p.1
    let c := max paced ((k.map fun b => Tab.get 0 acc.2.2 b).getD 0)
    (acc.1 ++ [{ op := op, who := who, place := p.1, write := write, bytes := p.2, cycle := c, since := c }], acc.2.1 + p.2,
     (k.map fun b => Tab.put acc.2.2 b (c + 1)).getD acc.2.2)
  (places.foldl go ([], 0, [])).1

/-- The pieces of at most 80 bytes that rows of other pads take, one a cycle (R203): none crosses a multiple of 80 bytes of the stream, or a row. -/
def farPieces (rows : List (Nat × Nat)) : List (BankPlace × Nat) :=
  let one (acc : List (BankPlace × Nat) × Nat) (e : Nat × Nat) : List (BankPlace × Nat) × Nat :=
    let n0 := min e.2 (80 - acc.2 % 80)
    let n1 := min (e.2 - n0) 80
    let ps := ([n0, n1, e.2 - n0 - n1].filter fun n => decide (n ≠ 0)).map fun n => (BankPlace.row e.1, n)
    (acc.1 ++ ps, acc.2 + e.2)
  (rows.foldl one ([], 0)).1

/-- The requests of one direction of an operation of a core: its own pad's rows at 2,048 bytes a cycle, gallery sectors and sectors of sum windows at 320,
rows of other pads at 80, feed rows written at 2,048 (R31, R199, R201, R203, R204). -/
def State.sideReqs (s : State) (op : Option Nat) (core : Nat) (who : Requester) (write : Bool) (c0 c1 : Nat) (spans : List (Nat × Nat))
    (others : List (BankPlace × Nat)) : List BankReq :=
  let rows := s.rowTab spans
  let padOf (e : Nat × Nat) : Option Nat := match s.region e.1 with
    | .pad p => some p
    | _ => none
  let place (e : Nat × Nat) : BankPlace × Nat := (.row e.1, e.2)
  let own := rows.filter fun e => padOf e == some core
  let gal := rows.filter fun e => (padOf e).isNone
  let far := rows.filter fun e => (padOf e).isSome && padOf e != some core
  let feeds := others.filter fun p => p.1 matches .feed _ _
  let sectors := others.filter fun p => p.1 matches .sector _
  let go (pace : Nat) (l : List (BankPlace × Nat)) : List BankReq := s.spreadReqs op who write c0 c1 pace l
  go 2048 (own.map place) ++ go 320 (gal.map place ++ sectors) ++ go 80 (farPieces far) ++ go 2048 feeds

/-- The reads of feed rows by an EOP: one record a step, each in the cycle of its step (R85, R88). -/
def feedReads (op : Nat) (who : Requester) (c0 : Nat) (feeds : List (BankPlace × Nat)) : List BankReq :=
  feeds.map fun p => { op := some op, who := who, place := p.1, write := false, bytes := 128, cycle := c0 + p.2, since := c0 + p.2 }

/-- The sectors of sum windows that contributions carry to the sum units through the core's port, with the bytes of each (R201, R211). -/
def sumSectors (effects : List Effect) : List (BankPlace × Nat) :=
  let bytes (e : Effect) : List Nat := match e with
    | .sum _ sl t vs => vs.map fun v => (sliceBase sl + 0x10000 * t + 4 * v.1) / 64 * 64
    | _ => []
  let tab := (effects.flatMap bytes).foldl (fun t a => Tab.put t a (Tab.get 0 t a + 4)) ([] : Tab Nat)
  tab.map fun e => (.sector e.1, e.2)

/-- The window tiles that an operation's contributions complete, as far as the contributions in flight show, with the elements written: the sum unit
writes them in the slots of the contribution that is last (R212). -/
def State.sumSpans (s : State) (effects : List Effect) : List (Nat × Nat × Nat) :=
  let toTile (sl t : Nat) (e : Effect) : Bool := match e with
    | .sum _ sl' t' _ => sl' == sl && t' == t
    | _ => false
  let one (e : Effect) : List (Nat × Nat × Nat) := match e with
    | .sum _ sl t vs =>
      let a := sliceBase sl + 0x10000 * t
      let leaves := match s.sumWindow a with
        | some w => s.fld (.sumCfg (Fin.ofNat 128 sl) (Fin.ofNat 16 w.2.1)) 63 48
        | none => 0
      let here := (s.onDie.sumHeld.filter fun h => h.slice == sl && h.tile == t).length
      let coming := (s.ops.filter fun o => o.effects.any (toTile sl t)).length
      if here + coming + 1 = leaves then vs.map fun v => (sl, a + 4 * v.1, 4) else []
    | _ => []
  effects.flatMap one

/-- The requests of the sum units for an operation's contributions. -/
def State.sumReqs (s : State) (op c0 c1 : Nat) (effects : List Effect) : List BankReq :=
  let spans := s.sumSpans effects
  ((spans.map fun x => x.1).eraseDups).flatMap fun sl =>
    let rows := (s.rowTab ((spans.filter fun x => x.1 == sl).map fun x => x.2)).map fun e => (BankPlace.row e.1, e.2)
    s.spreadReqs (some op) (.sumUnit sl) true c0 c1 320 rows

/-- Books the requests of an operation that starts at boundary `start` and is rated at `ps` picoseconds: what it reads (ranges of memory, and feed rows with
the step that reads each) and what its effects write. -/
def State.book (s : State) (op core ctx : Nat) (engine : Engine) (start ps : Nat) (reads : List (Nat × Nat)) (feeds : List (BankPlace × Nat))
    (effects : List Effect) : State :=
  let who : Requester := .core core engine ctx
  let c0 := ceilDiv (1000 * start) s.stepPs
  let c1 := s.cycleAt (1000 * start + ps)
  let r := s.sideReqs (some op) core who false c0 c1 reads [] ++ feedReads op who c0 feeds
  let w := s.sideReqs (some op) core who true c0 c1 (effects.filterMap Effect.span) (effects.flatMap Effect.feedRows ++ sumSectors effects)
  { s with onDie := { s.onDie with reqs := s.onDie.reqs ++ r ++ w ++ s.sumReqs op c0 c1 effects } }

/-- Books the accesses that the operation which a strand issues next makes at its issue boundary: a berth's descriptor and entry, a lock's list. -/
def State.bookIssue (s : State) (core ctx : Nat) (engine : Engine) (reads writes : List (Nat × Nat)) : State :=
  let who : Requester := .core core engine ctx
  let c := ceilDiv (1000 * s.boundary) s.stepPs
  let r := s.sideReqs (some s.nextOp) core who false c c reads []
  let w := s.sideReqs (some s.nextOp) core who true c c writes []
  { s with onDie := { s.onDie with reqs := s.onDie.reqs ++ r ++ w } }

/-- Books the requests of a requester that is no operation of a core, from the cycle at an instant on: ranges that it reads and ranges that it writes, under a
number of their own, at a pace in bytes a cycle. -/
def State.bookAt (s : State) (who : Requester) (ps : Nat) (reads writes : List (Nat × Nat)) (pace : Nat := 320) : State :=
  let c := ceilDiv ps s.stepPs
  let rows (sps : List (Nat × Nat)) : List (BankPlace × Nat) := (s.rowTab sps).map fun e => (BankPlace.row e.1, e.2)
  let go (write : Bool) (sps : List (Nat × Nat)) : List BankReq :=
    let rs := rows sps
    s.spreadReqs (some s.nextOp) who write c (c + ceilDiv (rs.foldl (fun n p => n + p.2) 0) pace) pace rs
  { s with onDie := { s.onDie with reqs := s.onDie.reqs ++ go false reads ++ go true writes }, nextOp := s.nextOp + 1 }

/-! ### The fixed order (R206) -/

/-- The place of a core's engine among the requesters of its own pad; store stages, palette and fabric reads go through the core DMA. -/
def engineRank (e : Engine) (ctx : Nat) : Nat :=
  match e with
  | .vector => 3
  | .easel => 4
  | .sketch => 5
  | .scalar => 6 + ctx
  | .berth => 6 + ctx
  | .lock => 6 + ctx
  | .signal => 6 + ctx
  | _ => 2

/-- Where a request stands in the fixed order of its resource (R206): quay receivers and other cores reach a pad through its remote port, last. -/
def State.rankOf (s : State) (r : BankReq) : Nat :=
  let gallery := match r.place with
    | .row a => (match s.region a with
      | .pad _ => false
      | _ => true)
    | _ => false
  let own (core : Nat) : Bool := match r.place with
    | .row a => s.region a == .pad core
    | .port _ => false
    | .sector _ => false
    | .feed _ _ => true
  match r.who with
  | .scrub => 0
  | .service => 1
  | .sumUnit _ => 2
  | .quay q => if gallery then 3 + q else 4096 + q
  | .core c e ctx => if gallery then 4096 + c else if own c then engineRank e ctx else 8192 + c

/-- What a record of a meeting says of a requester: its kind, then its number; a core's has its engine, its number and its context. -/
def Requester.items : Requester → List Nat
  | .scrub => [0, 0]
  | .service => [1, 0]
  | .sumUnit sl => [2, sl]
  | .quay q => [3, q]
  | .core c e ctx => [4 + engineRank e 0, 2048 * c + ctx]

/-! ### Meetings (R88, R205) -/

/-- The cause register, its bit, the count register, unit and SOURCE where meetings at a place are reported (R102, R103, R221). -/
def State.meetEvent (s : State) (place : BankPlace) (items : List Nat) : Event × Reg :=
  let home (h : Reg × Reg × Nat × Nat) : Event × Reg := (causeEvent h.2.2.1 h.1 0 h.2.2.2 items, h.2.1)
  match place with
  | .feed key _ =>
    let c : Fin 128 := Fin.ofNat 128 (key / 8)
    let e := key / 2 % 4
    (easelEvent (.easelCause c) 8 e (srcEasel (key / 2)) items, .easelFeed c (Fin.ofNat 4 e))
  | .port p => home (padHome p)
  | .sector a => home ((s.rowHome a).getD (padHome 0))
  | .row a => match s.rowHome a with
    | some h => home h
    | none => home (padHome 0)

/-- Two requests have met: in STRICT the meeting is counted in COLLISIONS, logged with both requesters and raised; in RELAXED the stall is counted (R88,
R205). -/
def State.meeting (s : State) (place : BankPlace) (items : List Nat) (injected : Bool) : State :=
  let e := s.meetEvent place items
  let top := match place with
    | .feed _ _ => if s.strict then (63, 32) else (31, 0)
    | _ => if s.strict then (31, 16) else (15, 0)
  let s := (s.count e.2 top.1 top.2 1).det 7
  if s.strict then s.raise { e.1 with injected := injected } else s

/-- Whether two requests belong to one operation, whose own requests never meet. -/
def BankReq.sameOp (r g : BankReq) : Bool := r.op.isSome && r.op == g.op

/-- The pad whose remote port a request passes: a quay's, or a core's to another core's pad (R203, R204). -/
def State.viaPort (s : State) (r : BankReq) : Option Nat :=
  match r.who, r.place with
  | .quay _, .row a => (match s.region a with
    | .pad p => some p
    | _ => none)
  | .core c _ _, .row a => (match s.region a with
    | .pad p => if p = c then none else some p
    | _ => none)
  | _, _ => none

/-- Where a request meets one of those granted in a cycle, which keeps it from its slot: the remote port, which takes 320 bytes each way, and behind it the
bank, with one row read and one row write (R199, R200, R204). -/
def State.blocker (s : State) (granted : List BankReq) (r : BankReq) : Option (BankPlace × BankReq) :=
  let way := granted.filter fun g => g.write == r.write
  let port : Option (BankPlace × BankReq) := (s.viaPort r).bind fun p =>
    let here := way.filter fun g => s.viaPort g == some p
    if 320 < here.foldl (fun n g => n + g.bytes) r.bytes then here.getLast?.map fun g => (.port p, g) else none
  let bank : Option (BankPlace × BankReq) := (s.bankOf r.place).bind fun k =>
    (List.find? (fun g => s.bankOf g.place == some k) way).map fun g => (r.place, g)
  port.orElse fun _ => bank

/-- The core through whose port to the on-die network a request passes (R201). -/
def State.onNetwork (s : State) (r : BankReq) : Option Nat :=
  match r.who, r.place with
  | .core c _ _, .row a => (match s.region a with
    | .gallery _ => some c
    | _ => if (s.viaPort r).isSome then some c else none)
  | .core c _ _, .sector _ => some c
  | _, _ => none

/-- What a request takes of its core's port: a whole sector of the gallery, or its bytes of another pad (R201, R203). -/
def State.portBytes (s : State) (r : BankReq) : Nat := if (s.viaPort r).isSome then r.bytes else 64

/-- The slice that a request reaches through the network; its own sum unit and scrubber do not pass it. -/
def State.sliceHit (s : State) (r : BankReq) : Option Nat :=
  let at_ (a : Nat) : Option Nat := match s.region a with
    | .gallery sl => some sl
    | _ => none
  match r.who, r.place with
  | .sumUnit _, _ => none
  | .scrub, _ => none
  | _, .row a => at_ a
  | _, .sector a => at_ a
  | _, _ => none

/-- Whether the network holds a request back in a cycle: 5 sectors each way at a core's port, 32 sectors each way at a slice (R201). R201 only bars a STRICT
plan from exceeding them and names no error: the request is held back to the next cycle in the order of R206, and nothing is raised unless its operation is
then late (DESIGN CHOICE, log entry 71). -/
def State.crowded (s : State) (granted : List BankReq) (r : BankReq) : Bool :=
  let way := granted.filter fun g => g.write == r.write
  let port := match s.onNetwork r with
    | none => false
    | some c => decide (320 < (way.filter fun g => s.onNetwork g == some c).foldl (fun n g => n + s.portBytes g) (s.portBytes r))
  port || (match s.sliceHit r with
    | none => false
    | some sl => decide (32 ≤ (way.filter fun g => s.sliceHit g == some sl).length))

/-- An effect without the bytes of some addresses. -/
def Effect.without (gone : List Nat) : Effect → List Effect
  | .mem a bs => (runsFrom a ((List.range bs.length).map fun i => if gone.contains (a + i) then none else bs[i]?)).map fun r => .mem r.1 r.2
  | .memBits a m v => if gone.contains a then [] else [.memBits a m v]
  | e => [e]

/-- Of two writes that meet, the one performed first loses the bytes that the other writes too, where it would otherwise become visible last (R205). -/
def State.overtaken (s : State) (first last : BankReq) : State :=
  match first.place, first.op.bind fun i => List.find? (fun o => o.id == i) s.ops, last.op.bind fun i => List.find? (fun o => o.id == i) s.ops with
  | .row a, some f, some l =>
    if l.vis < f.vis ∨ (l.vis = f.vis ∧ l.id < f.id) then
      let z := (s.rowLen a).getD 0
      let gone := ((l.effects.filterMap Effect.span).flatMap fun sp => (List.range sp.2).map fun i => sp.1 + i).filter fun x => decide (a ≤ x ∧ x < a + z)
      { s with ops := s.ops.map fun o => if o.id = f.id then { o with effects := o.effects.flatMap (Effect.without gone) } else o }
    else s
  | _, _, _ => s

/-- The items of a meeting's record: both requesters, the one performed first ahead. -/
def meetItems (first last : BankReq) : List Nat := first.who.items ++ last.who.items

/-- A request that is performed is an access of the pad or slice that it reaches: an armed meeting of 0x0007 of R432 is reported there, with the data unchanged
and the access as both requesters. -/
def State.injectMeet (s : State) (r : BankReq) : State :=
  let scope : Option Nat := match r.place with
    | .row a => (match s.region a with
      | .pad p => some p
      | .gallery sl => some (0x100 + sl)
      | _ => none)
    | _ => none
  match scope with
  | some sc => if s.armed 7 sc then (s.disarm 7 sc).meeting r.place (meetItems r r) true else s
  | none => s

/-- One request in its turn of a cycle: performed, or deferred to the next cycle. A read and a write of one row meet too: in STRICT both are performed, the
read first; in RELAXED the write stalls (R88, R205). -/
def State.takeTurn (acc : List BankReq × List BankReq × State) (r : BankReq) : List BankReq × List BankReq × State :=
  let s := acc.2.2
  let later := acc.2.1 ++ [{ r with cycle := r.cycle + 1 }]
  match s.blocker acc.1 r with
  | some (p, g) =>
    let s := if r.sameOp g then s else s.meeting p (meetItems g r) false
    (acc.1, later, if r.write && g.place == r.place then s.overtaken g r else s)
  | none =>
    if s.crowded acc.1 r then (acc.1, later, s)
    else
      let reader := if r.write then List.find? (fun g => !g.write && g.place == r.place && !r.sameOp g && r.place matches .row _ | .feed _ _) acc.1 else none
      match reader with
      | none => (acc.1 ++ [r], acc.2.1, s.injectMeet r)
      | some g =>
        let m := s.meeting r.place (meetItems g r) false
        if s.strict then (acc.1 ++ [r], acc.2.1, m.injectMeet r) else (acc.1, later, m)

/-- Whether a request uses a slot that the schedule reserves: a scrub's or a service access's (R24, R29, R218). -/
def BankReq.reserved (r : BankReq) : Bool :=
  match r.who with
  | .scrub => true
  | .service => true
  | _ => false

/-- A scrub or a service access in its turn: its reserved slot is one that no other request uses, so it meets none, and delays none. The spec says that the
loader reserves such slots and not where: it is the first one from its time on that the plan leaves free (DESIGN CHOICE, log entry 71). -/
def State.takeReserved (acc : List BankReq × List BankReq × State) (r : BankReq) : List BankReq × List BankReq × State :=
  let s := acc.2.2
  let shared := acc.1.any fun g => g.place == r.place && !r.sameOp g
  if (s.blocker acc.1 r).isSome || s.crowded acc.1 r || shared then (acc.1, acc.2.1 ++ [{ r with cycle := r.cycle + 1 }], s)
  else (acc.1 ++ [r], acc.2.1, s.injectMeet r)

/-- The requests of a cycle in the order in which they are served, reads before writes: the fixed order of R206 in STRICT, those of one core in that of their
issue (R185); in RELAXED arrival order, where requests that arrive in one cycle come in an order that the spec leaves open (a free value; log entry 71). -/
def State.served (s : State) (rs : List BankReq) : List BankReq × State :=
  let key (acc : List (Nat × BankReq) × State) (r : BankReq) : List (Nat × BankReq) × State :=
    let w := if r.write then 2 ^ 200 else 0
    if s.strict then (acc.1 ++ [(w + 2 ^ 128 * s.rankOf r + r.op.getD 0, r)], acc.2)
    else
      let f := acc.2.takeFree
      (acc.1 ++ [(w + 2 ^ 64 * r.since + f.1.toNat, r)], f.2)
  let k := if rs.length < 2 then (rs.map fun r => (0, r), s) else rs.foldl key ([], s)
  ((k.1.foldl (fun l x => insertBy (fun a b => decide (a.1 < b.1)) x l) []).map fun x => x.2, k.2)

/-- Performs the requests of one bank cycle; those that are deferred come ahead of the next cycle's. -/
def State.bankCycle (s : State) (c : Nat) : State :=
  let now := s.onDie.reqs.filter fun r => r.cycle == c
  let o := s.served (now.filter fun r => !r.reserved)
  let r := (now.filter BankReq.reserved).foldl State.takeReserved (o.1.foldl State.takeTurn ([], [], o.2))
  { r.2.2 with onDie := { r.2.2.onDie with reqs := r.2.1 ++ s.onDie.reqs.filter fun r => r.cycle != c } }

/-- The earliest cycle of some requests. -/
def firstCycle : List BankReq → Option Nat
  | [] => none
  | r :: rs => match firstCycle rs with
    | none => some r.cycle
    | some c => some (min r.cycle c)

/-- Performs every bank cycle before cycle `lim`; at most `fuel` of them. -/
def State.settleBanks (lim : Nat) : Nat → State → State
  | 0, s => s
  | fuel + 1, s =>
    match firstCycle s.onDie.reqs with
    | none => s
    | some c => if c < lim then State.settleBanks lim fuel (s.bankCycle c) else s

/-- Performs the bank cycles that begin before a boundary: each performs at least one request. -/
def State.settleTo (s : State) (b : Nat) : State := State.settleBanks (ceilDiv (1000 * b) s.stepPs) s.onDie.reqs.length s

/-- Whether an operation has a request that a meeting still keeps from being performed (R207). -/
def State.deferredOp (s : State) (id : Nat) : Bool := s.onDie.reqs.any fun r => r.op == some id

/-- The requests of operations that start anew move with them. -/
def State.unbook (s : State) (id : Nat) : State := { s with onDie := { s.onDie with reqs := s.onDie.reqs.filter fun r => r.op != some id } }

end Sys2Proof.Machine
end

