-- ==== Sys2Proof/Machine/Issue.lean ====
section
/-! DEFINITION. How a strand's instruction issues: waiting, faulting, going on, and putting an operation in flight (R138–R143, R153). -/

namespace Sys2Proof.Machine

/-- What an instruction leaves: the state, and whether its issue group goes on (R139). -/
structure Issued where
  s    : State
  more : Bool
  deriving DecidableEq, Repr

/-- The core and the context of a strand key. -/
def coreOf (key : Nat) : Nat := key / 2048
def ctxOf (key : Nat) : Nat := key % 2048
def coreFin (key : Nat) : Fin 128 := Fin.ofNat 128 (coreOf key)

/-- A strand faults (R153): FAULTED with FAULT_CAUSE and PC, the first fault recorded in SEQ_FAULT, STRAND_FAULT raised and logged
with the context, PC, cause and tide. DATA_POISON clears POISON_FREE (R320). -/
def State.strandFault (s : State) (key pc code : Nat) (items : List Nat) : State :=
  let st := s.strand key
  let s := s.setStrand key
    { st with status := .faulted, pc := BitVec.ofNat 15 pc, fault := BitVec.ofNat 8 code, wait := none }
  let r := Reg.seqFault (coreFin key)
  let s := if s.fld r 63 63 = 0 then
      s.setReg r (BitVec.ofNat 64 (2 ^ 63 + ctxOf key * 2 ^ 23 + code * 2 ^ 15 + pc % 2 ^ 15))
    else s
  let s := s.raise (causeEvent 3 (.seqCause (coreFin key)) 0 (srcCore (coreOf key)) ([ctxOf key, pc, code, s.now] ++ items))
  if code = 0x16 then (s.setFld .stepFlags 1 1 0).det 4 else s

/-- An instruction faults at issue: it does nothing, and the strand is FAULTED (R153). -/
def State.faultIssue (s : State) (key code : Nat) : Issued :=
  ⟨s.strandFault key (s.strand key).pc.toNat code [], false⟩

/-- As `faultIssue`, with a further logged item. -/
def State.faultIssueWith (s : State) (key code : Nat) (items : List Nat) : Issued :=
  ⟨s.strandFault key (s.strand key).pc.toNat code items, false⟩

/-- A wait with a schedule begins: an armed 0x0018 treats it as late when its tolerance ends (R432). -/
def State.armLate (s : State) (key sched : Nat) : State :=
  if 0 < sched ∧ s.armed 0x18 (coreOf key) then
    let due := s.boundary + s.period * (sched + s.dev.chart.waitTolerance)
    let s := s.disarm 0x18 (coreOf key)
    { s with run := { s.run with injLate := s.run.injLate ++ [(key, (s.strand key).pc.toNat, sched, due)] } }
  else s

/-- The strand waits at this instruction and tries it again at each following boundary (R140–R143). The issue boundary and the
lateness of a wait already begun with this schedule are kept; an instruction that a register or a full tag held has not begun its wait. `target`: the tide
that a WAITT waits for; of another wait with a schedule, `due` is SCHED strokes after its issue. -/
def State.waitUntil (s : State) (key sched : Nat) (target : Option Nat) : Issued :=
  let st := s.strand key
  let begin : Issued :=
    let late := decide (0 < sched) && s.armed 0x18 (coreOf key)
    let w : Wait :=
      { kind := .retry, since := s.boundary, sched := sched, late := late
        due := target.getD (if sched = 0 then 0 else s.boundary + s.period * sched) }
    ⟨(s.armLate key sched).setStrand key { st with status := .waiting, wait := some w }, false⟩
  match st.wait with
  | some w =>
    if w.sched = sched ∧ target.all (fun t => t == w.due) then ⟨s.setStrand key { st with status := .waiting, wait := some w }, false⟩ else begin
  | none => begin

/-- As `waitUntil`, for an instruction that waits for no tide. -/
def State.waitHere (s : State) (key sched : Nat) : Issued := s.waitUntil key sched none

/-- The instruction is held before it issues: it reads a pending register, or its tag's count is full (R140, R141). No schedule runs yet. -/
def State.holdHere (s : State) (key : Nat) : Issued := s.waitHere key 0

/-- As `waitHere`, for a wait that notes what it waits for. -/
def State.waitOn (s : State) (key sched : Nat) (kind : WaitKind) : Issued :=
  let w := s.waitHere key sched
  let st := w.s.strand key
  ⟨w.s.setStrand key { st with wait := st.wait.map fun x => { x with kind := kind } }, false⟩

/-- The instruction is done: PC moves past its words, and the strand is READY. -/
def Strand.past (st : Strand) (words : Nat) : Strand :=
  { st with status := .ready, pc := st.pc + BitVec.ofNat 15 words, wait := none }

/-- The strand goes on with its next instruction in the same group. -/
def State.goOn (s : State) (key : Nat) (st : Strand) : Issued := ⟨s.setStrand key st, true⟩

/-- The strand's group ends with this instruction. -/
def State.endGroup (s : State) (key : Nat) (st : Strand) : Issued := ⟨s.setStrand key st, false⟩

/-- Whether a register that the instruction reads is pending (R140). -/
def Strand.blocked (st : Strand) (reads : List Nat) : Bool := reads.any fun r => st.isPending r

/-- A no-op of classes T, U, D and F: counted as NOOP, tags unchanged (R155, R141). -/
def State.noopIssue (s : State) (key words : Nat) : Issued :=
  let s := s.count (.seqCount (coreFin key)) 15 0 1
  s.endGroup key ((s.strand key).past words)

/-- Whether the instruction's tag count is already 255 (R141). -/
def Strand.tagFull (st : Strand) (tag : Option Nat) : Bool :=
  match tag with
  | some t => decide (255 ≤ st.tag t)
  | none => false

/-- The strand as it stands once an operation has left it: tag counted, destinations pending, PC past the words (R140, R141). -/
def Strand.launch (st : Strand) (words : Nat) (tag : Option Nat) (regs : List Nat) : Strand :=
  let st := match tag with
    | some t => { st with tags := Tab.set 0 st.tags t (st.tag t + 1) }
    | none => st
  (regs.foldl Strand.addPending st).past words

/-- An operation about to leave a strand: its engine, the kind of write it makes, its destination registers, its start and
visibility boundaries and its effects; the ranges of memory that it reads, the feed rows that it reads with the step that reads each, and its rated duration in
picoseconds (0: up to its visibility boundary); and what trace source 2 records of a DMA transfer. -/
structure Launch where
  opcode  : Nat
  words   : Nat
  engine  : Engine
  kind    : OpKind
  tag     : Option Nat
  regs    : List Nat
  start   : Nat
  vis     : Nat
  later   : Option LateStart
  effects : List Effect
  remote  : RemoteWait
  reads   : List (Nat × Nat) := []
  feeds   : List (BankPlace × Nat) := []
  rated   : Nat := 0
  holds   : List HeldUnit := []
  eop     : Option EopRun := none
  moves   : List Nat := []
  deriving DecidableEq, Repr

/-- Whether an effect writes a pad or the gallery, main memory included (R170). -/
def Effect.writes : Effect → Bool
  | .mem _ _ => true
  | .memBits _ _ _ => true
  | .berthEntry _ _ _ => true
  | .sum _ _ _ _ => true
  | .padCount _ _ => true
  | .atomic _ _ _ _ _ _ => true
  | .stepTag _ => true
  | _ => false

/-- The kind of an operation: one whose effects write memory is a local write (R170). -/
def kindOf (k : OpKind) (effects : List Effect) : OpKind := if k = .plain ∧ effects.any Effect.writes then .localWrite else k

/-- The rated duration of an operation in picoseconds. -/
def Launch.ps (l : Launch) : Nat := if l.rated = 0 then 1000 * (l.vis - l.start) else l.rated

/-- What the operation that a strand launches now started from, where it has slots that read main memory. -/
def State.readFrom (s : State) (op : Nat) (st : Strand) (later : Option LateStart) : Option ReadFrom :=
  if s.main.uses.any fun u => u.op == some op && !u.write then
    some { strand := st, mem := s.mem, poison := s.poison, acc := s.acc, later := later }
  else none

/-- Puts an operation in flight (R34, R35), with its requests for bank slots (R199), and ends the group. An armed late-result injection marks it (0x0017 of
R432). An operation that its engine holds asks when it starts. -/
def State.launch (s : State) (key : Nat) (l : Launch) : Issued :=
  let st := s.strand key
  let core := coreOf key
  let late := s.armed 0x17 core
  let o : InFlight :=
    { id := s.nextOp, strand := key, core := core, pc := st.pc.toNat, engine := l.engine, kind := kindOf l.kind l.effects, tag := l.tag,
      regs := l.regs.filter fun r => decide (r ≠ 0), issue := s.boundary, start := l.start, vis := l.vis, late := late,
      later := l.later, effects := l.effects, remote := l.remote, holds := l.holds, eop := l.eop,
      from_ := s.readFrom s.nextOp st none, moves := l.moves }
  let s := if late then s.disarm 0x17 core else s
  let s := if l.later.isSome then s else s.book s.nextOp core (ctxOf key) l.engine l.start l.ps l.reads l.feeds l.effects
  let s := { s with ops := s.ops ++ [o], nextOp := s.nextOp + 1 }
  let s := (s.traceCore 0 0 core [ctxOf key, st.pc.toNat, l.opcode]).traceMove 0 core l.moves
  s.endGroup key (st.launch l.words l.tag l.regs)

/-- The boundary from which a unit is free. -/
def State.freeFrom (s : State) : HeldUnit → Nat
  | .easel n => Tab.get 0 s.easelFree n
  | .bank n => Tab.get 0 s.bankFree n
  | .pipe n => Tab.get 0 s.pipeFree n
  | .varnish c => Tab.get 0 s.varnishFree c
  | .vector c => Tab.get 0 s.vectorFree c

/-- Whether some units are free at the present boundary. -/
def State.unitsFree (s : State) (us : List HeldUnit) : Bool := us.all fun u => decide (s.freeFrom u ≤ s.boundary)

/-- Holds a unit to a boundary. -/
def State.holdUnit (vis : Nat) (s : State) : HeldUnit → State
  | .easel n => { s with easelFree := Tab.set 0 s.easelFree n vis }
  | .bank n => { s with bankFree := Tab.set 0 s.bankFree n vis }
  | .pipe n => { s with pipeFree := Tab.set 0 s.pipeFree n vis }
  | .varnish c => { s with varnishFree := Tab.set 0 s.varnishFree c vis }
  | .vector c => { s with vectorFree := Tab.set 0 s.vectorFree c vis }

/-- Holds some units to a boundary. -/
def State.holdUnits (s : State) (us : List HeldUnit) (vis : Nat) : State := us.foldl (State.holdUnit vis) s

/-- An operation as its start finds it: the state, its rated duration in picoseconds, its effects, the ranges of memory and the feed rows that it
reads, and what an EOP keeps. -/
structure Started where
  s       : State
  ps      : Nat
  effects : List Effect
  reads   : List (Nat × Nat)
  feeds   : List (BankPlace × Nat)
  eop     : Option EopRun := none
  deriving DecidableEq, Repr

/-- Issues an operation to an easel's waiting slot (R83): it starts now where its units are free and `ready` holds, and else waits there for the first boundary
at which they are; `x` is the operation as a start now finds it. -/
def State.slotIssue (s : State) (key opcode words : Nat) (engine : Engine) (kind : OpKind) (tag : Option Nat) (l : LateStart) (units : List HeldUnit)
    (ready : Bool) (x : Started) : Issued :=
  if ready && s.unitsFree units then
    let vis := x.s.visibleAt x.s.boundary x.ps
    (x.s.holdUnits units vis).launch key
      { opcode := opcode, words := words, engine := engine, kind := kind, tag := tag, regs := [], start := x.s.boundary, vis := vis, later := none,
        effects := x.effects, remote := .none, reads := x.reads, feeds := x.feeds, rated := x.ps, holds := units
        eop := x.eop }
  else
    let start := units.foldl (fun t u => max t (s.freeFrom u)) (s.boundary + s.period)
    s.launch key
      { opcode := opcode, words := words, engine := engine, kind := kind, tag := tag, regs := [], start := start, vis := s.visibleAt start x.ps,
        later := some l, effects := [], remote := .none, holds := units }

/-- Puts an operation in flight that only counts on a strand's tag: an admitted parked entry (R141, R155). -/
def State.tagOp (s : State) (key pc steps : Nat) (tag : Option Nat) : State :=
  let o : InFlight :=
    { id := s.nextOp, strand := key, core := coreOf key, pc := pc, engine := .lock, kind := .plain, tag := tag, regs := [],
      issue := s.boundary, start := s.boundary, vis := s.visibleAt s.boundary (steps * s.stepPs), late := false, later := none,
      effects := [], remote := .none }
  { s with ops := s.ops ++ [o], nextOp := s.nextOp + 1 }

/-- A rated duration of `steps` steps, in picoseconds (R31). -/
def State.stepsPs (s : State) (steps : Nat) : Nat := steps * s.stepPs

/-- An operation of one word that starts at its issue boundary and is rated in steps; `reads`: the ranges of memory that it reads. -/
def State.launchSimple (s : State) (key opcode words steps : Nat) (engine : Engine) (kind : OpKind) (tag : Option Nat)
    (regs : List Nat) (effects : List Effect) (reads : List (Nat × Nat) := []) : Issued :=
  s.launch key
    { opcode := opcode, words := words, engine := engine, kind := kind, tag := tag, regs := regs, start := s.boundary,
      vis := s.visibleAt s.boundary (s.stepsPs steps), later := none, effects := effects, remote := .none, reads := reads }

/-- Outstanding operations of a core at an engine (R142). -/
def State.outstanding (s : State) (core : Nat) (e : Engine) : Nat :=
  (s.ops.filter fun o => o.core == core && o.engine == e).length

/-- The effects of a core's plain access to its own pad that touched poison: the strand faults at the visibility boundary with
DATA_POISON (R217). -/
def poisonFault (poisoned : Bool) (key pc : Nat) : List Effect := if poisoned then [.fault key pc 0x16] else []

/-- Whether the sequencer may issue for a strand now: the plan runs, issue is not stopped, the strand is READY (R56, R138). -/
def State.mayIssue (s : State) (key : Nat) : Bool :=
  s.dev.state == .running && !s.stoppedAt s.boundary && (s.strand key).status == .ready

/-- The meaning of an instruction's row: the sequencer executes the instruction as the strand's next one. Where the strand cannot
issue, nothing happens. -/
def runRow (st : StrandRef) (f : Nat → State → Issued) (s : State) : Host.Outcome State Fault Refusal :=
  .next (if s.mayIssue st.key then (f st.key s).s else s)

end Sys2Proof.Machine
end

