-- ==== Sys2Proof/Machine/Num.lean ====
section
/-! DEFINITION. Exact values and the number formats (R60, R62, R66–R68, R72): decoding, rounding once to nearest even, and the arithmetic of
IEEE 754 on exact values. -/

namespace Sys2Proof.Machine

/-- A value as an engine holds it before rounding: `fin neg m e` is ±m × 2^e. A value that no dyadic number holds exactly (a quotient, a
root) is held with more than 64 significant bits and its last bit set, so that rounding it once gives the rounded exact value. -/
inductive Val where
  | nan
  | inf (neg : Bool)
  | fin (neg : Bool) (m : Nat) (e : Int)
  deriving DecidableEq, Repr

/-- A rounding of a floating-point format: exponent bits, mantissa bits, bias, the encoding of the largest finite value without its
sign, whether it has infinities, and its NaN (R60). -/
structure FloatFmt where
  eBits  : Nat
  mBits  : Nat
  bias   : Nat
  maxEnc : Nat
  hasInf : Bool
  hasNan : Bool
  nanEnc : Nat
  deriving DecidableEq, Repr

def fmtF32 : FloatFmt := ⟨8, 23, 127, 0x7F7FFFFF, true, true, 0x7FC00000⟩
def fmtBf16 : FloatFmt := ⟨8, 7, 127, 0x7F7F, true, true, 0x7FC0⟩
def fmtF16 : FloatFmt := ⟨5, 10, 15, 0x7BFF, true, true, 0x7E00⟩
def fmtE4m3 : FloatFmt := ⟨4, 3, 7, 0x7E, false, true, 0x7F⟩
def fmtE5m2 : FloatFmt := ⟨5, 2, 15, 0x7B, true, true, 0x7E⟩
def fmtE3m2 : FloatFmt := ⟨3, 2, 3, 0x1F, false, false, 0⟩
def fmtE2m3 : FloatFmt := ⟨2, 3, 1, 0x1F, false, false, 0⟩
def fmtE2m1 : FloatFmt := ⟨2, 1, 1, 0x7, false, false, 0⟩
def fmtF64 : FloatFmt := ⟨11, 52, 1023, 0x7FEFFFFFFFFFFFFF, true, true, 0x7FF8000000000000⟩

/-- The floating-point format of an element code; `none` for INT8 and for reserved codes (R60). -/
def floatFmt : Nat → Option FloatFmt
  | 0 => some fmtF32
  | 1 => some fmtBf16
  | 2 => some fmtF16
  | 3 => some fmtE4m3
  | 4 => some fmtE5m2
  | 5 => some fmtE3m2
  | 6 => some fmtE2m3
  | 7 => some fmtE2m1
  | _ => none

/-- The bits of an element (R61). -/
def elemBits : Nat → Nat
  | 0 => 32
  | 1 => 16
  | 2 => 16
  | 5 => 6
  | 6 => 6
  | 7 => 4
  | _ => 8

/-- Scale emax of an element code (R60). -/
def scaleEmax : Nat → Int
  | 3 => 8
  | 4 => 15
  | 5 => 4
  | 8 => 6
  | _ => 2

/-! ### Decoding -/

/-- The sign bit position of a format. -/
def FloatFmt.signBit (f : FloatFmt) : Nat := f.eBits + f.mBits

/-- The value of an encoding of a floating-point format (R60). -/
def FloatFmt.decode (f : FloatFmt) (v : Nat) : Val :=
  let neg := bitOf v f.signBit
  let e := bitsOf v (f.signBit - 1) f.mBits
  let m := bitsOf v (f.mBits - 1) 0
  let mag := v % 2 ^ f.signBit
  if f.hasInf ∧ e = 2 ^ f.eBits - 1 then (if m = 0 then .inf neg else .nan)
  else if f.hasNan ∧ f.maxEnc < mag then .nan
  else if e = 0 then .fin neg m (1 - (f.bias : Int) - (f.mBits : Int))
  else .fin neg (2 ^ f.mBits + m) ((e : Int) - (f.bias : Int) - (f.mBits : Int))

/-- The value of an element of a format code (R60). -/
def decodeElem (code v : Nat) : Val :=
  match floatFmt code with
  | some f => f.decode v
  | none =>
    let i := signedOf 8 (v % 256)
    .fin (decide (i < 0)) i.natAbs 0

/-- An FP32 value. -/
def Val.ofF32 (v : W32) : Val := fmtF32.decode v.toNat

/-- An FP64 value. -/
def Val.ofF64 (v : W64) : Val := fmtF64.decode v.toNat

/-- A nonnegative number. -/
def Val.ofNat (n : Nat) : Val := .fin false n 0

/-! ### Rounding -/

/-- m / 2^k to the nearest integer, ties to even (R66). -/
def rne (m k : Nat) : Nat :=
  let q := m / 2 ^ k
  let r := m % 2 ^ k
  if 2 * r < 2 ^ k then q else if 2 ^ k < 2 * r then q + 1 else if k = 0 then q else q + q % 2

/-- Rounds m × 2^e to `mant` mantissa bits with least exponent `emin`, the exponent range unbounded above: the rounded mantissa and its
exponent (R66). -/
def roundTo (mant : Nat) (emin : Int) (m : Nat) (e : Int) : Nat × Int :=
  let top := (m.log2 : Int) + e
  let q := if m = 0 then emin - mant else max (top - mant) (emin - mant)
  if q ≤ e then (m * 2 ^ (e - q).toNat, q) else (rne m (q - e).toNat, q)

/-- The encoding, without sign and with the exponent range unbounded, of a rounded mantissa at an exponent. -/
def FloatFmt.encMag (f : FloatFmt) (r : Nat × Int) : Nat :=
  if r.1 < 2 ^ f.mBits then r.1
  else
    let e := (r.2 + (f.mBits : Int) + (f.bias : Int)).toNat
    e * 2 ^ f.mBits + (r.1 - 2 ^ f.mBits)

/-- The sign of an encoding. -/
def FloatFmt.sign (f : FloatFmt) (neg : Bool) : Nat := if neg then 2 ^ f.signBit else 0

/-- What a conversion raises (R72). -/
inductive ConvFlag where
  | none | saturated | infSaturated | nanBlock
  deriving DecidableEq, Repr

/-- The conversion of a value into a floating-point format (R72). -/
def FloatFmt.convert (f : FloatFmt) : Val → Nat × ConvFlag
  | .nan => if f.hasNan then (f.nanEnc, .none) else (0, .nanBlock)
  | .inf neg => if f.hasInf then (f.sign neg + f.maxEnc / 2 ^ f.mBits * 2 ^ f.mBits + 2 ^ f.mBits, .none) else (f.sign neg + f.maxEnc, .infSaturated)
  | .fin neg m e =>
    let g := f.encMag (roundTo f.mBits (1 - (f.bias : Int)) m e)
    if g ≤ f.maxEnc then (f.sign neg + g, .none) else (f.sign neg + f.maxEnc, .saturated)

/-- The conversion of a value into INT8 (R72). -/
def convertInt8 : Val → Nat × ConvFlag
  | .nan => (0, .nanBlock)
  | .inf neg => (if neg then 0x80 else 0x7F, .infSaturated)
  | .fin neg m e =>
    let r := if 0 ≤ e then m * 2 ^ e.toNat else rne m (-e).toNat
    if neg then (if r ≤ 128 then ((256 - r) % 256, .none) else (0x80, .saturated))
    else if r ≤ 127 then (r, .none) else (0x7F, .saturated)

/-- The conversion of a value into an element format (R72). -/
def convertElem (code : Nat) (v : Val) : Nat × ConvFlag :=
  match floatFmt code with
  | some f => f.convert v
  | none => convertInt8 v

/-- IEEE rounding of an arithmetic result: as a conversion, but an overflow gives an infinity (the VEW case rows of R154's tables). -/
def FloatFmt.round (f : FloatFmt) (v : Val) : Nat :=
  match v with
  | .fin neg m e =>
    let g := f.encMag (roundTo f.mBits (1 - (f.bias : Int)) m e)
    if g ≤ f.maxEnc then f.sign neg + g else (f.convert (.inf neg)).1
  | _ => (f.convert v).1

/-- fp32(…): one rounding to FP32 (R66). -/
def f32 (v : Val) : W32 := BitVec.ofNat 32 (fmtF32.round v)

/-- One rounding to FP64. -/
def f64 (v : Val) : W64 := BitVec.ofNat 64 (fmtF64.round v)

/-! ### Arithmetic on exact values -/

def Val.neg : Val → Val
  | .nan => .nan
  | .inf n => .inf (!n)
  | .fin n m e => .fin (!n) m e

def Val.abs : Val → Val
  | .nan => .nan
  | .inf _ => .inf false
  | .fin _ m e => .fin false m e

def Val.isNan : Val → Bool
  | .nan => true
  | _ => false

/-- NaN or infinite. -/
def Val.nonfinite : Val → Bool
  | .fin _ _ _ => false
  | _ => true

/-- Whether a value is a zero. -/
def Val.isZero : Val → Bool
  | .fin _ m _ => m == 0
  | _ => false

/-- The signed mantissa of a finite value at exponent `k`, which is at most its own. -/
def sigAt (neg : Bool) (m : Nat) (e k : Int) : Int :=
  let x : Int := ((m * 2 ^ (e - k).toNat : Nat) : Int)
  if neg then -x else x

/-- The exact sum; an exact zero sum of unlike signs is +0. -/
def Val.add : Val → Val → Val
  | .nan, _ => .nan
  | _, .nan => .nan
  | .inf a, .inf b => if a = b then .inf a else .nan
  | .inf a, _ => .inf a
  | _, .inf b => .inf b
  | .fin na ma ea, .fin nb mb eb =>
    let k := min ea eb
    let x := sigAt na ma ea k + sigAt nb mb eb k
    if x = 0 then .fin (na && nb && decide (ma = 0 ∧ mb = 0)) 0 k else .fin (decide (x < 0)) x.natAbs k

def Val.sub (a b : Val) : Val := a.add b.neg

/-- The exact product. -/
def Val.mul : Val → Val → Val
  | .nan, _ => .nan
  | _, .nan => .nan
  | .inf a, .inf b => .inf (a != b)
  | .inf a, .fin b m _ => if m = 0 then .nan else .inf (a != b)
  | .fin a m _, .inf b => if m = 0 then .nan else .inf (a != b)
  | .fin na ma ea, .fin nb mb eb => .fin (na != nb) (ma * mb) (ea + eb)

/-- The quotient, held as `Val` says. -/
def Val.div : Val → Val → Val
  | .nan, _ => .nan
  | _, .nan => .nan
  | .inf _, .inf _ => .nan
  | .inf a, .fin b _ _ => .inf (a != b)
  | .fin a _ _, .inf b => .fin (a != b) 0 0
  | .fin na ma ea, .fin nb mb eb =>
    if mb = 0 then (if ma = 0 then .nan else .inf (na != nb))
    else
      let k := 140 + mb.log2
      let n := ma * 2 ^ k
      .fin (na != nb) (2 * (n / mb) + (if n % mb = 0 then 0 else 1)) (ea - eb - (k : Int) - 1)

/-- The integer square root, bit by bit from bit `n` down. -/
def isqrtFrom (x : Nat) : Nat → Nat → Nat
  | 0, r => r
  | n + 1, r =>
    let c := r + 2 ^ n
    isqrtFrom x n (if c * c ≤ x then c else r)

/-- The integer square root. -/
def isqrt (x : Nat) : Nat := isqrtFrom x (x.log2 / 2 + 1) 0

/-- The square root, held as `Val` says. -/
def Val.sqrt : Val → Val
  | .nan => .nan
  | .inf neg => if neg then .nan else .inf false
  | .fin neg m e =>
    if m = 0 then .fin neg 0 e
    else if neg then .nan
    else
      let m' := if e % 2 = 0 then m else 2 * m
      let e' := if e % 2 = 0 then e else e - 1
      let n := m' * 2 ^ 160
      let r := isqrt n
      .fin false (2 * r + (if r * r = n then 0 else 1)) (e' / 2 - 81)

/-- The reciprocal of the square root, held as `Val` says. -/
def Val.rsqrt : Val → Val
  | .nan => .nan
  | .inf neg => if neg then .nan else .fin false 0 0
  | .fin neg m e =>
    if m = 0 then .inf neg
    else if neg then .nan
    else
      let m' := if e % 2 = 0 then m else 2 * m
      let e' := if e % 2 = 0 then e else e - 1
      let k := 100 + m'.log2
      let r := isqrt (2 ^ (2 * k) / m')
      .fin false (2 * r + (if r * r * m' = 2 ^ (2 * k) then 0 else 1)) (-(e' / 2) - (k : Int) - 1)

/-- Whether a < b, both not NaN; zeros of either sign are equal. -/
def Val.lt : Val → Val → Bool
  | .nan, _ => false
  | _, .nan => false
  | .inf a, .inf b => a && !b
  | .inf a, _ => a
  | _, .inf b => !b
  | .fin na ma ea, .fin nb mb eb =>
    let k := min ea eb
    decide (sigAt na ma ea k < sigAt nb mb eb k)

/-- Whether a value is negative or −0. -/
def Val.isNeg : Val → Bool
  | .inf n => n
  | .fin n _ _ => n
  | .nan => false

/-- The larger; NaN if either is NaN; +0 ranks above −0 (R497). -/
def Val.maximum (a b : Val) : Val :=
  if a.isNan || b.isNan then .nan
  else if a.lt b then b else if b.lt a then a else if a.isNeg then b else a

/-- The smaller; NaN if either is NaN; −0 ranks below +0 (R497). -/
def Val.minimum (a b : Val) : Val :=
  if a.isNan || b.isNan then .nan
  else if a.lt b then a else if b.lt a then b else if a.isNeg then a else b

/-- floor(log2 |v|) of a finite nonzero value. -/
def Val.floorLog2 : Val → Int
  | .fin _ m e => (m.log2 : Int) + e
  | _ => 0

/-- Multiplication by a power of two. -/
def Val.scale2 (v : Val) (k : Int) : Val :=
  match v with
  | .fin n m e => .fin n m (e + k)
  | _ => v

/-! ### Block scales (R62) -/

/-- The value of a scale byte: E8M0 (code 1) or E4M3 (code 2); a scale with bit 7 set in E4M3 reads as NaN (R62, R68). -/
def scaleVal (fmt b : Nat) : Val :=
  if fmt = 1 then (if b = 0xFF then .nan else .fin false 1 ((b : Int) - 127))
  else if fmt = 2 then (if 0x7F ≤ b then .nan else fmtE4m3.decode b)
  else .fin false 1 0

/-- Whether a scale byte is an E4M3 scale with bit 7 set (R68, R70). -/
def scaleInvalid (fmt b : Nat) : Bool := fmt == 2 && decide (0x80 ≤ b)

end Sys2Proof.Machine
end

