-- ==== Sys2Proof/Machine/Slots.lean ====
section
/-! DEFINITION. Main-memory slots (R225–R229, R236): which slots a transfer's lines take, its rating, the writes that change a line at its slot, and slots that
meet an unfinished write; atomics on local memory (R270). -/

namespace Sys2Proof.Machine

/-! ### Atomics (R270) -/

/-- The new value of an atomic (R270). -/
def atomicNew (op : Nat) (old operand cmp : W64) : W64 :=
  match op with
  | 0 => old + operand
  | 1 =>
    let r := f32 ((Val.ofF32 (old.setWidth 32)).add (Val.ofF32 (operand.setWidth 32)))
    withField old 31 0 r.toNat
  | 2 => if old.slt operand then operand else old
  | 3 => if operand.slt old then operand else old
  | 4 => operand
  | 5 => if old = cmp then operand else old
  | 6 => old ||| operand
  | _ => old &&& operand

/-- Performs an atomic on the word at an address for a transfer of a core: the old value, and the state with the new one; its code word or line is read once
and written once (R233, R270). One on a sum window is stray: no leaf names it (R213). -/
def State.atomic (s : State) (source core addr op : Nat) (operand cmp : W64) : W64 × State :=
  let s := (s.sense addr 8).senseLines addr 8 1 core
  let old := BitVec.ofNat 64 (leNat (s.readBytes addr 8))
  match s.sumWindow addr with
  | some w => (old, s.strayIn source w.1 w.2.1 w.2.2.1)
  | none => (old, s.rewrite addr (leBytes 8 (atomicNew op old operand cmp).toNat))

/-! ### Frames and slots (R225–R227) -/

/-- Plan frames of a refresh cycle. -/
def planPer (extra : Bool) : Nat := if extra then 20 else 22

/-- Plan frames before frame `f`: refresh frames have numbers 22 and 23 modulo 24 (R226), and 10 and 11 under extra refresh (R240). -/
def planIndex (extra : Bool) (f : Nat) : Nat :=
  let r := f % 24
  f / 24 * planPer extra + min (planPer extra) (if extra then (if r ≤ 10 then r else if r ≤ 12 then 10 else r - 2) else r)

/-- The plan frame with an index. -/
def planFrame (extra : Bool) (k : Nat) : Nat :=
  let q := k % planPer extra
  k / planPer extra * 24 + (if extra && decide (10 ≤ q) then q + 2 else q)

/-- The slot table of a half: the core that each plan slot serves (R227). -/
def State.slotTable (s : State) (h : Half) : List (Option Nat) :=
  match s.plan with
  | none => []
  | some p => if h = .west then p.slotsW else p.slotsE

/-- The plan slots of a core in a half. -/
def State.slotNos (s : State) (core : Nat) (h : Half) : List Nat :=
  (List.range 92).filter fun k => (s.slotTable h).getD k none == some core

/-- A core's share of a half's slots (R227). -/
def State.share (s : State) (core : Nat) (h : Half) : Nat := (s.slotNos core h).length

/-- Now in thirds of a nanosecond, in which a slot lasts five (R225). -/
def State.nowThirds (s : State) : Nat := 3 * s.now + 3 * s.tide.frac / 65536

/-- The slot in progress: 96 × frame + slot number (R225). -/
def State.slotNow (s : State) : Nat := 96 * (s.nowThirds / 480) + s.nowThirds % 480 / 5

/-- The start of a slot in thirds of a nanosecond. -/
def slotStart (frame k : Nat) : Nat := 480 * frame + 5 * k

/-- Whether a line number lies in a half. -/
def lineIn (h : Half) (line : Nat) : Bool := if h = .west then decide (line < 0x80000000) else decide (0x80000000 ≤ line)

/-- The largest number of slot uses on one lane of a half: lines alternate between the groups and turn through eight lanes (R224, R228). -/
def laneMax (h : Half) (uses : List (Nat × Nat)) : Nat :=
  let here := uses.filter fun u => lineIn h u.1
  (List.range 16).foldl (fun m l => max m ((here.filter fun u => u.1 % 16 == l).foldl (fun n u => n + u.2) 0)) 0

/-- The slots that some uses of lines take on their lanes, in order, from a first frame on: line, whether it is written, start of the slot. -/
def assignSlots (extra : Bool) (nos : List Nat) (first : Nat) (uses : List (Nat × Bool)) : List (Nat × Bool × Nat) :=
  let one (acc : List (Nat × Bool × Nat) × Tab Nat) (u : Nat × Bool) : List (Nat × Bool × Nat) × Tab Nat :=
    let i := Tab.get 0 acc.2 (u.1 % 16)
    let f := planFrame extra (planIndex extra first + i / nos.length)
    (acc.1 ++ [(u.1, u.2, slotStart f (nos.getD (i % nos.length) 0))], Tab.put acc.2 (u.1 % 16) (i + 1))
  (uses.foldl one ([], [])).1

/-- How a transfer uses a half's queue: its duration in picoseconds, the first frame that it leaves free, its own first frame, the slot uses
of its fullest lane, and its slots. -/
structure QueueUse where
  ps    : Nat
  free  : Nat
  first : Nat
  uses  : Nat
  slots : List (Nat × Bool × Nat)
  deriving DecidableEq, Repr

/-- The rating of the main-memory side of a transfer in one half (R228); `none`: the core has no share there. Reads come first; a partial line is read and
then written. -/
def State.queueUse (s : State) (core start : Nat) (h : Half) (reads writes : List (Nat × Nat)) : Option QueueUse :=
  let key := 2 * core + h.index
  let free := Tab.get 0 s.main.queueFree key
  let n := laneMax h (reads ++ writes)
  let nos := s.slotNos core h
  if n = 0 then some { ps := 0, free := free, first := 0, uses := 0, slots := [] }
  else if nos.length = 0 then none
  else
    let extra := s.extraRefresh h
    let first := max (ceilDiv start 160) free
    let last := planFrame extra (planIndex extra first + ceilDiv n nos.length - 1)
    let writing := writes.any fun w => lineIn h w.1
    let far := h != s.coreHalf core
    let tail := (if writing then 16 else 80) * 1000 + (if far then s.stepsPs (if writing then 4 else 8) else 0)
    let uses := (reads.flatMap fun r => List.replicate r.2 (r.1, false)) ++
      writes.flatMap fun w => if w.2 = 1 then [(w.1, true)] else [(w.1, false), (w.1, true)]
    some { ps := ((last + 1) * 160 - start) * 1000 + tail, free := last + 1, first := first, uses := n,
           slots := assignSlots extra nos first (uses.filter fun u => lineIn h u.1) }

/-- The rating of transfer `op`, or of one that is no operation: the larger of its sides (steps outside main memory, the halves' queues; the source side `src` in
steps adds to the queues' ratings where its reads add up) plus `extra` steps (R196), and the frames and slots
that the queues have then used; `none`: a half in which the core has no share is needed (MEM_NO_SHARE). -/
def State.rateFor (s : State) (op : Option Nat) (core start steps extra : Nat) (reads writes : List (Nat × Nat)) (src : Option Nat := none) :
    Option (Nat × State) :=
  match s.queueUse core start .west reads writes, s.queueUse core start .east reads writes with
  | some w, some e =>
    let q := Tab.set 0 (Tab.set 0 s.main.queueFree (2 * core) w.free) (2 * core + 1) e.free
    let wait := match op with
      | some op => if w.uses + e.uses = 0 then s.main.waiting else s.main.waiting ++ [(op, max w.first e.first, w.uses + e.uses)]
      | none => s.main.waiting
    let sides := match src with
      | none => max w.ps e.ps
      | some n => s.stepsPs n + w.ps + e.ps
    let ps := max (s.stepsPs steps) sides + s.stepsPs extra
    let vis := s.visibleAt start ps
    let uses := (w.slots ++ e.slots).map fun u =>
      { op := op, core := core, line := u.1, write := u.2.1, slot := u.2.2, vis := vis, done := false : LineUse }
    some (ps, { s with main := { s.main with queueFree := q, waiting := wait, uses := s.main.uses ++ uses } })
  | _, _ => none

/-- The rating of an operation's transfer. -/
def State.rate (s : State) (op core start steps extra : Nat) (reads writes : List (Nat × Nat)) (src : Option Nat := none) : Option (Nat × State) :=
  s.rateFor (some op) core start steps extra reads writes src

/-- The slots of a received cell that writes `n` bytes of main memory, in PROXY_CORE's queue: the instant in picoseconds at which the last of them ends
(R228, R278), under a number of its own by which two of them may meet (R229). A core without a share has no slot: the cell then commits as one into a pad
does. -/
def State.cellSlots (s : State) (core a n arrival : Nat) : Option Nat × State :=
  let first := a / 256
  let one (l : Nat) : Nat × Nat := (l, if a ≤ 256 * l ∧ 256 * l + 256 ≤ a + n then 1 else 2)
  let lines := (List.range ((a + n + 255) / 256 - first)).map fun i => one (first + i)
  match s.rateFor none core (ceilDiv arrival 1000) 0 0 [] lines with
  | none => (none, s)
  | some r =>
    let mine := r.2.main.uses.drop s.main.uses.length
    let last := mine.foldl (fun m u => max m (u.slot + 5)) 0
    let vis := s.visibleAt (ceilDiv last 3) 0
    (some (ceilDiv (1000 * last) 3),
     { r.2 with main := { r.2.main with uses := s.main.uses ++ mine.map fun u => { u with op := some s.nextOp, vis := vis } }, nextOp := s.nextOp + 1 })

/-! ### Lines change at their slots (R229) -/

/-- The part of an effect that writes a line of main memory, and the rest of it. -/
def Effect.onLine (line : Nat) (e : Effect) : List Effect × List Effect :=
  match e with
  | .mem a bs =>
    let lo := max a (256 * line)
    let hi := min (a + bs.length) (256 * line + 256)
    if hi ≤ lo then ([], [e])
    else
      let piece (x y : Nat) : List Effect := if y ≤ x then [] else [.mem x ((bs.drop (x - a)).take (y - x))]
      (piece lo hi, piece a lo ++ piece hi (a + bs.length))
  | .memBits a _ _ => if a / 256 = line then ([e], []) else ([], [e])
  | .poison a n =>
    let lo := max a (256 * line)
    let hi := min (a + n) (256 * line + 256)
    if hi ≤ lo then ([], [e])
    else
      let piece (x y : Nat) : List Effect := if y ≤ x then [] else [.poison x (y - x)]
      (piece lo hi, piece a lo ++ piece hi (a + n))
  | .atomic _ _ a _ _ _ => if a / 256 = line then ([e], []) else ([], [e])
  | e => ([], [e])

/-- What an atomic gives its strand: the old value, and DATA_POISON where it was poisoned (R217). -/
def State.atomicEffects (s : State) (key pc r addr : Nat) (old : W64) : List Effect :=
  .reg key r old :: poisonFault (s.poisonedRange addr 8) key pc

/-- A store effect of an operation of a core: bytes, bits of a byte, a poison mark. -/
def State.storeEffect (s : State) (core : Nat) (e : Effect) : State :=
  match e with
  | .mem a bs => s.memWriteFrom 1 core a bs
  | .memBits a mask v => s.memWriteFrom 1 core a [(s.byte a &&& ~~~mask) ||| (v &&& mask)]
  | .poison a n => s.markPoison a n
  | _ => s

/-- The bytes of a line that some effects write, as a table of masks and values. -/
def lineWrites (effects : List Effect) : Tab (Byte × Byte) :=
  let put (t : Tab (Byte × Byte)) (a : Nat) (m v : Byte) : Tab (Byte × Byte) :=
    let x := Tab.get (0, 0) t a
    Tab.put t a (x.1 ||| m, (x.2 &&& ~~~m) ||| (v &&& m))
  let one (t : Tab (Byte × Byte)) (e : Effect) : Tab (Byte × Byte) := match e with
    | .mem a bs => ((List.range bs.length).zip bs).foldl (fun t x => put t (a + x.1) 0xFF x.2) t
    | .memBits a m v => put t a m v
    | _ => t
  effects.foldl one []

/-- The stores of one operation into a line take effect in the line's slot: one that is not written whole is read once, and the line is written once, with
what poison the data carries or the line keeps (R229, R233). -/
def State.landLine (s : State) (core line : Nat) (effects : List Effect) (source : Nat := 1) : State :=
  let ws := lineWrites effects
  let whole := decide (256 ≤ (ws.filter fun e => e.2.1 == 0xFF).length)
  let bad := effects.any fun e => match e with
    | .poison _ _ => true
    | _ => false
  if ws.isEmpty && !bad then s
  else
    let s := ((if whole then s else s.readLineAt line source core)).writeLine line
    let s := ws.foldl (fun s e => s.writeByte e.1 ((s.byte e.1 &&& ~~~e.2.1) ||| e.2.2)) s
    if bad then s.markPoison (256 * line) 256 else if whole then s.cleanUnits (256 * line) 256 else s

/-- Runs of bytes are stored: each line of main memory that they touch is read at most once and written once (R233). -/
def State.storeRuns (s : State) (source core : Nat) (runs : List (Nat × List Byte)) : State :=
  let main := runs.filter fun r => decide (r.1 < 0x10000000000)
  let lines := (main.flatMap fun r => (linesOf r.1 r.2.length).map fun l => l.1).eraseDups
  let s := (runs.filter fun r => decide (0x10000000000 ≤ r.1)).foldl (fun s r => s.memWriteFrom source core r.1 r.2) s
  lines.foldl (fun s l => s.landLine core l (main.flatMap fun r => ((Effect.mem r.1 r.2).onLine l).1) source) s

/-- An atomic takes effect in its slot; what it returns is left for its visibility boundary. -/
def State.landAtomic (o : InFlight) (acc : State × List Effect) (e : Effect) : State × List Effect :=
  match e with
  | .atomic key r a op x cmp =>
    let y := acc.1.atomic o.core o.core a op x cmp
    (y.2, acc.2 ++ y.2.atomicEffects key o.pc r a y.1)
  | _ => acc

/-- A write slot: what its operation writes into the line stands from now on. -/
def State.landUse (s : State) (u : LineUse) : State :=
  match u.op.bind fun i => List.find? (fun o => o.id == i) s.ops with
  | none => s
  | some o =>
    let parts := o.effects.map (Effect.onLine u.line)
    let here := parts.flatMap fun p => p.1
    let x := here.foldl (State.landAtomic o) (s.landLine u.core u.line here, [])
    let rest := (parts.flatMap fun p => p.2) ++ x.2
    { x.1 with ops := x.1.ops.map fun p => if p.id = o.id then { p with effects := rest } else p }

/-- The write slots of a line that come before another slot and whose transfers are not visible by then. -/
def State.unfinished (s : State) (op : Option Nat) (line slot : Nat) : List LineUse :=
  s.main.uses.filter fun w => w.write && w.line == line && w.op != op && decide (w.slot < slot) && decide (slot < 3 * w.vis)

/-- A slot has met an unfinished write: it is counted, and in STRICT logged with both transfers and raised (R229, R243). -/
def State.slotMeets (s : State) (h : Half) (line core other : Nat) (injected : Bool) : State :=
  let s := s.count (.memCount h) 15 0 1
  if s.strict then
    ((s.det 7).memEvent line 7 0x08 0xFF [] 0 core false injected).memEvent line 7 0x08 0xFF [] 0 other false injected
  else s

/-- An operation becomes visible later than its rating: its lines stay unfinished until then. -/
def State.moveUses (s : State) (op vis : Nat) : State :=
  { s with main := { s.main with uses := s.main.uses.map fun u => if u.op = some op then { u with vis := vis } else u } }

/-- The memory as the slots of a transfer about to be issued find it: writes of transfers in flight whose slots come first have landed (R229). -/
def State.overlaid (s : State) (core start : Nat) (reads writes : List (Nat × Nat)) : State :=
  if s.main.uses.all fun u => u.done || !u.write then s
  else
    let slots := [Half.west, .east].flatMap fun h => match s.queueUse core start h reads writes with
      | some q => q.slots
      | none => []
    let first (u : LineUse) : Bool := slots.any fun x => x.1 == u.line && !x.2.1 && decide (u.slot < x.2.2)
    let due := (s.main.uses.filter fun u => u.write && !u.done && first u).foldl (fun l u => insertBy (fun x y => decide (x.slot < y.slot)) u l) []
    due.foldl State.landUse s

end Sys2Proof.Machine
end

