-- ==== Sys2Proof/Machine/View.lean ====
section
/-! DEFINITION. Manifests as an instruction resolves them (R173–R179, R183, R186–R190): index spaces, tiles, sharding, padding and addresses. -/

namespace Sys2Proof.Machine

/-! ### Format descriptors (R63) -/

def elemFmtOf (f : BitVec 32) : Nat := bitsOf f.toNat 3 0
def scaleFmtOf (f : BitVec 32) : Nat := bitsOf f.toNat 5 4
def scaleOuter (f : BitVec 32) : Bool := bitOf f.toNat 9
def scaleProvided (f : BitVec 32) : Bool := bitOf f.toNat 10

/-- B, the block size (R63). -/
def blockSizeOf (f : BitVec 32) : Nat := 8 * 2 ^ bitsOf f.toNat 8 6

/-- Whether a format descriptor is invalid under R63 and R64. `source`: it names a source; `companion`: it stands in a scale companion. -/
def fmtInvalid (f : BitVec 32) (source companion : Bool) : Bool :=
  let e := elemFmtOf f
  let sc := scaleFmtOf f
  decide (bitsOf f.toNat 31 11 ≠ 0) || decide (8 < e) || sc == 3 || decide (4 < bitsOf f.toNat 8 6) ||
    (sc != 0 && decide (e ≤ 2)) || (sc == 0 && (decide (5 ≤ e ∧ e ≤ 7) || (e == 8 && !companion))) ||
    (sc == 0 && decide (bitsOf f.toNat 10 6 ≠ 0)) || (source && scaleProvided f)

/-- The sharing dimension of a scaled format. -/
def shareDim (f : BitVec 32) : Nat := if scaleOuter f then 1 else 0

/-! ### Lookup -/

/-- The manifest that a number names on a core: a tile-scope record of the core, or a PLAN record (R173, R477, R478). -/
def State.manifestOn (s : State) (core num : Nat) : Option Manifest :=
  if (num ≠ 0 ∧ num < 0x800000 ∧ (num - 1) / 4096 = core) ∨ (0x800000 ≤ num ∧ num < 0xFF0000) then Tab.find? s.manifests num
  else none

/-- A dimension of a manifest; dimensions beyond NDIM have extent 1 (R175). -/
def Manifest.dim (m : Manifest) (d : Nat) : Dim :=
  if d < m.ndim then m.dims.getD d { extent := 1, stride := 0, padLo := 0, padHi := 0, shardBlock := 0, shardKind := 0, shardAxis := 0 }
  else { extent := 1, stride := 0, padLo := 0, padHi := 0, shardBlock := 0, shardKind := 0, shardAxis := 0 }

/-- Whether a manifest holds no element (R182). -/
def Manifest.empty (m : Manifest) : Bool := (List.range 6).any fun d => (m.dim d).extent == 0

/-! ### Sharding (R186, R187) -/

/-- The extent of a grid axis. -/
def Grid.extent (g : Grid) (a : Nat) : Nat := if a < g.axes then g.extents.getD a 1 else 1

/-- The chip at a linear coordinate, axis 0 fastest, and that coordinate. -/
def Grid.at_ (g : Grid) (n : Nat) : Nat × List Nat :=
  let e0 := g.extent 0
  let e1 := g.extent 1
  let e2 := g.extent 2
  let c := [n % e0, n / e0 % e1, n / (e0 * e1) % e2, n / (e0 * e1 * e2)]
  let step (a : Nat) : Nat := c.getD a 0 * g.strides.getD a 0
  (g.chipBase + step 0 + step 1 + step 2 + step 3, c)

/-- The number of coordinates of a grid. -/
def Grid.size (g : Grid) : Nat := g.extent 0 * g.extent 1 * g.extent 2 * g.extent 3

/-- A chip's coordinate: the one that yields its number (R186). -/
def Grid.coord (g : Grid) (chip : Nat) : Option (List Nat) :=
  (List.range g.size).findSome? fun n => if (g.at_ n).1 = chip then some (g.at_ n).2 else none

/-- How one dimension is spread: kind, parts P, coordinate p, block b (R187). -/
structure Spread where
  kind  : Nat
  parts : Nat
  coord : Nat
  block : Nat
  deriving DecidableEq, Repr

/-- A dimension that is not spread. -/
def Spread.none : Spread := { kind := 0, parts := 1, coord := 0, block := 1 }

/-- The spread of dimension `d` of a manifest at a coordinate; an extent of 0 makes the block of a BLOCK dimension 0 (R187). -/
def spreadOf (m : Manifest) (g : Grid) (c : List Nat) (d : Nat) : Spread :=
  let x := m.dim d
  let p := g.extent x.shardAxis
  let b := match x.shardKind with
    | 1 => if d < 2 then ceilDiv x.extent (128 * p) * 128 else ceilDiv x.extent p
    | 3 => x.shardBlock
    | _ => 1
  { kind := x.shardKind, parts := p, coord := c.getD x.shardAxis 0, block := b }

/-- The owner coordinate of a global index; `none` for every coordinate. -/
def Spread.owner (s : Spread) (g : Nat) : Option Nat :=
  match s.kind with
  | 1 => some (g / s.block)
  | 2 => some (g % s.parts)
  | 3 => some (g / s.block % s.parts)
  | _ => Option.none

/-- Whether the chip holds a global index. -/
def Spread.holds (s : Spread) (g : Nat) : Bool := match s.owner g with
  | some p => p == s.coord
  | Option.none => true

/-- The local index of a global index that the chip holds. -/
def Spread.local_ (s : Spread) (g : Int) : Int :=
  match s.kind with
  | 1 => g - (s.coord : Int) * s.block
  | 2 => g / s.parts
  | 3 => g / ((s.block : Int) * s.parts) * s.block + g % s.block
  | _ => g

/-- The global index of a local index. -/
def Spread.global (s : Spread) (l : Nat) : Nat :=
  match s.kind with
  | 1 => l + s.coord * s.block
  | 2 => l * s.parts + s.coord
  | 3 => l / s.block * s.block * s.parts + s.coord * s.block + l % s.block
  | _ => l

/-- The largest local extent of a global extent. -/
def Spread.lmax (s : Spread) (n : Nat) : Nat :=
  match s.kind with
  | 1 => s.block
  | 2 => ceilDiv n s.parts
  | 3 => ceilDiv (ceilDiv n s.block) s.parts * s.block
  | _ => n

/-- The chip's actual local extent. -/
def Spread.actual (s : Spread) (n : Nat) : Nat :=
  match s.kind with
  | 1 => min s.block (n - s.coord * s.block)
  | 2 => (n + s.parts - 1 - s.coord) / s.parts
  | 3 => n / (s.block * s.parts) * s.block + min s.block (n % (s.block * s.parts) - s.coord * s.block)
  | _ => n

/-! ### Views -/

/-- A manifest as it resolves on a chip: the extents that tile indices and edges count, the extents of the stored index space, the
actual local extents, the spread of each dimension, and whether the local view of R190 applies. -/
structure View where
  num     : Nat
  chip    : Nat
  man     : Manifest
  ext     : List Nat
  stored  : List Nat
  actual  : List Nat
  spreads : List Spread
  holder  : Bool
  isLocal : Bool
  deriving DecidableEq, Repr

/-- A manifest's view on a chip. A chip that no coordinate of the grid yields holds no part of the tensor: its local extents are 0 (R186, R190). -/
def State.viewFor (s : State) (chip num : Nat) (m : Manifest) : View :=
  let dims := List.range 6
  let ext := dims.map fun d => (m.dim d).extent
  let plain : View :=
    { num := num, chip := chip, man := m, ext := ext, stored := ext, actual := ext, spreads := dims.map fun _ => Spread.none, holder := true,
      isLocal := false }
  if m.distributed then
    let g := Tab.get { axes := 1, chipBase := 0, extents := [1], strides := [1] } s.grids m.grid
    let c := g.coord chip
    let sp := dims.map fun d => spreadOf m g (c.getD [0, 0, 0, 0]) d
    let act := dims.map fun d => if c.isSome then (sp.getD d Spread.none).actual (ext.getD d 1) else 0
    let loc := s.dev.state == .recovery
    { plain with ext := if loc then act else ext, stored := dims.map fun d => (sp.getD d Spread.none).lmax (ext.getD d 1),
                 actual := act, spreads := sp, holder := c.isSome, isLocal := loc }
  else plain

/-- The view of a manifest number on a core of this chip. -/
def State.view (s : State) (core num : Nat) : Option View := (s.manifestOn core num).map fun m => s.viewFor s.fab.chip num m

/-- An extent of a view. -/
def View.extent (v : View) (d : Nat) : Nat := v.ext.getD d 1

/-- The origin of a tile, by its linear index (R179). -/
def tileOrigin (ext : List Nat) (t : Nat) : List Int :=
  let n (d : Nat) : Nat := max 1 (ext.getD d 1)
  let t0 := ceilDiv (n 0) 128
  let t1 := ceilDiv (n 1) 128
  let r2 := t / (t0 * t1)
  let r3 := r2 / n 2
  let r4 := r3 / n 3
  let c : List Nat := [t % t0 * 128, t / t0 % t1 * 128, r2 % n 2, r3 % n 3, r4 % n 4, r4 / n 4]
  c.map fun x => (x : Int)

/-- The linear index of the tile that holds a position. -/
def tileIndex (ext : List Nat) (p : List Int) : Nat :=
  let n (d : Nat) : Nat := max 1 (ext.getD d 1)
  let x (d : Nat) : Nat := (p.getD d 0).toNat
  let t0 := ceilDiv (n 0) 128
  let t1 := ceilDiv (n 1) 128
  ((((x 5 * n 4 + x 4) * n 3 + x 3) * n 2 + x 2) * t1 + x 1 / 128) * t0 + x 0 / 128

/-- The position (r, q) of a tile with origin `o`. -/
def posAt (o : List Int) (r q : Nat) : List Int :=
  match o with
  | a :: b :: rest => (a + q) :: (b + r) :: rest
  | _ => o

/-- Whether a position lies within the extents along every dimension (R184). -/
def View.inside (v : View) (p : List Int) : Bool :=
  (List.range 6).all fun d => decide (0 ≤ p.getD d 0) && decide (p.getD d 0 < (v.extent d : Int))

/-- An index clamped into a range; an empty range gives its lower end. -/
def clampTo (lo hi x : Int) : Int := if x < lo then lo else if hi < x then max lo hi else x

/-- PAD_LO and PAD_HI of a dimension as the view has them: none in the local view (R190). -/
def View.pads (v : View) (d : Nat) : Nat × Nat := if v.isLocal then (0, 0) else ((v.man.dim d).padLo, (v.man.dim d).padHi)

/-- Stage 1 of R183. -/
def View.clamp (v : View) (p : List Int) : List Int :=
  (List.range 6).map fun d => clampTo (-((v.pads d).1 : Int)) ((v.extent d : Int) - 1 + ((v.pads d).2 : Int)) (p.getD d 0)

/-- The clamp to the edge of stage 2. -/
def View.edge (v : View) (p : List Int) : List Int :=
  (List.range 6).map fun d => clampTo 0 ((v.extent d : Int) - 1) (p.getD d 0)

/-- The stored index of a position of the view. -/
def View.loc (v : View) (p : List Int) : List Int :=
  if v.man.distributed && !v.isLocal then (List.range 6).map fun d => (v.spreads.getD d Spread.none).local_ (p.getD d 0) else p

/-- Whether this chip holds a position that lies within the extents (R187, R189). -/
def View.holds (v : View) (p : List Int) : Bool :=
  !v.man.distributed ||
    (v.holder && (v.isLocal || (List.range 6).all fun d => (v.spreads.getD d Spread.none).holds (p.getD d 0).toNat))

/-- Element number (R177). -/
def View.elemNo (v : View) (l : List Int) : Int :=
  (List.range 6).foldl (fun e d => e + l.getD d 0 * (v.man.dim d).stride) 0

/-- The bits of an element of the view. -/
def View.bits (v : View) : Nat := elemBits (elemFmtOf v.man.format)

/-- The bit number, from local address 0, of an element (R61, R177). -/
def View.bitAt (v : View) (l : List Int) : Int :=
  8 * ((v.man.allocBase + v.man.offset : Nat) : Int) + v.elemNo l * (v.bits : Int)

/-- The block index of a position along the sharing dimension (R65). -/
def View.blockPos (v : View) (p : List Int) : List Int :=
  let d := shareDim v.man.format
  p.set d (p.getD d 0 / (blockSizeOf v.man.format : Int))

/-- Whether the scale block of a position lies wholly in padding or beyond the edge (R183). -/
def View.blockOutside (v : View) (p : List Int) : Bool :=
  let sd := shareDim v.man.format
  let b : Int := blockSizeOf v.man.format
  (List.range 6).any fun d =>
    let x := p.getD d 0
    let n : Int := v.extent d
    if d = sd then decide (x / b * b + b ≤ 0) || decide (n ≤ x / b * b) else decide (x < 0) || decide (n ≤ x)

/-- Which of dimensions 0 and 1 has stride ±1: the contiguous axis of an operand (R193); that of a stencilled DENSE image is dimension 0. -/
def View.contiguous (v : View) : Option Nat :=
  if v.man.stencilled then some 0
  else if (v.man.dim 0).stride.natAbs = 1 then some 0
  else if (v.man.dim 1).stride.natAbs = 1 then some 1
  else none

end Sys2Proof.Machine
end

