-- ==== Sys2Proof/Machine/Work.lean ====
section
/-! DEFINITION. The work of one engine operation on memory: what it reads, what it will write at its visibility boundary, and what it counts and
raises there (R35, R134, R183–R185, R217). -/

namespace Sys2Proof.Machine

/-- One block of a stencilled tile as the DMA reads it: nothing to read (absent or malformed), a DENSE image, or a compressed image with
the pair codes of its groups, group-major (R106). -/
inductive BlockSrc where
  | zero
  | dense (addr : Nat)
  | packed (addr : Nat) (pair : List (Nat × Nat)) (len : Nat) (inner : Bool)
  deriving DecidableEq, Repr

/-- The work of an operation. `s` is a scratch copy of the state in which the operation's own writes already stand, so that a later tile
reads what an earlier one wrote (R185). `peer`: it works on another chip's memory: the chip, the tide, and the address of a stencil entry that this chip forms
(R268). -/
structure Work where
  s         : State
  peer      : Option (Nat × Nat × Nat)
  core      : Nat
  writes    : Tab (Byte × Byte)
  wrPoison  : List Nat
  sums      : List (Nat × Nat × Nat × W32 × Bool)
  sumBad    : Bool
  opened    : List (Nat × Nat × List BlockSrc)
  readAt    : List Nat
  rBits     : Nat
  wBits     : Nat
  scales    : List Nat
  rFirst    : List Nat
  rLines    : List Nat
  wLines    : Tab Nat
  rCross    : Bool
  wCross    : Bool
  clamped   : Nat
  clipped   : Nat
  firstClip : Option (List Nat)
  sat       : Nat
  infSat    : Nat
  nanBlocks : Nat
  invalid   : List (Nat × Nat)
  events    : List Event
  overflows : Nat
  truncs    : Nat
  idxRange  : Nat
  poisReads : Nat
  fault     : Option Nat
  poisoned  : Bool
  valuePad  : Bool
  bad       : List Mapped
  deriving DecidableEq, Repr

/-- The work of an operation that has not begun. -/
def Work.start (s : State) (core : Nat) : Work :=
  { s := s, peer := none, core := core, writes := [], wrPoison := [], sums := [], sumBad := false, opened := [], readAt := [], rBits := 0, wBits := 0,
    scales := [], rFirst := [], rLines := [], wLines := [], rCross := false, wCross := false, clamped := 0, clipped := 0, firstClip := none, sat := 0,
    infSat := 0, nanBlocks := 0, invalid := [], events := [], overflows := 0, truncs := 0, idxRange := 0, poisReads := 0, fault := none,
    poisoned := false, valuePad := false, bad := [] }

/-- The first fault that the operation will take at its visibility boundary. -/
def Work.setFault (w : Work) (code : Nat) : Work := if w.fault.isSome then w else { w with fault := some code }

/-- An event for the visibility boundary. -/
def Work.event (w : Work) (e : Event) : Work := { w with events := w.events ++ [e] }

/-- Notes how an address completes, other than in mapped and enabled memory. -/
def Work.noteBad (w : Work) (m : Mapped) : Work := if m = .ok ∨ w.bad.contains m then w else { w with bad := w.bad ++ [m] }

/-- Whether an address lies in the other half of the die than the core, in the gallery or another pad. -/
def Work.crosses (w : Work) (a : Nat) : Bool :=
  match w.s.region a with
  | .gallery sl => sliceHalf sl != w.s.coreHalf w.core
  | .pad c => w.s.coreHalf c != w.s.coreHalf w.core
  | _ => false

/-! ### Bytes and bit strings -/

/-- Counts `n` bits that a read side moves from a local address, and whether they come from the other half of the die (R196, R202). -/
def Work.moved (w : Work) (a n : Nat) : Work := { w with rBits := w.rBits + n, rCross := w.rCross || w.crosses a }

/-- The byte that a read finds: at a peer what the work has written there, else what only the peer knows (log entry 77). -/
def Work.byteAt (w : Work) (a : Nat) : Byte :=
  match w.peer with
  | none => w.s.readByte a
  | some (chip, tide, entry) =>
    if entry ≤ a ∧ a < entry + 16 then w.s.byte a
    else
      let x := Tab.get (0, 0) w.writes a
      (Config.peerByte chip tide a &&& ~~~x.1) ||| x.2

/-- Reads one byte, noting its unit, its line and whether it is poisoned. -/
def Work.get (w : Work) (a : Nat) : Nat × Bool × Work :=
  let m := w.s.mapped a
  let u := unitOf a
  let pois := w.s.poison.contains u
  let w := { w.noteBad m with readAt := Marks.insert w.readAt u,
                              rLines := if a < 0x10000000000 then Marks.insert w.rLines (a / 256) else w.rLines }
  ((w.byteAt a).toNat, pois, w)

/-- Reads `n` bytes as a little-endian number. -/
def Work.getMany (w : Work) (a : Nat) : Nat → Nat × Bool × Work
  | 0 => (0, false, w)
  | n + 1 =>
    let x := w.get a
    let r := Work.getMany x.2.2 (a + 1) n
    (x.1 + 256 * r.1, x.2.1 || r.2.1, r.2.2)

/-- Reads `n` bits from bit number `b` of local space. -/
def Work.getBits (w : Work) (b : Int) (n : Nat) : Nat × Bool × Work :=
  let a := b.toNat / 8
  let off := b.toNat % 8
  let r := w.getMany a (ceilDiv (off + n) 8)
  (r.1 / 2 ^ off % 2 ^ n, r.2.1, r.2.2)

/-- Writes one byte under a mask. -/
def Work.put (w : Work) (a : Nat) (mask val : Nat) (pois : Bool) : Work :=
  let old := Tab.get (0, 0) w.writes a
  let m : Byte := BitVec.ofNat 8 mask
  let v : Byte := BitVec.ofNat 8 val &&& m
  let b := (w.s.byte a &&& ~~~m) ||| v
  let u := unitOf a
  let wl := if a < 0x10000000000 then Tab.put w.wLines (a / 256) (Tab.get 0 w.wLines (a / 256) + 1) else w.wLines
  { w.noteBad (w.s.mapped a) with
      s := w.s.writeByte a b, writes := Tab.put w.writes a (old.1 ||| m, (old.2 &&& ~~~m) ||| v),
      wrPoison := if pois then Marks.insert w.wrPoison u else w.wrPoison, wLines := wl, wCross := w.wCross || w.crosses a,
      sumBad := w.sumBad || (w.s.sumWindow a).isSome }

/-- Writes the bytes of a little-endian number. -/
def Work.putMany (w : Work) (a : Nat) (v mask : Nat) (pois : Bool) : Nat → Work
  | 0 => w
  | n + 1 =>
    let w := if mask % 256 = 0 then w else w.put a (mask % 256) (v % 256) pois
    Work.putMany w (a + 1) (v / 256) (mask / 256) pois n

/-- Writes `n` bits at bit number `b`. -/
def Work.putBits (w : Work) (b : Int) (n v : Nat) (pois : Bool) : Work :=
  let a := b.toNat / 8
  let off := b.toNat % 8
  w.putMany a (v % 2 ^ n * 2 ^ off) ((2 ^ n - 1) * 2 ^ off) pois (ceilDiv (off + n) 8)

/-- Writes whole bytes. -/
def Work.putBytes (w : Work) (a : Nat) : List Byte → Work
  | [] => w
  | b :: bs => Work.putBytes (w.put a 0xFF b.toNat false) (a + 1) bs

/-- Writes an element; one in a sum window joins the contribution to that window tile (R210), which only unscaled FP32 may. -/
def Work.putElem (w : Work) (v : View) (l : List Int) (enc : Nat) (pois : Bool) : Work :=
  let b := v.bitAt l
  let w := { w with wBits := w.wBits + v.bits }
  match w.s.sumWindow (b.toNat / 8) with
  | some (sl, _, _, _) =>
    let t := (b.toNat / 8 - sliceBase sl) / 0x10000
    if v.man.format = 0 ∧ !v.man.stencilled then
      { w with sums := w.sums ++ [(sl, t, (b.toNat / 8 - sliceBase sl) % 0x10000 / 4, BitVec.ofNat 32 enc, pois)],
               wCross := w.wCross || w.crosses (b.toNat / 8) }
    else { w with sumBad := true }
  | none => w.putBits b v.bits enc pois

/-! ### Effects -/

/-- Consecutive bytes gathered into runs. -/
def gatherRuns : List (Nat × Byte) → List (Nat × List Byte)
  | [] => []
  | (a, b) :: rest =>
    match gatherRuns rest with
    | (a', bs) :: more => if a + 1 = a' then (a, b :: bs) :: more else (a, [b]) :: (a', bs) :: more
    | [] => [(a, [b])]

/-- The contributions of an operation, one for each window tile in the order of first writing (R210). -/
def gatherSums (core : Nat) : List (Nat × Nat × Nat × W32 × Bool) → List Effect
  | [] => []
  | (sl, t, i, v) :: rest =>
    let add (e : Effect) : Bool := match e with
      | .sum _ sl' t' _ => sl' == sl && t' == t
      | _ => false
    let more := gatherSums core rest
    if more.any add then
      let ins (e : Effect) : Effect := match e with
        | .sum c sl' t' vs => if sl' = sl ∧ t' = t then .sum c sl' t' (if vs.any (fun x => x.1 == i) then vs else (i, v) :: vs) else e
        | e => e
      more.map ins
    else .sum core sl t [(i, v)] :: more

/-- The writes to memory: whole bytes in runs, partial bytes under their masks, then the poison marks (R217). -/
def Work.memEffects (w : Work) : List Effect :=
  let whole := w.writes.filter fun e => e.2.1 == 0xFF
  let part := w.writes.filter fun e => e.2.1 != 0xFF
  (gatherRuns (whole.map fun e => (e.1, e.2.2))).map (fun r => Effect.mem r.1 r.2) ++
    part.map (fun e => Effect.memBits e.1 e.2.1 e.2.2) ++ w.wrPoison.map (fun u => Effect.poison u 1)

/-- A counter effect, where it counts. -/
def countEffect (r : Reg) (hi lo n : Nat) : List Effect := if n = 0 then [] else [.count r.offset hi lo n]

/-- A palette event with the number of its occurrences, each of which is logged (R76). -/
def palEvent (core bit n : Nat) : List Effect :=
  if n = 0 then [] else [.event { causeEvent 0 (.palCause (Fin.ofNat 128 core)) bit (srcCore core) [] with times := n }]

/-- The palette's counts and causes (R75, R76). -/
def Work.palEffects (w : Work) : List Effect :=
  let c : Fin 128 := Fin.ofNat 128 w.core
  countEffect (.palCount c) 63 48 w.nanBlocks ++ countEffect (.palCount c) 47 32 w.infSat ++ countEffect (.palCount c) 31 0 w.sat ++
    palEvent w.core 0 w.sat ++ palEvent w.core 1 w.infSat ++ palEvent w.core 2 w.nanBlocks ++
    w.invalid.map (fun x => Effect.event (causeEvent 0 (.palCause c) 3 (srcCore w.core) [x.1, x.2]))

/-- The counts and log of clamped and suppressed positions (R183, R184, R197). -/
def Work.edgeEffects (w : Work) : List Effect :=
  let c : Fin 128 := Fin.ofNat 128 w.core
  let clip : List Effect := match w.firstClip with
    | none => []
    | some items =>
      if w.s.strict then [.event (causeEvent 4 (.dmaCause c) 0 (srcCore w.core) items)]
      else [.event (plainEvent (unitCode 4 0) (srcCore w.core) items)]
  countEffect (.dmaCount c) 63 32 w.clamped ++ countEffect (.dmaCount c) 31 0 w.clipped ++ clip

/-- The sparse counters (R134). -/
def Work.sparseEffects (w : Work) : List Effect :=
  let c : Fin 128 := Fin.ofNat 128 w.core
  countEffect (.sparseCount c) 63 48 w.overflows ++ countEffect (.sparseCount c) 47 32 w.truncs ++
    countEffect (.sparseCount c) 31 16 w.idxRange ++ countEffect (.sparseCount c) 15 0 w.poisReads ++
    (if w.truncs = 0 then [] else [.det 8])

/-- The event of an access outside mapped, enabled memory (R21, R220). -/
def badEffect (core : Nat) : Mapped → List Effect
  | .ok => []
  | .retired => []
  | .unmapped => [.event (plainEvent 0x0409 (srcCore core) [])]
  | .offline => [.event (causeEvent 4 (.dmaCause (Fin.ofNat 128 core)) 3 (srcCore core) [])]
  | .regionOff => [.event (plainEvent 0x040A (srcCore core) [])]

/-- The fault of an operation at its visibility boundary: its own first fault, else WRITE_CLIPPED in STRICT where it suppressed a
position (`clips`: its class faults so, R184), else DATA_POISON (R217). -/
def Work.faultOf (w : Work) (clips : Bool) : Option Nat :=
  match w.fault with
  | some f => some f
  | none => if clips && w.s.strict && decide (w.clipped ≠ 0) then some 0x11 else if w.poisoned then some 0x16 else none

/-- Every effect of an operation issued by strand `key` at `pc`. -/
def Work.effects (w : Work) (key pc : Nat) (clips : Bool) : List Effect :=
  w.memEffects ++ gatherSums w.core w.sums ++ w.palEffects ++ w.edgeEffects ++ w.sparseEffects ++ w.events.map Effect.event ++
    w.bad.flatMap (badEffect w.core) ++
    (match w.faultOf clips with
     | some f => [Effect.fault key pc f]
     | none => [])

end Sys2Proof.Machine
end

