-- ==== Sys2Proof/Machine/Tensor.lean ====
section
/-! DEFINITION. Reading and writing tensors through manifests: scales and block encoding (R65, R68–R72), stencil maps and block images
(R105–R115), the read of a position (R183), the write of a tile (R184), and the palette's part in it. -/

namespace Sys2Proof.Machine

/-! ### Block encoding (R69–R72) -/

/-- The largest finite magnitude of a list; `none` where no value is finite and nonzero (R69). -/
def amaxOf : List Val → Option Val
  | [] => none
  | v :: vs =>
    let r := amaxOf vs
    match v with
    | .fin _ m e =>
      if m = 0 then r
      else match r with
        | none => some (.fin false m e)
        | some a => if a.lt (.fin false m e) then some (.fin false m e) else some a
    | _ => r

/-- The largest finite value of a scaled element format (R60). -/
def maxElem : Nat → Val
  | 3 => .fin false 7 6
  | 4 => .fin false 7 13
  | 5 => .fin false 7 2
  | 6 => .fin false 15 (-1)
  | 7 => .fin false 3 1
  | _ => .fin false 127 0

/-- The computed scale byte of a block (R69). -/
def computedScale (fmt : BitVec 32) (vals : List Val) : Nat :=
  let code := elemFmtOf fmt
  match amaxOf vals with
  | none => if scaleFmtOf fmt = 1 then 127 else 0x38
  | some a =>
    if scaleFmtOf fmt = 1 then (clampTo 0 254 (a.floorLog2 - scaleEmax code + 127)).toNat
    else
      let r := match a.div (maxElem code) with
        | .fin _ m e => fmtE4m3.encMag (roundTo 3 (-6) m e)
        | _ => 0
      max 1 (min 0x7E r)

/-- An element encoded under a scale byte: the value divided exactly by the scale, converted (R69, R70, R72). -/
def encodeScaled (code scFmt byte : Nat) (v : Val) : Nat × ConvFlag :=
  let s := scaleVal scFmt byte
  let x : Val := if s.isZero then (match v with
      | .fin n _ _ => .fin n 0 0
      | v => v)
    else if scFmt = 1 then v.scale2 (127 - (byte : Int)) else v.div s
  convertElem code x

/-- What a block comes to: its element encodings, its scale byte, and what it counts (R71, R75). -/
structure Encoded where
  encs    : List Nat
  scale   : Nat
  sat     : Nat
  infSat  : Nat
  nan     : Nat
  invalid : Bool
  deriving DecidableEq, Repr

/-- Counts of a flag in a list of conversions. -/
def flagCount (f : ConvFlag) (l : List (Nat × ConvFlag)) : Nat := (l.filter fun x => x.2 == f).length

/-- Encodes the written elements of one block; `provided` is the scale byte that PROVIDED reads (R69–R71). -/
def encodeBlock (fmt : BitVec 32) (provided : Option Nat) (vals : List Val) : Encoded :=
  let code := elemFmtOf fmt
  let sc := scaleFmtOf fmt
  let hasNan := code = 3 ∨ code = 4
  let nanScale := if sc = 1 then 0xFF else 0x7F
  let blank (scale nan : Nat) (inv : Bool) : Encoded :=
    { encs := vals.map fun _ => if hasNan then (if code = 3 then 0x7F else 0x7E) else 0, scale := scale, sat := 0, infSat := 0, nan := nan,
      invalid := inv }
  if sc = 0 then
    let l := vals.map (convertElem code)
    { encs := l.map fun x => x.1, scale := 0, sat := flagCount .saturated l, infSat := flagCount .infSaturated l,
      nan := flagCount .nanBlock l, invalid := false }
  else
    let byte := provided.getD (computedScale fmt vals)
    if !hasNan ∧ vals.any Val.isNan then blank nanScale 1 false
    else if scaleInvalid sc byte then blank byte 0 true
    else if (scaleVal sc byte).isNan then blank nanScale 1 false
    else
      let l := vals.map (encodeScaled code sc byte)
      { encs := l.map fun x => x.1, scale := byte, sat := flagCount .saturated l, infSat := flagCount .infSaturated l, nan := 0,
        invalid := false }

/-! ### Scale bytes -/

/-- The local address of the scale byte of a position's block (R178), on the chip of the view (R268); `none` where the companion is not on the core. Where the
sharing dimension is distributed BLOCK, the companion's own extent spreads it over the chips: SHARD_BLOCK, the only field that R178 divides, is 0 there (DESIGN
CHOICE, log entry 69). -/
def Work.scaleAddr (w : Work) (v : View) (p : List Int) : Option Nat :=
  match w.s.manifestOn w.core v.man.scaleMan with
  | none => none
  | some m =>
    let c := { w.s.viewFor v.chip v.man.scaleMan m with isLocal := v.isLocal }
    let y := v.blockPos p
    some ((c.bitAt (c.loc y)).toNat / 8)

/-- The scale byte of a position as a read takes it; `none` is the scale 1.0 of a block that lies wholly outside (R183). Each scale byte is moved
once (R196). -/
def Work.scaleByte (w : Work) (v : View) (p : List Int) : Option Nat × Bool × Work :=
  if v.blockOutside p then (none, false, w)
  else match w.scaleAddr v p with
    | none => (none, false, w)
    | some a =>
      let r := w.get a
      (some r.1, r.2.1, if w.scales.contains a then r.2.2 else { r.2.2.moved a 8 with scales := a :: w.scales })

/-- The value of a scale byte, 1.0 for none. -/
def scaleOpt (fmt : Nat) : Option Nat → Val
  | none => .fin false 1 0
  | some b => scaleVal fmt b

/-! ### Stencil maps (R105–R110) -/

/-- The fields of a stencil map entry (R109). -/
def stencilPattern (e : Nat) : Nat := bitsOf e 89 88
def stencilInner (e : Nat) : Bool := bitOf e 90
def stencilKeep (e : Nat) : Bool := bitOf e 91
def stencilPresent (e q : Nat) : Bool := bitOf e (96 + q)
def stencilPoison (e q : Nat) : Bool := bitOf e (112 + q)
def stencilOffset (e : Nat) : Nat := bitsOf e 47 0

/-- Whether an entry has a reserved pattern or a set reserved bit (R115). -/
def stencilBad (e : Nat) : Bool := stencilPattern e == 3 || decide (bitsOf e 95 92 ≠ 0) || decide (bitsOf e 87 48 ≠ 0)

/-- The group length of a pattern, and its number of groups along a block (R104, R106). -/
def groupLen (pattern : Nat) : Nat := if pattern = 1 then 4 else 8
def groupCount (pattern : Nat) : Nat := 32 / groupLen pattern

/-- The size of a block image (R107). -/
def imageSize (code pattern : Nat) : Nat :=
  if pattern = 0 then 128 * elemBits code
  else ceilDiv (groupCount pattern * (8 * elemBits code + (if pattern = 2 then 20 else 12))) 32 * 32

/-- The pair code of kept positions a < b (R105). -/
def pairCode (pattern a b : Nat) : Nat := a * (2 * groupLen pattern - 1 - a) / 2 + (b - a - 1)

/-- The kept positions of a pair code; `none` for a reserved code. -/
def pairOf (pattern code : Nat) : Option (Nat × Nat) :=
  let n := groupLen pattern
  let cands := (List.range n).flatMap fun a => (List.range n).filterMap fun b => if a < b then some (a, b) else none
  List.find? (fun p => pairCode pattern p.1 p.2 == code) cands

/-- The number of present blocks below block `q`. -/
def presentBelow (e q : Nat) : Nat := ((List.range q).filter fun i => stencilPresent e i).length

/-- The stencil entry address of a tile of the stored index space (R179). -/
def View.stencilAddr (v : View) (tile : Nat) : Nat := v.man.stencilBase + 16 * tile

/-- The image address of block `q` (R110). -/
def View.imageAddr (v : View) (e q : Nat) : Nat :=
  v.man.allocBase + stencilOffset e + presentBelow e q * imageSize (elemFmtOf v.man.format) (stencilPattern e)

/-- The pair codes of a compressed image, group-major, as kept positions; `none` for a reserved code. -/
def Work.readPairs (w : Work) (v : View) (img pattern : Nat) : List (Option (Nat × Nat)) × Work :=
  let bits := if pattern = 2 then 5 else 3
  let pairsAt := img + groupCount pattern * 8 * elemBits (elemFmtOf v.man.format)
  let word := if pattern = 2 then 20 else 12
  let step (acc : List (Option (Nat × Nat)) × Work) (g : Nat) : List (Option (Nat × Nat)) × Work :=
    let r := acc.2.getMany (pairsAt + word * g) word
    (acc.1 ++ (List.range 32).map (fun i => pairOf pattern (r.1 / 2 ^ (bits * i) % 2 ^ bits)), r.2.2)
  (List.range (groupCount pattern)).foldl step ([], w)

/-- A sparse event of the core with manifest, tile and block (R115). -/
def Work.sparseEvent (w : Work) (bit : Nat) (items : List Nat) : Work :=
  w.event (causeEvent 2 (.sparseCause (Fin.ofNat 128 w.core)) bit (srcCore w.core) items)

/-- The fault that a malformed stencil case gives in STRICT (R115). -/
def Work.strictFault (w : Work) (code : Nat) : Work := if w.s.strict then w.setFault code else w

/-- Whether block `q` of a tile with stored origin (o1, o0) lies wholly beyond the tensor's extent (R115). -/
def View.blockBeyond (v : View) (o : List Int) (q : Nat) : Bool :=
  decide ((v.actual.getD 1 1 : Int) ≤ o.getD 1 0 + 32 * (q / 4 : Nat)) || decide ((v.actual.getD 0 1 : Int) ≤ o.getD 0 0 + 32 * (q % 4 : Nat))

/-- Reads the stencil entry of a stored tile and the codes of its present blocks, with the checks of R115. A tile with a reserved encoding reads as
zero whole, and its 16 blocks count in INDEX_RANGE (DESIGN CHOICE, log entry 67: R115 counts each case and the register counts blocks). Of a block that
meets two cases only the first in the order below is raised and counted: R115 does not say which (DESIGN CHOICE, log entry 67). -/
def Work.openTile (w : Work) (v : View) (tile : Nat) : List BlockSrc × Work :=
  match List.find? (fun x => x.1 == v.num && x.2.1 == tile) w.opened with
  | some x => (x.2.2, w)
  | none =>
    let r := w.getMany (v.stencilAddr tile) 16
    let e := r.1
    let w := r.2.2.moved (v.stencilAddr tile) 128
    let o := tileOrigin v.stored tile
    let size := imageSize (elemFmtOf v.man.format) (stencilPattern e)
    let zeroAll : List BlockSrc := List.replicate 16 BlockSrc.zero
    if stencilBad e then
      let w := (w.sparseEvent 7 [v.num, tile, 0]).strictFault 0x01
      (zeroAll, { w with opened := (v.num, tile, zeroAll) :: w.opened, idxRange := w.idxRange + 16 })
    else
      let block (acc : List BlockSrc × Work) (q : Nat) : List BlockSrc × Work :=
        let w := acc.2
        let img := v.imageAddr e q
        let range (w : Work) : List BlockSrc × Work :=
          (acc.1 ++ [.zero], { (w.sparseEvent 2 [v.num, tile, q]).strictFault 0x08 with idxRange := w.idxRange + 1 })
        if !stencilPresent e q then (acc.1 ++ [.zero], w)
        else if v.blockBeyond o q then range w
        else if v.man.allocBase + v.man.allocSize < img + size then range w
        else if stencilPoison e q then
          (acc.1 ++ [.zero], { (w.sparseEvent 3 [v.num, tile, q]).strictFault 0x09 with poisReads := w.poisReads + 1 })
        else if stencilPattern e = 0 then (acc.1 ++ [.dense img], w)
        else
          let p := w.readPairs v img (stencilPattern e)
          let w := p.2
          if p.1.any Option.isNone then range w
          else (acc.1 ++ [.packed img (p.1.filterMap id) (groupLen (stencilPattern e)) (stencilInner e)], w)
      let b := (List.range 16).foldl block ([], w)
      (b.1, { b.2 with opened := (v.num, tile, b.1) :: b.2.opened })

/-- The bit number of a kept element in a block image, or none for a pruned position; u and v as in R106. -/
def BlockSrc.elemBit (b : BlockSrc) (bits y x : Nat) : Option Int :=
  match b with
  | .zero => none
  | .dense img => some ((8 * img + bits * (32 * y + x) : Nat) : Int)
  | .packed img pair len inner =>
    let u := if inner then x else y
    let v := if inner then y else x
    let g := u / len
    let p := pair.getD (32 * g + v) (0, 0)
    let at_ (slot : Nat) : Option Int := some ((8 * img + bits * (32 * (2 * g + slot) + v) : Nat) : Int)
    if p.1 = u % len then at_ 0 else if p.2 = u % len then at_ 1 else none

/-! ### Reading a position (R183) -/

/-- A position as a read gives it: the encoding, its exact value, the scale byte of its block, whether it is poisoned, and whether it is
served without memory. -/
structure Elem where
  enc    : Nat
  val    : Val
  scale  : Option Nat
  pois   : Bool
  noMem  : Bool
  deriving DecidableEq, Repr

/-- The image of a block moves whole, once, when a position of it is read: absent blocks and those of omitted bands do not (R111, R196). -/
def Work.imageMoved (w : Work) (v : View) (b : BlockSrc) : Work :=
  let go (img pattern : Nat) : Work :=
    if w.scales.contains img then w
    else { w.moved img (8 * imageSize (elemFmtOf v.man.format) pattern) with scales := img :: w.scales }
  match b with
  | .zero => w
  | .dense img => go img 0
  | .packed img _ len _ => go img (if len = 4 then 1 else 2)

/-- Reads the stored encoding at a stored index: through the block image of a stencilled manifest, else at the element's bits; `none` at a pruned
position or in a block that reads as zero. -/
def Work.rawAt (w : Work) (v : View) (l : List Int) : Option Nat × Bool × Work :=
  if v.man.stencilled then
    let t := tileIndex v.stored l
    let r := w.openTile v t
    let y := (l.getD 1 0).toNat % 128
    let x := (l.getD 0 0).toNat % 128
    let src := r.1.getD (4 * (y / 32) + x / 32) .zero
    let w := r.2.imageMoved v src
    match src.elemBit v.bits (y % 32) (x % 32) with
    | some b =>
      let x := w.getBits b v.bits
      (some x.1, x.2)
    | none => (none, false, w)
  else
    let r := w.getBits (v.bitAt l) v.bits
    (some r.1, r.2.1, r.2.2.moved ((v.bitAt l).toNat / 8) v.bits)

/-- The number by which a SCALE_INVALID record names a block (R76): 16384 times its tile, 128 times its row of blocks in the tile, its place in that row
(DESIGN CHOICE, log entry 68: R76 numbers no blocks). -/
def View.blockNo (v : View) (p : List Int) : Nat :=
  let b := blockSizeOf v.man.format
  let r := (p.getD 1 0).toNat % 128
  let q := (p.getD 0 0).toNat % 128
  tileIndex v.ext p * 16384 + (if scaleOuter v.man.format then r / b * 128 + q else r * 128 + q / b)

/-- Decodes an encoding under a scale byte; an invalid E4M3 scale is noted with its manifest and block, once for each block of an operation (R68,
R76; log entry 68). -/
def Work.decode (w : Work) (v : View) (p : List Int) (enc : Nat) (scale : Option Nat) : Val × Work :=
  let sf := scaleFmtOf v.man.format
  let x := decodeElem (elemFmtOf v.man.format) enc
  if sf = 0 then (x, w)
  else
    let bad := scaleInvalid sf (scale.getD 0)
    let id := (v.num, v.blockNo p)
    let w := if bad ∧ !w.invalid.contains id then { w with invalid := w.invalid ++ [id] } else w
    (x.mul (scaleOpt sf scale), w)

/-- The read of a position that lies on this chip (R183). A pruned position and a position of an absent block read as +0 (R111), also where the scale of
their block is a NaN (DEDUCED, log entry 69: R68 speaks of the elements that a block holds). -/
def Work.read (w : Work) (v : View) (p0 : List Int) : Elem × Work :=
  let p := v.clamp p0
  let w := if p = p0 then w else { w with clamped := w.clamped + 1 }
  let scaled := scaleFmtOf v.man.format ≠ 0
  let mem (w : Work) (at_ : List Int) : Elem × Work :=
    let r := w.rawAt v (v.loc at_)
    match r.1 with
    | none => ({ enc := 0, val := .fin false 0 0, scale := none, pois := false, noMem := false }, r.2.2)
    | some enc =>
      let sc := if scaled then r.2.2.scaleByte v at_ else (none, false, r.2.2)
      let d := sc.2.2.decode v at_ enc sc.1
      let pois := r.2.1 || sc.2.1
      ({ enc := enc, val := d.1, scale := sc.1, pois := pois, noMem := false }, { d.2 with poisoned := d.2.poisoned || pois })
  if v.inside p then mem w p
  else match v.man.padFill with
    | 0 => ({ enc := 0, val := .fin false 0 0, scale := none, pois := false, noMem := true }, w)
    | 1 =>
      let sc := if scaled then w.scaleByte v p else (none, false, w)
      let code := elemFmtOf v.man.format
      let sf := scaleFmtOf v.man.format
      let x := Val.ofF32 v.man.padValue
      let c := match sc.1 with
        | some b => encodeScaled code sf b x
        | none => convertElem code x
      let val := if c.2 = .nanBlock ∨ (scaleOpt sf sc.1).isNan then Val.nan else (decodeElem code c.1).mul (scaleOpt sf sc.1)
      ({ enc := c.1, val := val, scale := sc.1, pois := false, noMem := true }, { sc.2.2 with valuePad := true })
    | 2 => mem w (v.edge p)
    | _ => mem w p

/-- The value at a position, for an instruction that only computes. -/
def Work.value (w : Work) (v : View) (p : List Int) : Val × Work := let r := w.read v p; (r.1.val, r.2)

/-! ### Writing a tile (R65, R112–R114, R184) -/

/-- A value to be written at a position of a tile: its row and column, its exact value, whether its source encoding is nonzero, whether it
came from poisoned data, and, for an unchanged copy, the encoding and the scale byte to store as they are (R192). -/
structure WElem where
  r    : Nat
  q    : Nat
  val  : Val
  nz   : Bool
  pois : Bool
  raw  : Option (Nat × Nat)
  deriving DecidableEq, Repr

/-- Whether the value of a computed result is non-zero for R112. -/
def Val.nz (v : Val) : Bool := !v.isZero

/-- The positions of a tile that lie within the edges; the others are counted, the first of the instruction noted (R184). -/
def Work.clip (w : Work) (v : View) (o : List Int) : List WElem → List WElem × Work
  | [] => ([], w)
  | e :: es =>
    if v.inside (posAt o e.r e.q) then
      let r := Work.clip w v o es
      (e :: r.1, r.2)
    else
      let p := posAt o e.r e.q
      let w := { w with clipped := w.clipped + 1,
                        firstClip := if w.firstClip.isSome then w.firstClip else some [v.num, (p.getD 0 0).toNat, (p.getD 1 0).toNat] }
      Work.clip w v o es

/-- Adds what an encoded block counts. -/
def Work.tally (w : Work) (v : View) (p : List Int) (e : Encoded) : Work :=
  { w with sat := w.sat + e.sat, infSat := w.infSat + e.infSat, nanBlocks := w.nanBlocks + e.nan,
           invalid := if e.invalid then w.invalid ++ [(v.num, v.blockNo p)] else w.invalid }

/-- Encodes the elements of one scale block, or of an unscaled tile, and hands each encoding to `put`; a scaled block's byte is read (PROVIDED), or written
where it is computed or becomes another (R69–R71, R178). -/
def Work.encodeInto (w : Work) (v : View) (o : List Int) (es : List WElem) (put : Work → WElem → Nat → Work) : Work :=
  match es with
  | [] => w
  | e0 :: _ =>
    let p0 := posAt o e0.r e0.q
    let fmt := v.man.format
    let scaled := scaleFmtOf fmt ≠ 0
    let prov := if scaled ∧ scaleProvided fmt ∧ e0.raw = none then
        let r := w.scaleByte v p0
        (r.1, { r.2.2 with rBits := w.rBits, rCross := w.rCross, scales := w.scales })
      else (none, w)
    let w := prov.2
    let enc := match e0.raw with
      | some r => { encs := es.map fun e => (e.raw.getD (0, 0)).1, scale := r.2, sat := 0, infSat := 0, nan := 0, invalid := false }
      | none => encodeBlock fmt (if scaled ∧ scaleProvided fmt then some (prov.1.getD 0) else none) (es.map fun e => e.val)
    let w := w.tally v p0 enc
    let w := (es.zip enc.encs).foldl (fun w x => put w x.1 x.2) w
    if scaled && prov.1 != some enc.scale then
      match w.scaleAddr v p0 with
      | some a => { w.put a 0xFF enc.scale (es.any fun e => e.pois) with wBits := w.wBits + 8 }
      | none => w
    else w

/-- The elements of a tile grouped by scale block, in increasing block order. -/
def groupBlocks (v : View) (o : List Int) (es : List WElem) : List (List WElem) :=
  if scaleFmtOf v.man.format = 0 then [es]
  else
    let b := blockSizeOf v.man.format
    let key (e : WElem) : Nat := if scaleOuter v.man.format then e.r / b * 128 + e.q else e.r * 128 + e.q / b
    let keys := es.foldl (fun ks e => Marks.insert ks (key e)) []
    let _ := o
    keys.map fun k => es.filter fun e => key e == k

/-- An element that a stencil prunes: a zero of its scale block (R65, R108). -/
def WElem.pruned (e : WElem) : WElem := { e with val := .fin false 0 0, nz := false, pois := false, raw := e.raw.map fun r => (0, r.2) }

/-- Encodes the elements of a stencilled tile, those that `keep` names into the images: every other one counts as a zero of its scale block, and every
scale block that the store reaches gets its scale, 1.0 where all its positions are pruned or absent (R65, R69, R108). -/
def Work.encodeKept (w : Work) (v : View) (o : List Int) (es : List WElem) (keep : WElem → Bool) (put : Work → WElem → Nat → Work) : Work :=
  if scaleFmtOf v.man.format = 0 then w.encodeInto v o (es.filter keep) put
  else
    let all := es.map fun x => if keep x then x else x.pruned
    (groupBlocks v o all).foldl (fun w b => w.encodeInto v o b fun w x enc => if keep x then put w x enc else w) w

/-- Writes elements of a dense tile. -/
def Work.writeDense (w : Work) (v : View) (o : List Int) (es : List WElem) : Work :=
  let put (w : Work) (e : WElem) (enc : Nat) : Work := w.putElem v (v.loc (posAt o e.r e.q)) enc e.pois
  (groupBlocks v o es).foldl (fun w b => w.encodeInto v o b put) w

/-- A magnitude order for trims: NaN above infinity above every finite value (R113). -/
def trimAbove (a b : Val) : Bool :=
  if a.isNan then !b.isNan else if b.isNan then false else b.abs.lt a.abs

/-- The lower-numbered two of a group of positions by magnitude, ties keeping the lower position (R113). -/
def keepTwo (l : List (Nat × Val)) : List Nat :=
  let best (l : List (Nat × Val)) : Option (Nat × Val) :=
    l.foldl (fun a x => match a with
      | none => some x
      | some y => if trimAbove x.2 y.2 then some x else some y) none
  match best l with
  | none => []
  | some a =>
    match best (l.filter fun x => x.1 != a.1) with
    | none => [a.1]
    | some b => [a.1, b.1]

/-- The non-zero elements of a block, by row and column in the block. -/
abbrev BlockVals := List (Nat × Nat × WElem)

/-- The value list of the group that holds (y, x) along rows (`inner = false`: along the second dimension) or columns. -/
def groupOf (len : Nat) (inner : Bool) (y x : Nat) (b : BlockVals) : List (Nat × Val) :=
  b.filterMap fun e =>
    if inner then (if e.1 = y ∧ e.2.1 / len = x / len then some (e.2.1, e.2.2.val) else none)
    else (if e.2.1 = x ∧ e.1 / len = y / len then some (e.1, e.2.2.val) else none)

/-- Trims the overfull groups of a block along one axis; the second part is the number of groups trimmed (R113). -/
def trimAxis (len : Nat) (inner : Bool) (b : BlockVals) : BlockVals × Nat :=
  let kept := b.filter fun e =>
    let g := groupOf len inner e.1 e.2.1 b
    g.length ≤ 2 || (keepTwo g).contains (if inner then e.2.1 else e.1)
  let overs := b.filter fun e => decide (2 < (groupOf len inner e.1 e.2.1 b).length)
  let ids := overs.foldl (fun k e => Marks.insert k (if inner then e.1 * 32 + e.2.1 / len else e.1 / len * 32 + e.2.1)) []
  (kept, ids.length)

/-- Whether some group of a block, along either dimension, holds more than two non-zeros (R104, R113). -/
def overfull (len : Nat) (b : BlockVals) : Bool :=
  b.any fun e => decide (2 < (groupOf len true e.1 e.2.1 b).length) || decide (2 < (groupOf len false e.1 e.2.1 b).length)

/-- The kept positions of a group with the given non-zero positions: filled with the lowest-numbered remaining ones (R105). -/
def fillPair (len : Nat) (nz : List Nat) : Nat × Nat :=
  let rest := (List.range len).filter fun i => !nz.contains i
  let two := (nz ++ rest).take 2
  let a := two.getD 0 0
  let b := two.getD 1 1
  (min a b, max a b)

/-- The pairs of a block after its counts, group-major: u along the group axis (R105, R106). -/
def blockPairs (pattern : Nat) (inner : Bool) (b : BlockVals) : List (Nat × Nat) :=
  let len := groupLen pattern
  (List.range (groupCount pattern)).flatMap fun g => (List.range 32).map fun v =>
    let nz := b.filterMap fun e =>
      let u := if inner then e.2.1 else e.1
      let o := if inner then e.1 else e.2.1
      if u / len = g ∧ o = v then some (u % len) else none
    fillPair len (sortBy (fun a b => decide (a ≤ b)) nz)

/-- The fate of a block of a COUNT store (R112, R113): absent, overfull in STRICT, or its kept elements and pairs. -/
inductive BlockFate where
  | absent
  | poisoned
  | image (elems : BlockVals) (pairs : List (Nat × Nat)) (trimmed : Nat)
  deriving DecidableEq, Repr

/-- Whether the pairs of an image keep a position of a block. -/
def pairKeeps (len : Nat) (inner : Bool) (pairs : List (Nat × Nat)) (y x : Nat) : Bool :=
  let u := if inner then x else y
  let v := if inner then y else x
  let p := pairs.getD (32 * (u / len) + v) (0, 1)
  p.1 == u % len || p.2 == u % len

/-- The elements of an image: at every kept position the source element as it is, a signed zero included; a non-zero that a trim removed holds +0 and is
left out (R105, R113). -/
def keptElems (len : Nat) (inner : Bool) (pairs : List (Nat × Nat)) (left all : BlockVals) : BlockVals :=
  all.filter fun e => pairKeeps len inner pairs e.1 e.2.1 && (!e.2.2.nz || left.any fun k => k.1 == e.1 && k.2.1 == e.2.1)

/-- Decides the fate of a block from its source elements. -/
def blockFate (strict : Bool) (pattern : Nat) (inner : Bool) (all : BlockVals) : BlockFate :=
  let nz := all.filter fun e => e.2.2.nz
  if nz.isEmpty then .absent
  else if pattern = 0 then .image all [] 0
  else
    let len := groupLen pattern
    if overfull len nz then
      if strict then .poisoned
      else
        let a := trimAxis len inner nz
        let b := trimAxis len (!inner) a.1
        let pairs := blockPairs pattern inner b.1
        .image (keptElems len inner pairs b.1 all) pairs (a.2 + b.2)
    else
      let pairs := blockPairs pattern inner nz
      .image (keptElems len inner pairs nz all) pairs 0

/-- Writes the pair codes of an image (R106). -/
def Work.putPairs (w : Work) (img code pattern : Nat) (pairs : List (Nat × Nat)) : Work :=
  let bits := if pattern = 2 then 5 else 3
  let word := if pattern = 2 then 20 else 12
  let pairsAt := img + groupCount pattern * 8 * elemBits code
  let one (w : Work) (g : Nat) : Work :=
    let x := (List.range 32).foldl (fun x i =>
      let p := pairs.getD (32 * g + i) (0, 1)
      x + pairCode pattern p.1 p.2 * 2 ^ (bits * i)) 0
    w.putMany (pairsAt + word * g) x (2 ^ (8 * word) - 1) false word
  let w := (List.range (groupCount pattern)).foldl one w
  let used := groupCount pattern * (8 * elemBits code + word)
  w.putMany (img + used) 0 (2 ^ (8 * (imageSize code pattern - used)) - 1) false (imageSize code pattern - used)

/-- A COUNT store into a stencilled tile: PRESENT, POISON and the pair codes are rebuilt from the data (R112–R114). The elements of a block that STRICT
poisons count as zeros of their scale blocks, whose scales are written (DESIGN CHOICE, log entry 70: R113 names no scale). -/
def Work.writeCount (w : Work) (v : View) (o : List Int) (tile e : Nat) (es : List WElem) : Work :=
  let code := elemFmtOf v.man.format
  let pattern := stencilPattern e
  let inner := stencilInner e
  let vals (q : Nat) : BlockVals :=
    es.filterMap fun x => if x.r / 32 = q / 4 ∧ x.q / 32 = q % 4 then some (x.r % 32, x.q % 32, x) else none
  let fates := (List.range 16).map fun q => blockFate w.s.strict pattern inner (vals q)
  let present := (List.range 16).foldl (fun a q => if fates.getD q .absent = .absent then a else a + 2 ^ (96 + q)) 0
  let poison := (List.range 16).foldl (fun a q => if fates.getD q .absent = .poisoned then a + 2 ^ (112 + q) else a) 0
  let e' := e % 2 ^ 96 + present + poison
  let keep (x : WElem) : Bool :=
    match fates.getD (4 * (x.r / 32) + x.q / 32) .absent with
    | .image b _ _ => b.any fun k => k.1 == x.r % 32 && k.2.1 == x.q % 32
    | _ => false
  let image (w : Work) (q : Nat) : Work :=
    match fates.getD q .absent with
    | .absent => w
    | .poisoned =>
      let w := { w.sparseEvent 0 [v.num, tile, q] with overflows := w.overflows + 1 }
      w
    | .image _ pairs trimmed =>
      let img := v.imageAddr e' q
      let size := imageSize code pattern
      let w := w.putMany img 0 (2 ^ (8 * size) - 1) false size
      let w := { w with wBits := w.wBits + 8 * size }
      let w := if pattern = 0 then w else w.putPairs img code pattern pairs
      if trimmed = 0 then w else { w.sparseEvent 1 [v.num, tile, q] with truncs := w.truncs + trimmed }
  let w := (List.range 16).foldl image w
  let put (w : Work) (x : WElem) (enc : Nat) : Work :=
    let q := 4 * (x.r / 32) + x.q / 32
    let img := v.imageAddr e' q
    let src : BlockSrc := match fates.getD q .absent with
      | .image _ pairs _ => if pattern = 0 then .dense img else .packed img pairs (groupLen pattern) inner
      | _ => .zero
    match src.elemBit v.bits (x.r % 32) (x.q % 32) with
    | some b => w.putBits b v.bits enc x.pois
    | none => w
  let w := w.encodeKept v o es keep put
  { w.putMany (v.stencilAddr tile) e' (2 ^ 128 - 1) false 16 with wBits := w.wBits + 128 }

/-- A FOLLOW store into a stencilled tile: values only, at the kept positions of present blocks (R112, R114). -/
def Work.writeFollow (w : Work) (v : View) (o : List Int) (tile e : Nat) (es : List WElem) : Work :=
  let pattern := stencilPattern e
  let src (acc : List BlockSrc × Work) (q : Nat) : List BlockSrc × Work :=
    let img := v.imageAddr e q
    if !stencilPresent e q then (acc.1 ++ [.zero], acc.2)
    else if pattern = 0 then (acc.1 ++ [.dense img], acc.2)
    else
      let p := acc.2.readPairs v img pattern
      (acc.1 ++ [.packed img (p.1.map fun x => x.getD (99, 99)) (groupLen pattern) (stencilInner e)], p.2)
  let b := (List.range 16).foldl src ([], w)
  let at_ (x : WElem) : Option Int := (b.1.getD (4 * (x.r / 32) + x.q / 32) .zero).elemBit v.bits (x.r % 32) (x.q % 32)
  let keep (x : WElem) : Bool := (at_ x).isSome
  let put (w : Work) (x : WElem) (enc : Nat) : Work := match at_ x with
    | some bit => { w.putBits bit v.bits enc x.pois with wBits := w.wBits + v.bits }
    | none => w
  let w := b.2.encodeKept v o es keep put
  let touched := (List.range 16).foldl (fun a q =>
    if es.any fun x => keep x && 4 * (x.r / 32) + x.q / 32 == q then a + 2 ^ (112 + q) else a) 0
  let e' := e - (e &&& touched)
  if e' = e then w else w.putMany (v.stencilAddr tile) e' (2 ^ 128 - 1) false 16

/-- Writes values into a tile of a manifest through the palette: edges, scales, stencil (R65, R112–R114, R184). -/
def Work.writeTile (w : Work) (v : View) (tile : Nat) (es : List WElem) : Work :=
  let o := tileOrigin v.ext tile
  let c := w.clip v o es
  let w := c.2
  if v.man.stencilled then
    match c.1 with
    | [] => w
    | e0 :: _ =>
      let t := tileIndex v.stored (v.loc (posAt o e0.r e0.q))
      let r := w.getMany (v.stencilAddr t) 16
      let w := r.2.2
      if stencilPattern r.1 = 3 then (w.sparseEvent 7 [v.num, t, 0]).strictFault 0x01
      else if stencilKeep r.1 then w.writeFollow v o t r.1 c.1
      else w.writeCount v o t r.1 c.1
  else if c.1.isEmpty then w
  else w.writeDense v o c.1

end Sys2Proof.Machine
end

