-- ==== Sys2Proof/Machine/Rating.lean ====
section
/-! DEFINITION. Rated durations of transfers (R31, R32, R196, R202, R228) and the checks and steps that every operation on manifests shares
(R145, R146, R176, R182, R189). -/

namespace Sys2Proof.Machine

/-! ### Sides -/

/-- Where a side of a transfer lies. -/
inductive SideKind where
  | ownPad | remotePad | gallery | main
  deriving DecidableEq, Repr

/-- The kind of side of an allocation, seen from a core (R196, R203). -/
def State.sideKind (s : State) (core a : Nat) : SideKind :=
  match s.region a with
  | .main _ => .main
  | .gallery _ => .gallery
  | .pad c => if c = core then .ownPad else .remotePad
  | _ => .gallery

/-- Whether an address lies in the other half of the die than a core (R202). -/
def State.acrossSeam (s : State) (core a : Nat) : Bool :=
  match s.region a with
  | .main h => h != s.coreHalf core
  | .gallery sl => sliceHalf sl != s.coreHalf core
  | .pad c => s.coreHalf c != s.coreHalf core
  | _ => false

/-- The rating of a read side outside main memory, in steps: `b` bytes of an allocation; `cross`: some of them lie in the other half of the die (R31,
R202). -/
def State.readSteps (s : State) (core base b : Nat) (cross : Bool) : Nat :=
  let seam := if cross then 8 else 0
  match s.sideKind core base with
  | .ownPad => 4 + ceilDiv b 2048
  | .gallery => 24 + ceilDiv b 320 + seam
  | .remotePad => 40 + ceilDiv b 80 + seam
  | .main => 0

/-- The rating of a write side outside main memory, in steps; `sum`: it writes into a sum window (R31, R202, R210). -/
def State.writeSteps (s : State) (core base b : Nat) (sum cross : Bool) : Nat :=
  let seam := if cross then 4 else 0
  match s.sideKind core base with
  | .ownPad => 4 + ceilDiv b 2048
  | .gallery => (if sum then 28 else 20) + ceilDiv b 320 + seam
  | .remotePad => 40 + ceilDiv b 80 + seam
  | .main => 0

/-- The rating of the read side of a work on an allocation, and of its write side (R196). -/
def State.readSide (s : State) (core base : Nat) (w : Work) : Nat := s.readSteps core base (ceilDiv w.rBits 8) w.rCross
def State.writeSide (s : State) (core base : Nat) (w : Work) : Nat := s.writeSteps core base (ceilDiv w.wBits 8) (!w.sums.isEmpty) w.wCross

/-- An instruction that writes into a sum window takes the sum-window rating for all the bytes that it writes into the gallery (R210), where that is
longer than its own rating in steps. -/
def Work.withSums (w : Work) (s : State) (steps : Nat) : Nat :=
  match w.sums with
  | [] => steps
  | (sl, _) :: _ => max steps (s.writeSide w.core (sliceBase sl) w)

/-! ### Main memory -/

/-- The lines that a work reads, those of its first side ahead (R228): one slot use each. -/
def Work.readUses (w : Work) : List (Nat × Nat) := (w.rFirst ++ w.rLines).map fun l => (l, 1)

/-- The ranges of memory that a work reads. -/
def Work.readSpans (w : Work) : List (Nat × Nat) := w.readAt.map fun u => (u, unitLen u)

/-- The slot uses of the lines that a work writes: two for a partial line (R228, R233). -/
def Work.writeUses (w : Work) : List (Nat × Nat) :=
  w.wLines.map fun e =>
    let whole := (w.writes.filter fun x => decide (x.1 / 256 = e.1) && x.2.1 == 0xFF).length
    (e.1, if 256 ≤ whole then 1 else 2)

/-! ### Manifest operands -/

/-- Whether an operand is read, written, or both (R176). -/
inductive Usage where
  | reads | writes | both
  deriving DecidableEq, Repr

/-- Whether a USE forbids a usage (R174, R176). -/
def Usage.forbidden (u : Usage) (use : Nat) : Bool :=
  match u with
  | .reads => use == 1
  | .writes => use == 0
  | .both => use != 2

/-- A manifest number resolved for an instruction (R145, R176): the view, or the fault code. -/
def State.operandNo (s : State) (core num : Nat) (u : Usage) : Except Nat View :=
  match s.view core num with
  | none => .error 0x04
  | some v => if u.forbidden v.man.use then .error 0x14 else .ok v

/-- A manifest operand in a register; bits [63:24] must be zero (R145, R146). -/
def State.operand (s : State) (core : Nat) (r : W64) (u : Usage) : Except Nat View :=
  if 2 ^ 24 ≤ r.toNat then .error 0x01 else s.operandNo core r.toNat u

/-- A fault at issue with the cause bits that its code has: MANIFEST_USE and SHARD_REMOTE (R197), EASEL_FORMAT_PAIR and EASEL_RANGE for the
easels of a mask (R102; which of them where the records of one alone run beyond the half is not stated: all of the mask, DESIGN CHOICE, log entry 68),
SPARSE_BAND_COUNT (R134), COMMIT_NOT_OPEN and UPDATE_OPERAND (R349). -/
def State.faultOp (s : State) (key code mask : Nat) (items : List Nat) : Issued :=
  let core := coreOf key
  let c := coreFin key
  let easels (s : State) (bit : Nat) : State :=
    (List.range 4).foldl (fun s e => if bitOf mask e then
      s.raise (easelEvent (.easelCause c) bit e (srcEasel (4 * core + e)) [ctxOf key, (s.strand key).pc.toNat]) else s) s
  let s := match code with
    | 0x13 => s.raise (causeEvent 4 (.dmaCause c) 1 (srcCore core) items)
    | 0x14 => s.raise (causeEvent 4 (.dmaCause c) 2 (srcCore core) items)
    | 0x05 => easels s 0
    | 0x06 => easels s 4
    | 0x07 => s.raise (causeEvent 2 (.sparseCause c) 4 (srcCore core) items)
    | 0x1A => s.raise (causeEvent 11 .commitCause 3 (srcCore core) [ctxOf key, (s.strand key).pc.toNat])
    | 0x1C => s.raise (causeEvent 11 .commitCause 5 (srcCore core) [ctxOf key, (s.strand key).pc.toNat])
    | _ => s
  s.faultIssueWith key code items

/-- Whether the chip holds every position of a tile that lies within the extents, and, for a read, every position after the clamp (R189). -/
def View.tileHeld (v : View) (tile : Nat) (read : Bool) : Bool :=
  if !v.man.distributed then true
  else if v.isLocal then v.holder
  else
    let o := tileOrigin v.ext tile
    let held (r q : Nat) : Bool :=
      let p := posAt o r q
      if v.inside p then v.holds p else !read || v.holds (v.edge (v.clamp p))
    (List.range 128).all fun i => held i 0 && held 0 i

/-- Whether every one of `n` tiles from `first` is held. -/
def View.tilesHeld (v : View) (first n : Nat) (read : Bool) : Bool := (List.range n).all fun i => v.tileHeld (first + i) read

/-! ### Injected collisions and path parity (R229, R430, R432) -/

/-- An armed 0x000C makes a transfer's slot meet an unfinished write, the other transfer being the core's own (R432). -/
def State.memCollide (s : State) (core : Nat) (h : Half) (lines : List Nat) : State :=
  match lines.filter (lineIn h) with
  | [] => s
  | l :: _ => if s.armed 0x0C h.index then (s.disarm 0x0C h.index).slotMeets h l core core true else s

/-- A path-parity error on a core's DMA transfer, injected by 0x0001 of R432: PATH_PARITY is raised, and the first unit that the transfer carries is poisoned,
in memory, in a feed buffer or in a contribution to a sum window. The transfer has consumed it and faults (R217, R430). -/
def State.parityEffects (s : State) (core : Nat) (dma : Bool) (w : Work) (more : List Effect) : List Effect :=
  if dma && s.armed 1 core then
    [.event { plainAlarm 0x040B (srcCore core) [] with injected := true }] ++
      (match w.writes, more.filterMap Effect.markSpan with
       | e :: _, _ => [.poison (unitOf e.1) 1]
       | [], sp :: _ => [.poison sp.1 1]
       | [], [] => [])
  else []

/-- A work whose transfer carries a unit with a parity error: the first contribution of one that writes no memory is poisoned. -/
def Work.parityBad (w : Work) : Work :=
  { w with poisoned := true,
           sums := match w.writes, w.sums with
             | [], (sl, t, i, v, _) :: rest => (sl, t, i, v, true) :: rest
             | _, l => l }

/-! ### Putting a transfer in flight -/

/-- A work with the effects of an injected parity error, where there are some. -/
def Work.struck (w : Work) (parity : List Effect) : Work := if parity.isEmpty then w else w.parityBad

/-- The parts of a transfer that its launch needs. `src`: the steps of a source side whose parts add up (a DFEED's, R196). -/
structure Transfer where
  opcode : Nat
  words  : Nat
  engine : Engine
  tag    : Option Nat
  steps  : Nat
  extra  : Nat
  clips  : Bool
  holds  : List HeldUnit := []
  src    : Option Nat := none
  moves  : List Nat := []
  deriving DecidableEq, Repr

/-- A finished work as it starts from the present boundary (R196), with the collisions that are injected on it; `none`: it needs a half of main memory in
which the core has no share (R228). -/
def State.transferStart (s : State) (op key pc : Nat) (t : Transfer) (w : Work) (more : List Effect) : Option Started :=
  (s.rate op (coreOf key) s.boundary t.steps t.extra w.readUses w.writeUses t.src).map fun r =>
    let core := coreOf key
    let parity := r.2.parityEffects core (t.engine == .dma) w more
    let lines := w.rFirst ++ w.rLines ++ w.wLines.map fun e => e.1
    let s' := if parity.isEmpty then r.2 else r.2.disarm 1 core
    { s := (s'.memCollide core .west lines).memCollide core .east lines, ps := r.1, effects := (w.struck parity).effects key pc t.clips ++ more ++ parity,
      reads := w.readSpans, feeds := [] }

/-- The kind of write that a work makes (R170). -/
def Work.kind (w : Work) : OpKind := if w.writes.isEmpty && w.sums.isEmpty then .plain else .localWrite

/-- Rates a finished work and puts it in flight from the present boundary (R35, R196): the checks of sum windows (R210) and memory shares
(R228) come first, on the state `s0` before the decoders saw what it reads, so that an instruction that faults there has done nothing. Transfers of a
core's DMA run at once, each from its issue boundary: R142 lets 16 be outstanding, and R34's order of one engine's
operations is read as that of its single queue in the units that have one (DEDUCED, log entry 66). `more` are effects beside the work's own; the visibility boundary is handed to `note`. -/
def State.launchTransfer (s0 s : State) (key : Nat) (t : Transfer) (w : Work) (more : List Effect) (note : Nat → State → State) : Issued :=
  if w.sumBad then s0.faultIssue key 0x15
  else
    match s.transferStart s.nextOp key ((s.strand key).pc.toNat) t w more with
    | none => s0.faultIssue key 0x17
    | some x =>
      let vis := x.s.visibleAt x.s.boundary x.ps
      (note vis x.s).launch key
        { opcode := t.opcode, words := t.words, engine := t.engine, kind := w.kind, tag := t.tag, regs := [], start := x.s.boundary,
          vis := vis, later := none, effects := x.effects, remote := .none, reads := x.reads, feeds := x.feeds, rated := x.ps, holds := t.holds, moves := t.moves }

/-- The state whose memory a work at issue reads: lines as its slots find them (R229). -/
def State.readBase (s : State) (core : Nat) (w : Work) : State := s.overlaid core s.boundary w.readUses w.writeUses

/-- Runs a work on the state at issue. Code words and lines in error that it reads pass their decoders first (R216, R232), and the work then
runs on what the decoders and the earlier slots left. -/
def State.runWork (s : State) (core : Nat) (f : Work → Work) : State × Work :=
  let w := f (Work.start s core)
  let lines := w.rFirst ++ w.rLines
  let risky := lines.filter fun l => s.lineAtRisk l
  if s.onDie.rowErrs.isEmpty && risky.isEmpty && s.main.uses.isEmpty then (s, w)
  else
    let s' := w.readAt.foldl (fun s u => s.senseUnit u) s
    let s' := risky.foldl (fun s l => s.readLineAt l 0 core) s'
    (s', f (Work.start (s'.readBase core w) core))

/-- Whether the palette's instruction pipe of a core is free (R74); pipe 0 is the store pipe, pipe 1 the instruction pipe. -/
def State.pipeIdle (s : State) (core pipe : Nat) : Bool := decide (Tab.get 0 s.pipeFree (2 * core + pipe) ≤ s.boundary)

/-- Holds a pipe to a boundary. -/
def State.holdPipe (s : State) (core pipe vis : Nat) : State := { s with pipeFree := Tab.set 0 s.pipeFree (2 * core + pipe) vis }

end Sys2Proof.Machine
end

