-- ==== Sys2Proof/Machine/Dma.lean ====
section
/-! DEFINITION. The core DMA's copies and fills of memory: DCOPY and DSET (R191–R193, R196), and the palette's PCVT (R74, R152), which shares
their path. -/

namespace Sys2Proof.Machine

/-- The largest number of transfers outstanding on a core's DMA (R142). -/
def dmaLimit : Nat := 16

/-- The rows and columns of a region, row-major. -/
def cells (rows cols : Nat) : List (Nat × Nat) := (List.range rows).flatMap fun r => (List.range cols).map fun q => (r, q)

/-- Whether an encoding is a zero of its format (R112). -/
def zeroEnc (code enc : Nat) : Bool := (decodeElem code enc).isZero

/-- The scale byte 1.0 of a scale format (R192). -/
def unitScale (fmt : Nat) : Nat := if fmt = 1 then 0x7F else if fmt = 2 then 0x38 else 0

/-- Reads the active region of a tile for a copy: each element with its encoding and its own block's scale byte, placed at (r, q), or at
(q, r) of the source with `tr`. -/
def Work.readTile (w : Work) (v : View) (tile rows cols : Nat) (tr : Bool) : List WElem × Work :=
  let o := tileOrigin v.ext tile
  let code := elemFmtOf v.man.format
  let sf := scaleFmtOf v.man.format
  let one (acc : List WElem × Work) (c : Nat × Nat) : List WElem × Work :=
    let p := if tr then posAt o c.2 c.1 else posAt o c.1 c.2
    let e := acc.2.read v p
    let sc := if sf = 0 then (none, false, e.2) else e.2.scaleByte v p
    let el : WElem := { r := c.1, q := c.2, val := e.1.val, nz := !zeroEnc code e.1.enc, pois := e.1.pois,
                        raw := some (e.1.enc, sc.1.getD (unitScale sf)) }
    (el :: acc.1, sc.2.2)
  let r := (cells rows cols).foldl one ([], w)
  (r.1.reverse, r.2)

/-- The pattern and group axis under which a tile of a view is held; an unstencilled tile counts as DENSE. -/
def State.tilePattern (s : State) (v : View) (tile : Nat) : Nat × Bool :=
  if v.man.stencilled then
    let t := tileIndex v.stored (v.loc (tileOrigin v.ext tile))
    let e := leNat (s.readBytes (v.stencilAddr t) 16)
    (stencilPattern e, stencilPattern e != 0 && stencilInner e)
  else (0, false)

/-- Whether a DCOPY copies encodings unchanged, the VALUE padding of its tiles apart (R192). -/
def copyUnchanged (s : State) (d v : View) (dt vt : Nat) (tr : Bool) : Bool :=
  d.man.format == v.man.format && !(tr && scaleFmtOf v.man.format != 0) &&
    (let a := s.tilePattern v vt
     a == s.tilePattern d dt && !(tr && a.1 != 0))

/-- Copies one tile; the flag says that it passed through the palette. -/
def Work.copyTile (w : Work) (d v : View) (dt vt rows cols : Nat) (tr : Bool) : Bool × Work :=
  let same := copyUnchanged w.s d v dt vt tr
  let invalid := w.invalid
  let r := { w with valuePad := false }.readTile v vt rows cols tr
  if same && !r.2.valuePad then (false, { r.2 with invalid := invalid }.writeTile d dt r.1)
  else (true, r.2.writeTile d dt (r.1.map fun e => { e with raw := none }))

/-- Copies `n` tiles in increasing order, each read wholly before it is written (R185); counts those that passed through the palette. -/
def Work.copyTiles (w : Work) (d v : View) (dt vt rows cols : Nat) (tr : Bool) : Nat → Nat × Work
  | 0 => (0, w)
  | n + 1 =>
    let x := w.copyTile d v dt vt rows cols tr
    let r := Work.copyTiles x.2 d v (dt + 1) (vt + 1) rows cols tr n
    (r.1 + (if x.1 then 1 else 0), r.2)

/-- Whether a tile of an operand passes through the transposer (R193): its contiguous axis is not one that `ok` accepts, or it has none. A P24 or P28
tile never does. -/
def State.turns (s : State) (v : View) (tile : Nat) (ok : Nat → Bool) : Bool :=
  (s.tilePattern v tile).1 == 0 && (match v.contiguous with
    | none => true
    | some a => !ok a)

/-- The tiles of a DCOPY that pass through the transposer (R193). -/
def State.copyTurns (s : State) (d v : View) (vt t : Nat) (tr : Bool) : Nat :=
  ((List.range t).filter fun i => s.turns v (vt + i) fun a => some (if tr then 1 - a else a) == d.contiguous).length

/-- Rates and launches a transfer from `v` to `d` whose work is done, with `pal` palette tiles and `tp` transposed tiles (R196); `tiles`: the tiles that it names. -/
def State.launchCopy (s0 s : State) (key opcode words : Nat) (w : Word0) (d : View) (src : Option View) (work : Work) (pal tp : Nat) (tiles : List Nat) : Issued :=
  let core := coreOf key
  let rd := match src with
    | some v => s.readSide core v.man.allocBase work
    | none => 0
  let wr := s.writeSide core d.man.allocBase work
  let rLines := match src with
    | some _ => work.rLines
    | none => if d.man.stencilled then [] else work.rLines
  let note (vis : Nat) (s : State) : State := if pal = 0 then s else s.holdPipe core 1 vis
  s0.launchTransfer s key
    { opcode := opcode, words := words, engine := .dma, tag := w.tagOf, steps := max rd wr, extra := 16 * pal + 8 * tp, clips := true,
      holds := if pal = 0 then [] else [.pipe (2 * core + 1)],
      moves := d.num :: ((src.map fun v => v.num).toList ++ tiles ++ [work.wBits / 8]) }
    { work with rLines := rLines } [] note

/-- DCOPY between resolved manifests: T tiles from the named ones on (R192). -/
def State.dcopy (s : State) (key opcode words : Nat) (w : Word0) (dst src : W64) (dt vt t rows cols : Nat) (tr : Bool) : Issued :=
  let core := coreOf key
  if t = 0 ∨ rows = 0 ∨ cols = 0 then s.noopIssue key words
  else if 128 < rows ∨ 128 < cols then s.faultIssue key 0x01
  else
    match s.operand core dst .writes, s.operand core src .reads with
    | .error c, _ => s.faultOp key c 0 [dst.toNat]
    | _, .error c => s.faultOp key c 0 [src.toNat]
    | .ok d, .ok v =>
      if d.man.empty || v.man.empty then s.noopIssue key words
      else if !d.tilesHeld dt t false then s.faultOp key 0x13 0 [d.num, dt]
      else if !v.tilesHeld vt t true then s.faultOp key 0x13 0 [v.num, vt]
      else if (s.strand key).tagFull w.tagOf || decide (dmaLimit ≤ s.outstanding core .dma) then s.waitHere key 0
      else
        let x := s.runWork core fun k => (k.copyTiles d v dt vt rows cols tr t).2
        let pal := ((Work.start (x.1.readBase core x.2) core).copyTiles d v dt vt rows cols tr t).1
        if decide (pal ≠ 0) && !s.pipeIdle core 1 then s.waitHere key 0
        else s.launchCopy x.1 key opcode words w d (some v) x.2 pal (s.copyTurns d v vt t tr) [dt, vt, t]

/-- DCOPY (R191, R192). -/
def fxDcopy (w : Word0) (w1 : W64) (key : Nat) (s : State) : Issued :=
  let st := s.strand key
  if st.blocked [w.a, w.b, w.c, w.d] then s.waitHere key 0
  else s.dcopy key 0x38 2 w (st.x w.a) (st.x w.c) (st.x w.b).toNat (st.x w.d).toNat (w.f 28 12) (fieldOf w1 63 56) (fieldOf w1 55 48)
    (bitOf w.imm.toNat 11)

/-- CPY of SSI-1: a DCOPY of whole tiles (R486). -/
def fxCpy (w : Word0) (key : Nat) (s : State) : Issued :=
  let st := s.strand key
  if st.blocked [w.a, w.b, w.c, w.d] then s.waitHere key 0
  else s.dcopy key 0x84 1 w (st.x w.a) (st.x w.c) (st.x w.b).toNat (st.x w.d).toNat (w.f 28 12) 128 128 false

/-- Writes one value into the active region of `n` tiles. -/
def Work.fillTiles (w : Work) (d : View) (dt : Nat) (es : List WElem) : Nat → Work
  | 0 => w
  | n + 1 => Work.fillTiles (w.writeTile d dt es) d (dt + 1) es n

/-- DSET: an FP32 value into every active position of T tiles; through the palette unless the destination is unscaled, unstencilled FP32
(R191, R192). -/
def fxDset (w : Word0) (w1 : W64) (key : Nat) (s : State) : Issued :=
  let st := s.strand key
  let core := coreOf key
  let t := w.f 28 12
  let rows := fieldOf w1 63 56
  let cols := fieldOf w1 55 48
  if st.blocked [w.a, w.b, w.c] then s.waitHere key 0
  else if t = 0 ∨ rows = 0 ∨ cols = 0 then s.noopIssue key 2
  else if 128 < rows ∨ 128 < cols then s.faultIssue key 0x01
  else
    match s.operand core (st.x w.a) .writes with
    | .error c => s.faultOp key c 0 [(st.x w.a).toNat]
    | .ok d =>
      let dt := (st.x w.b).toNat
      let pal := if d.man.format = 0 ∧ !d.man.stencilled then 0 else t
      if d.man.empty then s.noopIssue key 2
      else if !d.tilesHeld dt t false then s.faultOp key 0x13 0 [d.num, dt]
      else if st.tagFull w.tagOf || decide (dmaLimit ≤ s.outstanding core .dma) || (decide (pal ≠ 0) && !s.pipeIdle core 1) then s.waitHere key 0
      else
        let val := Val.ofF32 ((st.x w.c).setWidth 32)
        let es := (cells rows cols).map fun c => ({ r := c.1, q := c.2, val := val, nz := !val.isZero, pois := false, raw := none } : WElem)
        let x := s.runWork core fun k => k.fillTiles d dt es t
        s.launchCopy x.1 key 0x3A 2 w d none x.2 pal 0 [dt, t]

/-! ### PCVT -/

/-- Converts one tile through the palette: every position of the destination tile (R152). -/
def Work.convertTile (w : Work) (d v : View) (dt vt : Nat) : Work :=
  let r := w.readTile v vt 128 128 false
  r.2.writeTile d dt (r.1.map fun e => { e with raw := none })

/-- Converts `n` tiles. -/
def Work.convertTiles (w : Work) (d v : View) (dt vt : Nat) : Nat → Work
  | 0 => w
  | n + 1 => Work.convertTiles (w.convertTile d v dt vt) d v (dt + 1) (vt + 1) n

/-- The view with another format descriptor (OVERRIDE of PCVT). -/
def View.withFormat (v : View) (f : BitVec 32) : View := { v with man := { v.man with format := f } }

/-- PCVT between resolved manifests, rated at 16 steps a tile (R74), or at the sum-window rating (R210). It waits in its strand while the instruction pipe is busy. -/
def State.pcvt (s : State) (key opcode words : Nat) (w : Word0) (dst src : W64) (dt vt t : Nat) (fmt : Option (BitVec 32)) : Issued :=
  let core := coreOf key
  if t = 0 then s.noopIssue key words
  else if (match fmt with | some f => fmtInvalid f false false | none => false) then s.faultIssue key 0x01
  else
    match s.operand core dst .writes, s.operand core src .reads with
    | .error c, _ => s.faultOp key c 0 [dst.toNat]
    | _, .error c => s.faultOp key c 0 [src.toNat]
    | .ok d, .ok v =>
      if d.man.empty || v.man.empty then s.noopIssue key words
      else if !d.tilesHeld dt t false then s.faultOp key 0x13 0 [d.num, dt]
      else if !v.tilesHeld vt t true then s.faultOp key 0x13 0 [v.num, vt]
      else if (s.strand key).tagFull w.tagOf || !s.pipeIdle core 1 then s.waitHere key 0
      else
        let d' := match fmt with
          | some f => d.withFormat f
          | none => d
        let x := s.runWork core fun k => k.convertTiles d' v dt vt t
        let vis := x.1.visibleAt x.1.boundary (x.1.stepsPs (x.2.withSums x.1 (16 * t)))
        if x.2.sumBad then s.faultIssue key 0x15
        else
          (x.1.holdPipe core 1 vis).launch key
            { opcode := opcode, words := words, engine := .palette, kind := .localWrite, tag := w.tagOf, regs := [], start := x.1.boundary,
              vis := vis, later := none, effects := x.2.effects key ((s.strand key).pc.toNat) true, remote := .none,
              reads := x.2.readSpans, holds := [.pipe (2 * core + 1)] }

/-- PCVT (R152). -/
def fxPcvt (w : Word0) (w1 : W64) (key : Nat) (s : State) : Issued :=
  let st := s.strand key
  if st.blocked [w.a, w.b, w.c, w.d] then s.waitHere key 0
  else s.pcvt key 0x28 2 w (st.x w.a) (st.x w.c) (st.x w.b).toNat (st.x w.d).toNat (w.f 28 12)
    (if w.imm.getLsbD 0 then some (w1.setWidth 32) else none)

/-- CVT of SSI-1: a PCVT without OVERRIDE (R486). -/
def fxCvt (w : Word0) (key : Nat) (s : State) : Issued :=
  let st := s.strand key
  if st.blocked [w.a, w.b, w.c, w.d] then s.waitHere key 0
  else s.pcvt key 0x83 1 w (st.x w.a) (st.x w.c) (st.x w.b).toNat (st.x w.d).toNat (w.f 28 12) none

/-! ### The rows -/

def execDcopy (st : StrandRef) (w : Word0) (w1 : W64) (s : State) : Host.Outcome State Fault Refusal := runRow st (fxDcopy w w1) s
def execDset (st : StrandRef) (w : Word0) (w1 : W64) (s : State) : Host.Outcome State Fault Refusal := runRow st (fxDset w w1) s
def execPcvt (st : StrandRef) (w : Word0) (w1 : W64) (s : State) : Host.Outcome State Fault Refusal := runRow st (fxPcvt w w1) s
def execCpy (st : StrandRef) (w : Word0) (s : State) : Host.Outcome State Fault Refusal := runRow st (fxCpy w) s
def execCvt (st : StrandRef) (w : Word0) (s : State) : Host.Outcome State Fault Refusal := runRow st (fxCvt w) s

end Sys2Proof.Machine
end

