-- ==== Sys2Proof/Machine/Flow.lean ====
section
/-! DEFINITION. Flow contexts and the cells that a chip puts on them (R258, R262–R264). -/

namespace Sys2Proof.Machine

/-- The half of a node key. -/
def nodeHalf (key : Nat) : Half := if key < 4096 then .west else .east

/-- A flow context (R262). -/
def State.flow (s : State) (k : Nat) : Flow := Tab.get Flow.unused s.fab.flows k

/-- Stores a flow context. -/
def State.setFlow (s : State) (k : Nat) (f : Flow) : State :=
  { s with fab := { s.fab with flows := Tab.set Flow.unused s.fab.flows k f } }

/-- The tide now, in picoseconds. -/
def State.nowPs (s : State) : Nat := s.tide.count * 1000 + s.tide.frac * 1000 / 65536

/-- Whether a kind carries a sequence number (R259). -/
def sequenced (kind : Nat) : Bool := kind != 0 && kind != 8 && kind != 12

/-- The cell of a flow with its next sequence number; the link part and PLAN_CYCLE are written in its slot (R258, R287). -/
def State.cellOf (s : State) (f : Flow) (kind flags addr : Nat) (arg : W64) (payload : List Byte) : Cell :=
  { kind := kind, flags := flags, len := payload.length, srcChip := s.fab.chip, dstChip := f.peerChip, rxFlow := f.peerFlow,
    planCycle := 0, seq := if sequenced kind then f.seq else 0, addr := addr, arg := arg, payload := payload }

/-- Reserves a sequence number of a SEND flow and queues a cell of an operation issued at `issued`, complete at `ready` picoseconds (R263, R264). -/
def State.sendCellOf (s : State) (issued k kind flags addr : Nat) (arg : W64) (payload : List Byte) (ready : Nat) : State :=
  let f := s.flow k
  let q : Queued := { cell := s.cellOf f kind flags addr arg payload, ready := ready, issued := issued }
  s.setFlow k { f with queue := f.queue ++ [q], seq := if sequenced kind then (f.seq + 1) % 2 ^ 32 else f.seq }

/-- As `sendCellOf`, for an operation that is issued, or an answer that is formed, now. -/
def State.sendCell (s : State) (k kind flags addr : Nat) (arg : W64) (payload : List Byte) (ready : Nat) : State :=
  s.sendCellOf s.now k kind flags addr arg payload ready

/-- The flow on which the chip sends votes or releases to another chip: the lowest SEND context with that peer that is no ack
carrier (log entry 20: the manual says that the plan declares these flows, and names no place). -/
def State.flowTo (s : State) (chip : Nat) : Option Nat :=
  let fits (e : Nat × Flow) : Bool := e.2.role == 1 && !e.2.ackCarrier && (!e.2.broken && e.2.peerChip == chip)
  (List.find? fits s.fab.flows).map fun e => e.1

/-- Whether a chip is present in the hall: the chip's own number always is (R252). -/
def State.inHall (s : State) (chip : Nat) : Bool := chip == s.fab.chip || s.fab.hall.contains chip

/-- The other chips of the hall. -/
def State.others (s : State) : List Nat := s.fab.hall.filter fun c => c != s.fab.chip

/-- COMMITTED or POPS of a RECV context has changed: an ack falls due (R277). -/
def State.ackDue (s : State) (k : Nat) : State := s.setFlow k { s.flow k with ackDue := some ((s.flow k).ackDue.getD s.nowPs) }

/-- A pop of a berth adds one to POPS of the RECV contexts that push to it (R271). -/
def State.popFlows (s : State) (core berth : Nat) : State :=
  let feeds (f : Flow) : Bool := f.role == 2 && f.berthEn && (f.berth == berth && f.proxy == core)
  let bump (e : Nat × Flow) : Nat × Flow :=
    if feeds e.2 then (e.1, { e.2 with acked := (e.2.acked + 1) % 2 ^ 32, ackDue := some (e.2.ackDue.getD s.nowPs) }) else e
  { s with fab := { s.fab with flows := s.fab.flows.map bump } }

end Sys2Proof.Machine
end

