-- ==== Sys2Proof/Machine/Commit.lean ====
section
/-! DEFINITION. The training step's locks as the device acts on them: the vote side band, the opening of the commit round, the opening of the
step lock (R316–R328, R336), and the sketch windows that follow a commit (R133, R324). -/

namespace Sys2Proof.Machine

/-- Whether COMMIT_CFG names two locks, as a COMMIT section makes it do (R317): a plan without one leaves one name in both places. -/
def State.commitSet (s : State) : Bool := s.fld .commitCfg 63 51 != s.fld .commitCfg 50 38

/-- The key of the commit lock, 64 × core + lock (R349); the key of no lock where the plan has none. -/
def State.commitKey (s : State) : Nat := if s.commitSet then 64 * s.fld .commitCfg 57 51 + s.fld .commitCfg 63 58 else 8192

/-- The key of the step lock. -/
def State.stepKey (s : State) : Nat := if s.commitSet then 64 * s.fld .commitCfg 44 38 + s.fld .commitCfg 50 45 else 8192

/-- The low 32 bits of STEP_NUMBER. -/
def State.stepLow (s : State) : Nat := s.fld .stepNumber 31 0

/-- A flag of RED_STEP_STATUS, by its bit, over the two halves: a half whose STEP is not the current step counts as 1 (R320). -/
def State.redFlag (s : State) (bit : Nat) : Bool :=
  let half (h : Half) : Bool := s.fld (.redStepStatus h) 63 32 != s.stepLow || s.fld (.redStepStatus h) bit bit == 1
  half .west && half .east

/-- The chip's vote side band from the combined side band of its commit chamber (R321). -/
def State.voteSide (s : State) (side : W64) : W64 :=
  let clear (on : Bool) (bit : Nat) : W64 := if on then 0 else 1#64 <<< bit
  let off := clear (s.fld .stepFlags 0 0 == 1 && s.redFlag 0) 0 ||| clear (s.redFlag 1) 1 ||| clear (s.fld .stepFlags 1 1 == 1) 2
  (side &&& ~~~off) ||| (s.reg .sketchReq <<< 32)

/-- The chip's commit chamber completed: VOTED is set, and the dense requests that the vote carries are noted (R318, R321, R324). -/
def State.voted (s : State) : State :=
  let s := s.setFld .stepFlags 2 2 1
  { s with com := { s.com with carried := s.fld .sketchReq 31 0 } }

/-! ### Sketch windows -/

/-- The window totals of a gated layer. -/
def State.sketchRun (s : State) (i : Nat) : SketchRun := Tab.get SketchRun.fresh s.com.layers i

/-- Stores the window totals of a gated layer. -/
def State.setSketchRun (s : State) (i : Nat) (r : SketchRun) : State :=
  { s with com := { s.com with layers := Tab.set SketchRun.fresh s.com.layers i r } }

/-- The gated layers of the loaded plan with their numbers. -/
def State.sketchLayers (s : State) : List (Nat × SketchLayer) :=
  match s.plan with
  | none => []
  | some p => (List.range p.layers.length).zip p.layers

/-- A field of a layer's descriptor in its core's pad (R123). -/
def State.sketchField (s : State) (l : SketchLayer) (off n : Nat) : Nat := leNat (s.bytes (padBase l.core + l.descr + off) n)

/-- A step committed: its counters join the layer's window totals, and the layer's request group asks for dense operation when the
audited miss rate passes MISS_LIMIT (R133). -/
def State.sketchCommit (s : State) (flag : Bool) (e : Nat × SketchLayer) : State :=
  let r := s.sketchRun e.1
  let zero : SketchRun := { r with pendAud := 0, pendMis := 0, pendSki := 0 }
  if !flag then s.setSketchRun e.1 zero
  else
    let a := r.audited + r.pendAud
    let m := r.misses + r.pendMis
    let k := r.skipped + r.pendSki
    let r' : SketchRun := { zero with audited := a, misses := m, skipped := k }
    if decide (64 ≤ a) && decide (s.sketchField e.2 0x16 2 * a < m * 65536) then
      let s := s.setSketchRun e.1 { r' with request := true }
      s.setReg .sketchReq (withField (s.reg .sketchReq) e.2.group e.2.group 1)
    else s.setSketchRun e.1 r'

/-- An opened commit round carries a request for a layer: SKETCH_DENSE with the layer, its window, its totals and the chips that requested it, as far as this
chip has seen their votes (R133; log entry 21). -/
def State.sketchDense (s : State) (side : W64) (asked : Nat → List Nat) (e : Nat × SketchLayer) : State :=
  let r := s.sketchRun e.1
  if bitOf (fieldOf side 63 32) e.2.group && !r.dense then
    let window := (s.reg .stepNumber).toNat / max 1 (s.sketchField e.2 0x18 2)
    s.raise (plainEvent 0x0407 srcHm ([e.1, window, r.audited, r.misses, r.skipped] ++ asked e.2.group))
  else s

/-- A layer's counters at the end of a step: those that were read after its commit round join the window totals where the step committed; those of a step that
did not commit are dropped (R133). -/
def SketchRun.endStep (r : SketchRun) (flag : Bool) : SketchRun :=
  let k (pend : Nat) : Nat := if flag then pend else 0
  { r with audited := r.audited + k r.pendAud, misses := r.misses + k r.pendMis, skipped := r.skipped + k r.pendSki, pendAud := 0, pendMis := 0, pendSki := 0 }

/-- The step lock opened and `step` begins: a carried request makes the layer dense until its window ends, and a new window starts
with no totals and an estimate of the lost misses of the last, which without an audit has no stated value (R133, R324; the report's form is log entry 21). -/
def State.sketchStep (s : State) (valid flag : Bool) (step : Nat) (e : Nat × SketchLayer) : State :=
  let r := (s.sketchRun e.1).endStep flag
  let dense := r.dense || (valid && bitOf (s.fld .commitSideband 63 32) e.2.group)
  if step % max 1 (s.sketchField e.2 0x18 2) = 0 then
    let s := s.setSketchRun e.1 SketchRun.fresh
    let lost : Nat × State := if r.audited = 0 then
        let f := s.takeFree
        (f.1.toNat, f.2)
      else (r.misses * (r.skipped - r.audited) / r.audited, s)
    lost.2.raise (plainEvent 0x0407 srcHm [e.1, r.audited, r.misses, r.skipped, lost.1])
  else s.setSketchRun e.1 { r with dense := dense }

/-! ### Opening of the commit round -/

/-- The opening of the commit round (R322). `votes`: the votes that this chip has seen, with their chips; its own is what SKETCH_REQ carried. -/
def State.commitOpen (s : State) (side : W64) (votes : List (Nat × W64)) : State :=
  let asked (g : Nat) : List Nat :=
    (if bitOf s.com.carried g then [s.fab.chip] else []) ++ (votes.filter fun v => bitOf (fieldOf v.2 63 32) g).map fun v => v.1
  let s := s.sketchLayers.foldl (fun s e => s.sketchDense side asked e) s
  let flag := fieldOf side 2 0 == 7
  let s := s.setReg .commitSideband side
  let s := s.setFld .stepFlags 4 3 (if flag then 3 else 1)
  s.sketchLayers.foldl (fun s e => s.sketchCommit flag e) s

/-! ### Opening of the step lock -/

/-- The FP32 encoding of 2^e. -/
def pow2F32 (e : Int) : Nat :=
  if 128 ≤ e then 0x7F800000 else if -126 ≤ e then (e + 127).toNat * 2 ^ 23 else if -149 ≤ e then 2 ^ (e + 149).toNat else 0

/-- The loss scale after a step whose commit round opened or not (`valid`), with its finite bit and its commit flag (R327). -/
def lossAfter (v : W64) (valid finite flag : Bool) : W64 :=
  let sgn (hi lo : Nat) : Int := signedOf 8 (fieldOf v hi lo)
  let exp := sgn 7 0
  let put (e : Int) (good : Nat) : W64 := withField (withField v 7 0 (unsignedOf 8 e)) 23 8 good
  if valid && !finite then put (max (sgn 31 24) (exp - (fieldOf v 43 40 : Int))) 0
  else if flag then
    let good := fieldOf v 23 8 + 1
    if good = fieldOf v 63 48 then put (min (sgn 39 32) (exp + (fieldOf v 47 44 : Int))) 0 else put exp good
  else v

/-- A norm group publishes its sums (R336). -/
def State.normPublish (s : State) (flag : Bool) (e : Nat × NormRun) : State :=
  if !flag then s
  else
    let n : Fin 4096 := Fin.ofNat 4096 e.1
    let parts := s.fld (.norm n 3) 38 32
    let whole := e.2.next == parts && !e.2.dropped
    let s := ((s.setReg (.norm n 0) e.2.w2).setReg (.norm n 1) e.2.g2).setReg (.norm n 2) e.2.d2
    let s := s.setReg (.norm n 3) (BitVec.ofNat 64 ((if whole then 2 ^ 39 else 0) + parts * 2 ^ 32 + s.stepLow))
    if whole then s else s.raise (plainEvent 0x0408 srcHm [e.1])

/-- The step record (R328). -/
def State.stepRecord (s : State) : List Byte :=
  let exp := signedOf 8 (s.fld .lossScale 7 0)
  leBytes 8 (s.reg .stepNumber).toNat ++ leBytes 4 (pow2F32 exp) ++ leBytes 4 (pow2F32 (-exp)) ++
    leBytes 8 (s.reg .commitSideband).toNat ++ leBytes 2 (s.fld .stepFlags 31 16) ++ List.replicate 6 0

/-- A channel at the start of a step: its bucket is empty and it has not completed (R295, R315). -/
def State.channelStep (s : State) (c : Fin 256) : State :=
  let clear (s : State) (h : Half) : State :=
    let r := Reg.redChanState h c
    (s.setFld r 63 32 0).setReg r ((withField (s.reg r) 63 32 0) &&& ~~~(5#64))
  let s := clear (clear s .west) .east
  let run := Tab.get ChanRun.idle s.red.runs c.val
  { s with red := { s.red with runs := Tab.set ChanRun.idle s.red.runs c.val { run with staged := [] } } }

/-- The opening of the step lock (R316, R320, R324–R328, R336). -/
def State.stepOpen (s : State) : State :=
  let valid := s.fld .stepFlags 3 3 == 1
  let flag := valid && s.fld .stepFlags 4 4 == 1
  let s := s.setReg .lossScale (lossAfter (s.reg .lossScale) valid (s.fld .commitSideband 0 0 == 1) flag)
  let skipped := if flag then 0 else min 0xFFFF (s.fld .stepFlags 31 16 + 1)
  let s := if flag then s else
    let s := s.count .updCount 15 0 1
    let s := s.raise (causeEvent 11 .commitCause 0 srcHm [(s.reg .stepNumber).toNat, (s.reg .commitSideband).toNat])
    if skipped ≠ 0 ∧ skipped = s.fld .commitCfg 37 30 then
      s.raise (causeAlarm 11 .commitCause 1 srcHm [(s.reg .commitSideband).toNat, skipped])
    else s
  let s := s.com.norms.foldl (fun s e => s.normPublish flag e) s
  let step := (s.reg .stepNumber).toNat + 1
  let s := s.sketchLayers.foldl (fun s e => s.sketchStep valid flag step e) s
  let s := s.setReg .stepNumber (BitVec.ofNat 64 step)
  let s := s.setReg .stepFlags (BitVec.ofNat 64 (skipped * 65536 + 3))
  let s := s.setReg .sketchReq (s.reg .sketchReq &&& ~~~(BitVec.ofNat 64 s.com.carried))
  let s := { s with com := { s.com with carried := 0, norms := [], waiting := [] } }
  let s := (List.range 256).foldl (fun s c => s.channelStep (Fin.ofNat 256 c)) s
  let rec_ := s.stepRecord
  let at_ := 128 * s.fld .commitCfg 29 16
  s.enabledCores.foldl (fun s c => s.memWrite (padBase c + at_) rec_) s

end Sys2Proof.Machine
end

