-- ==== Sys2Proof/Machine/Mailbox.lean ====
section
/-! DEFINITION. The reply side of the pilot mailboxes (R368, R369, R371, R373): host memory as the device writes it, mailbox errors, reply
entries and buffers, the end of a long command, and the entry to FAULT (R404). -/

namespace Sys2Proof.Machine

/-- Whether a mailbox is enabled, and whether it has stopped on an error. -/
def State.mbEnabled (s : State) (mb : Fin 4) : Bool := s.fld (.mbCfg mb) 31 31 == 1
def State.mbStopped (s : State) (mb : Fin 4) : Bool := s.fld (.mbStatus mb) 0 0 == 1

/-- The entries of a mailbox's rings (R367). -/
def State.mbSize (s : State) (mb : Fin 4) : Nat := 2 ^ s.fld (.mbCfg mb) 3 0

/-- CMD_HEAD, RPL_TAIL and the two doorbells. -/
def State.cmdHead (s : State) (mb : Fin 4) : Nat := s.fld (.mbStatus mb) 63 48
def State.rplTail (s : State) (mb : Fin 4) : Nat := s.fld (.mbStatus mb) 47 32
def State.cmdDb (s : State) (mb : Fin 4) : Nat := s.fld (.mbCmdDb mb) 15 0
def State.rplDb (s : State) (mb : Fin 4) : Nat := s.fld (.mbRplDb mb) 15 0

/-- The device writes host memory; `relaxed`: with the Relaxed Ordering attribute (R363). -/
def State.hostPutAs (s : State) (relaxed : Bool) (a : Nat) (bs : List Byte) : State :=
  { s with host := { s.host with mem := Tab.setMany 0 s.host.mem a bs, pci := { s.host.pci with relaxed := relaxed } } }

/-- The device writes host memory in order: replies, records, and the MSI-X message (R363). -/
def State.hostPut (s : State) (a : Nat) (bs : List Byte) : State := s.hostPutAs false a bs

/-- A mailbox stops on an error: ERROR and STOPPED are set and MB_ERROR is raised (R369). -/
def State.mbError (s : State) (mb : Fin 4) (code : Nat) : State :=
  let s := s.setFld (.mbStatus mb) 7 4 code
  let s := s.setFld (.mbStatus mb) 0 0 1
  s.raise { causeEvent 13 .hmCause 4 srcHost [mb.val, code] with bit := some (Reg.hmCause.offset, 4 + mb.val) }

/-- The 64 bytes of a reply entry (R371). -/
def replyBytes (opcode tag : Nat) (phase inBuffer : Bool) (result state legal len : Nat) (data : List Byte) : List Byte :=
  leBytes 1 opcode ++ leBytes 1 ((if phase then 1 else 0) + if inBuffer then 2 else 0) ++ leBytes 2 result ++ leBytes 4 tag ++
    leBytes 1 state ++ leBytes 1 0 ++ leBytes 2 legal ++ leBytes 4 len ++ sliceBytes data 0 48

/-- A reply's entry reaches its ring: RPL_TAIL advances, the phase turns at the end of the ring, and MB_REPLY is set unless the command asked
for no interrupt (R371, R388). -/
def State.replyEntry (s : State) (d : Desc) (bytes : List Byte) : State :=
  let tail := s.rplTail d.mb
  let size := s.mbSize d.mb
  let s := s.hostPut ((s.reg (.mbRplBase d.mb)).toNat / 4096 * 4096 + 64 * (tail % size)) bytes
  let s := s.setFld (.mbStatus d.mb) 47 32 (tail + 1)
  let ph := s.host.phase.getD d.mb.val true
  let s : State :=
    if (tail + 1) % size = 0 then { s with host := { s.host with phase := listSet s.host.phase d.mb.val (!ph) } } else s
  if bitOf d.flags.toNat 1 then s else s.setBitAt Reg.hmCause.offset d.mb.val

/-- A reply that is logged and not written (R368). -/
def State.unwritten (s : State) (d : Desc) (opcode result : Nat) : State :=
  s.raise (plainEvent (unitCode 13 0) srcHost [d.mb.val, opcode, d.tag.toNat, result])

/-- Writes a reply (R371, R376). More than 48 bytes of data go to the reply buffer; a failed write of it replies HOST_DMA_ERROR. A reply of a
mailbox that is no longer served is logged and not written (R368). `need` is DATA_LEN where it is not the data's length. -/
def State.replyWith (s : State) (d : Desc) (opcode result legal : Nat) (need : Option Nat) (data : List Byte) : State :=
  let long := decide (48 < data.length)
  if !s.mbEnabled d.mb || s.mbStopped d.mb then s.unwritten d opcode result
  else
    let s := if long && d.bufOk then s.hostPut d.replyAddr data else s
    let lost := long && !d.bufOk
    let res := if lost then 0x17 else result
    let len := if lost then 0 else need.getD data.length
    if !d.replyOk then s.mbError d.mb 3
    else
      let phase := s.host.phase.getD d.mb.val true
      s.replyEntry d (replyBytes opcode d.tag.toNat phase (long && !lost) res s.dev.state.code legal len (if long then [] else data))

/-- A reply of a result and its data. -/
def State.reply (s : State) (d : Desc) (opcode result : Nat) (data : List Byte) : State := s.replyWith d opcode result 0 none data

/-- The running L command ends: BUSY clears and its reply is written (R373). -/
def State.finishL (s : State) (result : Nat) (data : List Byte) : State :=
  match s.host.busy with
  | none => s
  | some r =>
    let s : State := { s with host := { s.host with busy := none } }
    if r.cut then s.unwritten r.desc r.opcode result else s.reply r.desc r.opcode result data

/-- The running L command of a mailbox that `off` names is cut off from its ring. -/
def State.cutOff (s : State) (off : Fin 4 → Bool) : State :=
  { s with host := { s.host with busy := s.host.busy.map fun r => if off r.mb then { r with cut := true } else r } }

/-- Whether the running L command has an opcode. -/
def State.running (s : State) (opcode : Nat) : Bool :=
  match s.host.busy with
  | some r => r.opcode == opcode
  | none => false

/-- A quay is DOWN with cause DISABLED (R251). -/
def State.disableQuay (s : State) (q : Nat) : State := s.setReg (.quayStatus (Fin.ofNat 48 q)) 0x10

/-- A quay goes dark: it is DOWN and its transmitter is off (R247, R404); one that the chart does not enable stays DISABLED (R251). -/
def State.dark (s : State) (q : Nat) : State := if bitOf s.dev.chart.quayEnable q then s.setReg (.quayStatus (Fin.ofNat 48 q)) 0 else s.disableQuay q

/-- A governor holds the voltages that it last wrote. -/
def Governor.hold (g : Governor) : Governor := { g with coreNext := none, sramNext := none }

/-- Enters FAULT with a cause of R404: the cause is recorded and logged as an alarm, every quay goes dark, no strand issues, the governors hold, and a
running L command replies FAULT_ENTERED and leaves nothing pending; `injected`: by an injection (R433). -/
def State.enterFaultBy (s : State) (injected : Bool) (code : Nat) : State :=
  if s.tripped then s else
  let was := s.dev.state
  let s := s.enterBy injected .fault code
  let s : State := { s with dev := { s.dev with fault := code, faultFrom := was, selecting := none }, tide := { s.tide with pendingSet := none },
                            govW := s.govW.hold, govE := s.govE.hold }
  let s := s.raise { plainAlarm 0x040F srcHm [code] with injected := injected }
  ((List.range 48).foldl State.dark s).finishL 0x0112 []

/-- Enters FAULT. -/
def State.enterFault (s : State) (code : Nat) : State := s.enterFaultBy false code

end Sys2Proof.Machine
end

