-- ==== Sys2Proof/Machine/Intr.lean ====
section
/-! DEFINITION. The interrupt tree and its message (R387–R390). ALERT_N is low exactly while the interrupt condition of the host interface holds. -/

namespace Sys2Proof.Machine

/-- Whether a unit cause register has a bit that is set and enabled (R388). -/
def State.causeOn (s : State) (cause enable : Reg) : Bool := s.reg cause &&& s.reg enable != 0

/-- Bits of a group register, by number. -/
def groupBits (l : List (Nat × Bool)) : W64 := l.foldl (fun v e => if e.2 then v ||| (1#64 <<< e.1) else v) 0

/-- Whether an enabled bit of a core's EASEL_CAUSE is set: each enable covers the four bits of its cause (R102). -/
def State.easelOn (s : State) (c : Fin 128) : Bool :=
  let en (b : Nat) : Bool := s.fld (.easelCauseEn c) b b == 1
  let set (lo : Nat) : Bool := s.fld (.easelCause c) (lo + 3) lo != 0
  (en 0 && set 0) || (en 1 && set 4) || (en 2 && set 8)

/-- The group bits of a logical core. -/
def State.coreGroup (s : State) (n : Nat) : W64 :=
  let c : Fin 128 := Fin.ofNat 128 n
  let u : Fin 136 := Fin.ofNat 136 n
  if !s.coreExists n then 0
  else groupBits [(0, s.causeOn (.palCause c) (.palCauseEn c)), (1, s.easelOn c),
    (2, s.causeOn (.sparseCause c) (.sparseCauseEn c)), (3, s.causeOn (.seqCause c) (.seqCauseEn c)), (4, s.causeOn (.dmaCause c) (.dmaCauseEn c)),
    (5, s.causeOn (.padCause c) (.padCauseEn c)), (6, s.causeOn (.cvuCause u) (.cvuCauseEn u))]

/-- The group bits of a half. -/
def State.halfGroup (s : State) (h : Half) : W64 :=
  let quay (i : Nat) : Nat × Bool :=
    let q : Fin 48 := Fin.ofNat 48 (24 * h.index + i)
    (i, s.causeOn (.quayCause q) (.quayCauseEn q))
  let region (j : Nat) : Nat × Bool :=
    (24 + j, (List.range 8).any fun k =>
      let sl : Fin 128 := Fin.ofNat 128 (64 * h.index + 8 * j + k)
      s.causeOn (.galCause sl) (.galCauseEn sl))
  groupBits ((List.range 24).map quay ++ (List.range 8).map region ++
    [(32, s.causeOn (.memCause h) (.memCauseEn h)), (33, s.causeOn (.redCause h) (.redCauseEn h))])

/-- What the bits of a group stand for now (R387); STOP_CAUSE has no enable register. -/
def State.groupNow (s : State) (g : Nat) : W64 :=
  if g < 128 then s.coreGroup g
  else if g = 128 then s.halfGroup .west
  else if g = 129 then s.halfGroup .east
  else if g = 130 then groupBits [(0, s.causeOn .fabricCause .fabricCauseEn)]
  else if g = 131 then groupBits [(0, s.causeOn .commitCause .commitCauseEn)]
  else if g = 132 then groupBits [(0, s.reg .stopCause != 0)]
  else
    let unit (k : Nat) : Nat × Bool :=
      let u : Fin 136 := Fin.ofNat 136 (128 + k)
      (k + 1, s.causeOn (.cvuCause u) (.cvuCauseEn u))
    groupBits ((0, s.causeOn .hmCause .hmCauseEn) :: (List.range 8).map unit)

/-- The summary register and the bit of a group. -/
def summaryOf (g : Nat) : Fin 3 × Nat := if g < 64 then (0, g) else if g < 128 then (1, g - 64) else (2, g - 128)

/-- One group is evaluated: its bits that hold are set, and with any bit set its summary bit is (R388). -/
def State.evalGroup (s : State) (n : Nat) : State :=
  let g : Fin 134 := Fin.ofNat 134 n
  let v := s.reg (.grpCause g) ||| s.groupNow n
  let s := s.setReg (.grpCause g) v
  let p := summaryOf n
  if v = 0 then s else s.setReg (.hmSummary p.1) (s.reg (.hmSummary p.1) ||| (1#64 <<< p.2))

/-- The interrupt condition (R389). -/
def State.intrCondition (s : State) : Bool :=
  s.causeOn (.hmSummary 0) (.hmSummaryEn 0) || s.causeOn (.hmSummary 1) (.hmSummaryEn 1) || s.causeOn (.hmSummary 2) (.hmSummaryEn 2)

/-- Whether the vector is masked: by its own mask, or by the function's mask or disabled MSI-X (R389); in D3hot the function sends no message (R361). -/
def State.vectorMasked (s : State) : Bool :=
  s.fld (.msixEntry 1) 32 32 == 1 || (s.host.pci.msixMask || (!s.host.pci.msixOn || s.host.pci.d3hot))

/-- Sends the one message: a write of its data to its address in host memory; while the vector is masked the pending bit is set instead (R389). -/
def State.sendMsg (s : State) : State :=
  let s : State := { s with host := { s.host with msgDue := false } }
  if s.vectorMasked then s.setReg .msixPba 1
  else
    let s := s.hostPut (s.reg (.msixEntry 0)).toNat (leBytes 4 (s.fld (.msixEntry 1) 31 0))
    { s with host := { s.host with lastMsg := some s.now, msgs := s.host.msgs + 1 } }

/-- Whether the holdoff since the last message has ended (R389). -/
def State.holdoffOver (s : State) : Bool :=
  match s.host.lastMsg with
  | some t => decide (t + 1000 * s.fld .hmIntCtrl 15 0 ≤ s.now)
  | none => true

/-- A message falls due: it is sent, or waits for the holdoff to end. -/
def State.dueMsg (s : State) : State := if s.holdoffOver then s.sendMsg else { s with host := { s.host with msgDue := true } }

/-- Evaluates the groups and summaries, and the interrupt condition; a message that still waits behind a mask when the condition ends is pending no more,
as PCI Express has it of a function that withdraws an interrupt (R389; PRESUMED, log entry 82). -/
def State.evalTree (s : State) : State :=
  let s := (List.range 134).foldl State.evalGroup s
  let s : State := { s with host := { s.host with condition := s.intrCondition } }
  if s.host.condition then s else s.setReg .msixPba 0

/-- INTERRUPT_EVALUATE: a message falls due when the condition becomes true (R388, R389). -/
def State.interruptEvaluate (s : State) : State :=
  if s.dev.state = .off then s
  else
    let was := s.host.condition
    let s := s.evalTree
    if !was && s.host.condition then s.dueMsg else s

def execInterruptEvaluate (s : State) : Host.Outcome State Fault Refusal := .next s.interruptEvaluate

/-- MSIX_HOLDOFF_EXPIRY (R389). -/
def execMsixHoldoffExpiry (s : State) : Host.Outcome State Fault Refusal :=
  .next (if s.host.msgDue && s.holdoffOver then s.sendMsg else s)

/-- A message that waits behind a mask falls due when nothing masks it any more (R389). -/
def State.unmasked (s : State) : State := if s.reg .msixPba != 0 && !s.vectorMasked then (s.setReg .msixPba 0).dueMsg else s

/-- A write of a configuration register: D0 or D3hot, and MSI-X Enable and Function Mask (R361, R389). -/
def State.configWrite (s : State) (o : Nat) (v : Nat) : State :=
  let p := s.host.pci
  let p : PciFn := if o = cfgPower then
      { p with d3hot := if bitsOf v 1 0 = 3 then true else if bitsOf v 1 0 = 0 then false else p.d3hot }
    else { p with msixOn := bitOf v 31, msixMask := bitOf v 30 }
  ({ s with host := { s.host with pci := p } } : State).unmasked

/-- What follows a host write of a register of the interrupt tree: a write of a summary register that leaves the condition true makes a message
fall due, and an unmasked vector sends its pending message (R389). -/
def State.afterWrite (s : State) (r : Reg) : State :=
  match r with
  | .hmSummary _ =>
    let s := s.evalTree
    if s.host.condition then s.dueMsg else s
  | .msixEntry _ => s.unmasked
  | _ => s

end Sys2Proof.Machine
end

