-- ==== Sys2Proof/Machine/RegFile.lean ====
section
/-! DEFINITION. The register file as an access reaches it (R6–R8, R488–R495): which register an offset names, which blocks are served, the
registers that show the present state, and what a host write does to the fields of a register. -/

namespace Sys2Proof.Machine

/-! ### Which register an offset names (R488, R489, R496) -/

/-- The register listed at an offset. -/
def regIn (l : List (Nat × Reg)) (o : Nat) : Option Reg := (List.find? (fun e => e.1 == o) l).map fun e => e.2

/-- Registers of the host interface block. -/
def regHost (o : Nat) : Option Reg :=
  if o < 0x100 then
    regIn [(0x000, .hmState), (0x004, .hmFault), (0x008, .winBase), (0x010, .hmIntCtrl), (0x018, .hmCause), (0x01C, .hmCauseEn),
        (0x020, .hmChart), (0x040, .hmSummary 0), (0x048, .hmSummary 1), (0x050, .hmSummary 2), (0x060, .hmSummaryEn 0),
        (0x068, .hmSummaryEn 1), (0x070, .hmSummaryEn 2)] o
  else if o < 0x200 then
    let n : Fin 4 := Fin.ofNat 4 (o / 0x40)
    regIn [(0x00, .mbCmdBase n), (0x08, .mbRplBase n), (0x10, .mbCfg n), (0x18, .mbCmdDb n), (0x1C, .mbRplDb n), (0x20, .mbStatus n)] (o % 0x40)
  else if o < 0x1000 then none
  else if o < 0x1430 then if o % 8 = 0 then some (.grpCause (Fin.ofNat 134 ((o - 0x1000) / 8))) else none
  else (regIn [(0x2000, .msixEntry 0), (0x2008, .msixEntry 1), (0x2800, .msixPba)] o).orElse fun _ => if o < 0x3000 ∨ 0x30C0 ≤ o then none
      else if 0x3080 ≤ o then if o % 8 = 0 then some (.traceDrops (Fin.ofNat 8 (o / 8))) else none
      else if 0x3060 ≤ o then none
      else
        let k : Fin 3 := Fin.ofNat 3 ((o - 0x3000) / 0x20)
        regIn [(0, .ringHead k), (4, .ringTail k), (8, .ringLost k)] (o % 0x20)

/-- Registers of the tide unit, the governor, the determinism and the security blocks, and of a check-value unit at offset `o`. -/
def regAon (o : Nat) : Option Reg :=
  regIn [(0x10000, .tideNow), (0x10008, .tideFrac), (0x10010, .tideStatus), (0x10100, .govStatus .west), (0x10108, .govStatus .east),
      (0x10110, .stopCause), (0x10118, .stopTide), (0x10120, .stopSched), (0x10200, .detStatus), (0x10300, .secStatus)] o

/-- Registers of a check-value unit. -/
def regCvu (u o : Nat) : Option Reg :=
  regIn [(0x00, .cvuCause (Fin.ofNat 136 u)), (0x04, .cvuCauseEn (Fin.ofNat 136 u)), (0x08, .cvuCount (Fin.ofNat 136 u)),
      (0x10, .cvuLast (Fin.ofNat 136 u))] o

/-- Registers of a half's memory unit. -/
def regMem (h : Half) (o : Nat) : Option Reg :=
  (regIn [(0x00, .memCause h), (0x04, .memCauseEn h), (0x08, .memCount h), (0x10, .memErasureReads h),
      (0x18, .memPkgState h)] o).orElse fun _ =>
      if 0x20 ≤ o ∧ o < 0x40 ∧ o % 4 = 0 then some (.memErase h (Fin.ofNat 8 ((o - 0x20) / 4))) else none

/-- Registers of a half's reduction unit. -/
def regRed (h : Half) (o : Nat) : Option Reg :=
  (regIn [(0x00, .redCause h), (0x04, .redCauseEn h), (0x08, .redCount h),
      (0x10, .redStepStatus h)] o).orElse fun _ =>
      if 0x100 ≤ o ∧ o < 0x900 ∧ o % 8 = 0 then some (.redChanState h (Fin.ofNat 256 ((o - 0x100) / 8))) else none

/-- Registers of the fabric block, from its base. -/
def regFabric (o : Nat) : Option Reg :=
  if o < 0x3000 then
    let q : Fin 48 := Fin.ofNat 48 (o / 0x100)
    regIn [(0x00, .quayStatus q), (0x04, .quayDelay q), (0x08, .tideAsym q), (0x10, .quayCause q), (0x14, .quayCauseEn q),
        (0x18, .quayCount q)] (o % 0x100)
  else regIn [(0x3000, .fabricCause), (0x3004, .fabricCauseEn), (0x3008, .fabricCount)] o

/-- Registers of the commit block, from its base. -/
def regCommit (o : Nat) : Option Reg :=
  (regIn [(0x00, .commitCfg), (0x08, .stepNumber), (0x10, .stepFlags), (0x18, .commitSideband), (0x20, .lossScale), (0x28, .rngSeed),
      (0x30, .sketchReq), (0x38, .commitCause), (0x3C, .commitCauseEn), (0x40, .updCount)] o).orElse fun _ =>
    if 0x10000 ≤ o ∧ o < 0x30000 ∧ o % 8 = 0 then
      some (.norm (Fin.ofNat 4096 ((o - 0x10000) / 0x20)) (Fin.ofNat 4 (o % 0x20 / 8)))
    else none

/-- Registers of a core's block, from its base. -/
def regCore (n o : Nat) : Option Reg :=
  let c : Fin 128 := Fin.ofNat 128 n
  if 0x1000 ≤ o then
    if o < 0x2000 then
      let l : Fin 64 := Fin.ofNat 64 (o / 0x40)
      regIn [(0x00, .lockCfg c l), (0x08, .lockState c l), (0x10, .lockDlBase c l), (0x18, .lockDlPeriod c l), (0x20, .lockSideband c l)] (o % 0x40)
    else none
  else if 0x600 ≤ o ∧ o < 0x700 then regCvu n (o - 0x600)
  else if 0x110 ≤ o ∧ o < 0x150 ∧ o % 8 = 0 then
    let e : Fin 4 := Fin.ofNat 4 ((o - 0x110) / 0x10)
    if o % 0x10 = 0 then some (.easelSteps c e) else some (.easelFeed c e)
  else regIn [(0x000, .palCount c), (0x008, .palCause c), (0x00C, .palCauseEn c), (0x100, .easelCause c), (0x104, .easelCauseEn c),
      (0x200, .sparseCause c), (0x204, .sparseCauseEn c), (0x208, .sparseCount c), (0x300, .seqCause c), (0x304, .seqCauseEn c),
      (0x308, .seqFault c), (0x310, .seqCount c), (0x318, .berthTableBase c), (0x400, .dmaCause c), (0x404, .dmaCauseEn c),
      (0x408, .dmaCount c), (0x500, .padCause c), (0x504, .padCauseEn c), (0x508, .padCount c)] o

/-- Registers of a gallery slice's block, from its base. -/
def regSlice (n o : Nat) : Option Reg :=
  let c : Fin 128 := Fin.ofNat 128 n
  if 0x1000 ≤ o then if o < 0x2080 ∧ o % 8 = 0 then some (.sumLeaf c (Fin.ofNat 528 ((o - 0x1000) / 8))) else none
  else if 0x100 ≤ o ∧ o < 0x200 ∧ o % 8 = 0 then
    let d : Fin 16 := Fin.ofNat 16 ((o - 0x100) / 0x10)
    if o % 0x10 = 0 then some (.sumCfg c d) else some (.sumState c d)
  else regIn [(0x000, .galCause c), (0x004, .galCauseEn c), (0x008, .galCount c)] o

/-- The register at a BAR0 offset. -/
def regAtOffset (o : Nat) : Option Reg :=
  if o < 0x10000 then regHost o
  else if o < 0x11000 then regAon o
  else if o < 0x11800 then regCvu (128 + (o - 0x11000) / 0x100) (o % 0x100)
  else if o < 0x20000 then none
  else if o < 0x20100 then regMem .west (o - 0x20000)
  else if o < 0x20200 then regMem .east (o - 0x20100)
  else if o < 0x21000 then none
  else if o < 0x22000 then regRed .west (o - 0x21000)
  else if o < 0x23000 then regRed .east (o - 0x22000)
  else if o < 0x30000 then none
  else if o < 0x34000 then regFabric (o - 0x30000)
  else if o < 0x40000 then none
  else if o < 0x80000 then regCommit (o - 0x40000)
  else if o < 0x100000 then none
  else if o < 0x300000 then regCore ((o - 0x100000) / 0x4000) (o % 0x4000)
  else if o < 0x400000 then none
  else if o < 0x600000 then regSlice ((o - 0x400000) / 0x4000) (o % 0x4000)
  else none

/-! ### Which block is served (R490, R493) -/

/-- How the block of an offset is reached: served, of a core that the grade lacks, or in a disabled half (R490). -/
inductive BlockSide where
  | served | noCore | offline
  deriving DecidableEq, Repr

/-- The half that a block belongs to, where it is not always powered (R488). -/
def blockHalf (o : Nat) : Option Half :=
  if 0x20000 ≤ o ∧ o < 0x20200 then some (if o < 0x20100 then .west else .east)
  else if 0x21000 ≤ o ∧ o < 0x23000 then some (if o < 0x22000 then .west else .east)
  else if 0x30000 ≤ o ∧ o < 0x33000 then some (quayHalf ((o - 0x30000) / 0x100))
  else if 0x400000 ≤ o ∧ o < 0x600000 then some (sliceHalf ((o - 0x400000) / 0x4000))
  else none

/-- How an offset's block is reached. -/
def State.blockSide (s : State) (o : Nat) : BlockSide :=
  if 0x100000 ≤ o ∧ o < 0x300000 then
    let core := (o - 0x100000) / 0x4000
    if !s.coreExists core then .noCore else if s.halfOn (s.coreHalf core) then .served else .offline
  else match blockHalf o with
    | some h => if s.halfOn h then .served else .offline
    | none => .served

/-- The blocks served before READY is first entered: the host interface, governor, determinism and security blocks (R493). -/
def earlyBlock (o : Nat) : Bool := decide (o < 0x10000) || (decide (0x10100 ≤ o) && decide (o < 0x10400))

/-- Whether an offset is served now (R493). -/
def State.servedNow (s : State) (o : Nat) : Bool := s.dev.everReady || earlyBlock o

/-! ### Registers that show the present state (R495) -/

/-- TIDE_STATUS.STATE (R46). -/
def TideState.code : TideState → Nat
  | .acquiring => 0
  | .locked => 1
  | .holdover => 2
  | .freeRun => 3

/-- TIDE_STATUS.ROLE (R46). -/
def TideRole.code : TideRole → Nat
  | .free => 0
  | .source => 1
  | .follower => 2

/-- The estimated tide error in units of 10 ps: in HOLDOVER it grows by 2 units a second while TIDE_REF is present, and by 5,000 without it (R45). -/
def State.estErr (s : State) : Nat :=
  let t := s.tide
  if t.state = .holdover then t.estError + (if t.refPresent then 2 else 5000) * (t.count - t.errFrom) / 1000000000 else t.estError

/-- TIDE_STATUS. A FREE chip reports FREE_RUN and EST_ERROR all ones (R46). -/
def State.tideStatusReg (s : State) : Nat :=
  let t := s.tide
  let free := t.role == .free && t.running
  let b (x : Bool) (i : Nat) : Nat := if x then 2 ^ i else 0
  (if free then 0xFFF else min 0xFFF s.estErr) * 2 ^ 20 + t.stratum * 2 ^ 16 + t.upstream.getD 0x3F * 2 ^ 10 + t.role.code * 64 +
    (if free then 3 else t.state.code) * 16 + b t.refPresent 3 + b t.ppsPresent 2

/-- The governor of a half. -/
def State.gov (s : State) : Half → Governor
  | .west => s.govW
  | .east => s.govE

/-- Stores the governor of a half. -/
def State.setGov (s : State) (h : Half) (g : Governor) : State :=
  match h with
  | .west => { s with govW := g }
  | .east => { s with govE := g }

/-- VSRAM for a VCORE, in 0.1 mV (R49). -/
def vsramFor (vcore : Nat) : Nat := max (vcore + 300) 7000

/-- The VCORE that the governor has decided on: the target in force, or the one that waits for VSRAM. -/
def Governor.aim (g : Governor) : Nat := g.coreNext.getD g.vcore

/-- The governor moves its rails to a new VCORE. When it raises, it writes VSRAM and leaves VCORE for the confirmation of VSRAM, unless VSRAM already
stands there with no write to confirm; when it lowers, it writes VCORE and leaves VSRAM for its confirmation (R49). -/
def Governor.move (g : Governor) (v : Nat) : Governor :=
  let low (g : Governor) : Option Nat := if vsramFor v < g.vsram then some (vsramFor v) else none
  if g.vcore < v ∧ (g.vsram < vsramFor v ∨ g.coreNext.isSome) then
    { g with vsram := max g.vsram (vsramFor v), coreNext := some v, sramNext := none }
  else { g with vcore := v, coreNext := none, sramNext := low g }

/-- What follows a read-back within its bounds: the write that waited for it (R49). -/
def Governor.confirmed (g : Governor) (sram : Bool) : Governor :=
  if sram then match g.coreNext with
    | some v => { g with vcore := v, coreNext := none, sramNext := if vsramFor v < g.vsram then some (vsramFor v) else none }
    | none => g
  else match g.sramNext with
    | some v => { g with vsram := v, sramNext := none }
    | none => g

/-- Every write of a move has been read back: the BOOT and the CHART_SELECT that moved the rails end with them at their targets (R392, R399). -/
def Governor.settled (g : Governor) : Governor := (g.confirmed true).confirmed false

/-- VMAX and VMIN of the chart in 0.1 mV (R52). -/
def State.vmax (s : State) : Nat := 25 * s.dev.chart.vmax
def State.vmin (s : State) : Nat := 25 * s.dev.chart.vmin

/-- GOV_STATUS of a half (R51). A slack outside −512 to 511 wraps in its 10-bit field, and a target of a half millivolt is shown rounded down (DESIGN CHOICE, log entry 39: no rule
bounds a slack, and R48 steps by 2.5 mV where the field counts millivolts). -/
def State.govStatusReg (s : State) (h : Half) : Nat :=
  let g := s.gov h
  let b (x : Bool) (i : Nat) : Nat := if x then 2 ^ i else 0
  g.vcore / 10 * 2 ^ 48 + g.vsram / 10 * 2 ^ 32 + unsignedOf 10 g.slackMin * 2 ^ 22 + unsignedOf 10 g.slackNow * 2 ^ 12 +
    unsignedOf 8 g.tjMax * 16 + g.action * 4 + b (decide (g.vcore = s.vmax)) 1 + b (decide (g.vcore = s.vmin)) 0

/-- What VERIFY, ROLLBACK_ADVANCE and DEBUG_UNLOCK set SEC_STATUS to (R470, R495): ACTIVE_SLOT is the slot that VERIFY tries first (R458). -/
def State.secStatusReg (s : State) : Nat :=
  let c := s.sec
  let b (x : Bool) (i : Nat) : Nat := if x then 2 ^ i else 0
  b c.debugDisable 31 + b c.unlocked 30 + b c.fallback 29 + b c.activeB 28 + c.keySlot * 2 ^ 26 + c.keyRevoked * 2 ^ 22 +
    c.rollback * 2 ^ 15 + c.secVersion % 128 * 2 ^ 8

/-- SEC_STATUS is set. -/
def State.latchSec (s : State) : State := { s with sec := { s.sec with status := s.secStatusReg } }

/-- A register as a read returns it: the registers that R495 calls live are computed from the state, and SEC_STATUS is as it was last set. -/
def State.regNow (s : State) (r : Reg) : W64 :=
  let b (x : Bool) (i : Nat) : Nat := if x then 2 ^ i else 0
  match r with
  | .hmState => BitVec.ofNat 64 (s.host.proto * 2 ^ 16 + b s.host.busy.isSome 8 + s.dev.state.code)
  | .hmFault => BitVec.ofNat 64 (if s.dev.state = .fault then s.dev.fault else 0)
  | .hmChart => BitVec.ofNat 64 (b s.dev.fallback 4 + s.dev.sampled * 4 + s.dev.chartNo)
  | .hmIntCtrl => withField (s.reg .hmIntCtrl) 31 31 (if s.host.condition then 1 else 0)
  | .tideNow => BitVec.ofNat 64 s.tide.count
  | .tideStatus => BitVec.ofNat 64 s.tideStatusReg
  | .govStatus h => BitVec.ofNat 64 (s.govStatusReg h)
  | .detStatus => withField (s.reg .detStatus) 12 12 (if s.dev.chart.relaxed then 1 else 0)
  | .secStatus => BitVec.ofNat 64 s.sec.status
  | r => s.reg r

/-! ### Host writes (R6–R8, R491) -/

/-- The bits of a register that fields of one access type hold. -/
def fieldMask (a : Access) (fs : List Field) : W64 :=
  (fs.filter fun f => f.acc == a).foldl (fun m f => m ||| BitVec.ofNat 64 ((2 ^ (f.hi + 1 - f.lo) - 1) * 2 ^ f.lo)) 0

/-- What a host write of `v` to the bits of `mask` leaves in a register with these fields: RW bits take the value, W1C bits written one
clear, and the others stay (R6). -/
def hostWrite (fs : List Field) (old v mask : W64) : W64 :=
  let rw := fieldMask .rw fs &&& mask
  let clear := fieldMask .w1c fs &&& mask &&& v
  ((old &&& ~~~rw) ||| (v &&& rw)) &&& ~~~clear

/-- The register that an access of `width` bytes at `o` reaches, and the mask of the bits that it reaches (R6, R491). -/
def regAccess (o width : Nat) : Option (Reg × W64) :=
  if width = 8 then
    if o % 8 = 0 then
      match regAtOffset o with
      | some r => if r.width = 64 then some (r, ~~~0#64) else none
      | none => none
    else none
  else if width = 4 ∧ o % 4 = 0 then
    match regAtOffset o with
    | some r => some (r, 0xFFFFFFFF)
    | none =>
      if o % 8 = 4 then
        match regAtOffset (o - 4) with
        | some r => if r.width = 64 then some (r, 0xFFFFFFFF00000000) else none
        | none => none
      else none
  else none

/-- The RW fields of a register in which a value stands that is a reserved encoding (R8): WIN_BASE.BASE (R365), MB_CFG.SIZE_LOG2 (R367), and, where a
value lies outside the range that the register table states, the counts of LOSS_SCALE (R349; log entry 65). EXP, MIN_EXP and MAX_EXP are taken as written,
also with EXP outside MIN_EXP to MAX_EXP or MIN_EXP above MAX_EXP (DESIGN CHOICE, log entry 65: no rule calls such a value reserved). -/
def reservedFields : Reg → W64 → List (Nat × Nat)
  | .winBase, v => if 4032 < fieldOf v 11 0 then [(11, 0)] else []
  | .mbCfg _, v => if fieldOf v 3 0 < 4 ∨ 12 < fieldOf v 3 0 then [(3, 0)] else []
  | .lossScale, v =>
    (if fieldOf v 63 48 = 0 then [(63, 48)] else []) ++ (if 8 < fieldOf v 47 44 then [(47, 44)] else []) ++
      (if 8 < fieldOf v 43 40 then [(43, 40)] else [])
  | _, _ => []

/-- What a host write that would leave `new` leaves in a register that held `old`: each field written with a reserved encoding keeps its previous value
(R8). -/
def keepReserved (r : Reg) (old new : W64) : W64 :=
  (reservedFields r new).foldl (fun v f => withField v f.1 f.2 (fieldOf old f.1 f.2)) new

/-- Whether a register takes no host write now: LOSS_SCALE outside LOADED and HELD (R327), the ring bases of an enabled mailbox (R368). -/
def State.writeBarred (s : State) : Reg → Bool
  | .lossScale => s.dev.state != .loaded && s.dev.state != .held
  | .mbCmdBase n => s.mbEnabled n
  | .mbRplBase n => s.mbEnabled n
  | _ => false

/-- What an access that reaches no register leaves: the record of a block that the grade does not have or that the chart disables (R490). -/
def State.blockNote (s : State) (o : Nat) : State :=
  if !s.servedNow o then s
  else match s.blockSide o with
    | .noCore => s.raise (plainEvent 0x0409 srcHost [])
    | .offline => s.raise (plainEvent (unitCode 4 3) srcHost [])
    | .served => s

/-- A host write of `width` bytes at `o`: the fields that it reaches change by their types (R6, R8, R490, R491, R493). -/
def State.writeReg (s : State) (o width : Nat) (value : W64) : State :=
  if !s.servedNow o then s
  else match s.blockSide o with
    | .noCore => s.raise (plainEvent 0x0409 srcHost [])
    | .offline => s.raise (plainEvent (unitCode 4 3) srcHost [])
    | .served =>
      match regAccess o width with
      | none => s
      | some (r, mask) =>
        let v := if mask = 0xFFFFFFFF00000000 then value <<< 32 else value
        if s.writeBarred r then s
        else (s.setReg r (keepReserved r (s.reg r) (hostWrite r.fields (s.reg r) v mask))).afterWrite r

/-- The part of a register's value that an access reaches, moved to bit 0. -/
def partOf (v mask : W64) : W64 := if mask = 0xFFFFFFFF00000000 then v >>> 32 else v &&& mask

/-- The bits of a field. -/
def Field.mask (f : Field) : W64 := BitVec.ofNat 64 ((2 ^ (f.hi + 1 - f.lo) - 1) * 2 ^ f.lo)

/-- The RC fields of a register. -/
def rcFields (fs : List Field) : List Field := fs.filter fun f => f.acc == .rc

/-- What a read leaves in a register: each RC field that lies wholly within the bits of the access keeps what has been counted since the preceding stroke
boundary, `fresh`, also where it has saturated since, and is cleared of the rest (R6, R75, R491). -/
def clearOnRead (fs : List Field) (v fresh mask : W64) : W64 :=
  (rcFields fs).foldl (fun v f =>
    if f.mask &&& mask = f.mask then withField v f.hi f.lo (min (fieldOf v f.hi f.lo) (fieldOf fresh f.hi f.lo)) else v) v

/-- What a register has counted and which of its bits have been set since the preceding stroke boundary; nothing while the tide does not run (R75). -/
def State.freshNow (s : State) (r : Reg) : W64 := if s.tide.running then Tab.get 0 s.fresh r.offset else 0

/-- A register at the preceding stroke boundary; its present value while the tide does not run (R75). -/
def State.regThen (s : State) (r : Reg) : W64 := if s.tide.running then (Tab.find? s.snap r.offset).getD r.reset else s.reg r

/-- A register as a host read returns it: its RC fields as they were at the preceding stroke boundary (R75, R492). -/
def State.regRead (s : State) (r : Reg) : W64 :=
  let rc := (rcFields r.fields).foldl (fun m f => m ||| f.mask) 0
  (s.regNow r &&& ~~~rc) ||| (s.regThen r &&& rc)

/-- The RC fields that a read has cleared count from zero at the preceding boundary too. -/
def State.snapRead (s : State) (r : Reg) (mask : W64) : State :=
  let old := (Tab.find? s.snap r.offset).getD r.reset
  if (rcFields r.fields).isEmpty then s else { s with snap := Tab.put s.snap r.offset (clearOnRead r.fields old 0 mask) }

/-- A stroke boundary: the counts that RC reads return until the next one (R75). -/
def State.snapRegs (s : State) : State := { s with snap := s.regs, fresh := [] }

/-- A host read of `width` bytes at `o`: the value, and the state that it leaves; RC fields clear (R6, R75, R490, R491, R493). -/
def State.readReg (s : State) (o width : Nat) : W64 × State :=
  if !s.servedNow o then (0, s)
  else match s.blockSide o with
    | .noCore => (0, s.raise (plainEvent 0x0409 srcHost []))
    | .offline => (0, s.raise (plainEvent (unitCode 4 3) srcHost []))
    | .served =>
      match regAccess o width with
      | none => (0, s)
      | some (r, mask) => (partOf (s.regRead r) mask, (s.setReg r (clearOnRead r.fields (s.reg r) (s.freshNow r) mask)).snapRead r mask)

/-- A write that takes effect at the boundary at which it arrives clears no cause bit that the device sets at that boundary (R492). -/
def State.writeNow (s : State) (o width : Nat) (v : W64) : State :=
  match regAccess o width with
  | none => s.writeReg o width v
  | some (r, mask) =>
    let w1c := (r.fields.filter fun f => f.acc == .w1c).foldl (fun m f => m ||| f.mask) 0
    s.writeReg o width (v &&& ~~~(partOf (s.freshNow r &&& w1c) mask))

/-- Register writes that have arrived take effect (R492). -/
def State.applyRegWrites (s : State) : State :=
  let ws := s.host.pendingRegs
  ws.foldl (fun s w => s.writeReg w.1 w.2.1 w.2.2) { s with host := { s.host with pendingRegs := [] } }

end Sys2Proof.Machine
end

