-- ==== Sys2Proof/Machine/Lock.lean ====
section
/-! DEFINITION. The lock unit (R163–R167): entries, chambers, votes and releases of hall locks, openings, realignment, deadlines, and the
state that a task must leave (R171). -/

namespace Sys2Proof.Machine

/-- The core and number of a lock key, 64 × core + lock. -/
def lockCore (key : Nat) : Fin 128 := Fin.ofNat 128 (key / 64)
def lockNo (key : Nat) : Fin 64 := Fin.ofNat 64 key

/-- A field of LOCK_CFG_n (R163). -/
def State.lockF (s : State) (key hi lo : Nat) : Nat := s.fld (.lockCfg (lockCore key) (lockNo key)) hi lo

/-- EXPECTED, SCOPE and HOME. -/
def State.expected (s : State) (key : Nat) : Nat := s.lockF key 63 48
def State.scope (s : State) (key : Nat) : Nat := s.lockF key 47 46
def State.lockHome (s : State) (key : Nat) : Nat := s.lockF key 15 0

/-- The lock whose chambers an entry counts in: the home lock of a CHIP lock, else the lock itself (R165). -/
def State.homeKey (s : State) (key : Nat) : Nat :=
  if s.scope key = 1 then 64 * s.lockF key 6 0 + s.lockF key 13 8 else key

/-- ROUND of LOCK_STATE_n: the round now collecting. -/
def State.lockRound (s : State) (key : Nat) : Nat := s.fld (.lockState (lockCore key) (lockNo key)) 63 32

/-- The entries that a chamber holds. -/
def State.chamber (s : State) (key i : Nat) : Nat :=
  let r := Reg.lockState (lockCore key) (lockNo key)
  if i = 0 then s.fld r 15 0 else s.fld r 31 16

/-- Stores the count of a chamber. -/
def State.setChamber (s : State) (key i n : Nat) : State :=
  let r := Reg.lockState (lockCore key) (lockNo key)
  if i = 0 then s.setFld r 15 0 n else s.setFld r 31 16 n

/-- The parts of a lock that its registers do not show. -/
def State.lockx_ (s : State) (key : Nat) : LockX := Tab.get LockX.empty s.lockx key

/-- Stores those parts. -/
def State.setLockx (s : State) (key : Nat) (x : LockX) : State := { s with lockx := Tab.set LockX.empty s.lockx key x }

/-- The side band of an empty round: the OR part zero, the AND part ones (R163). -/
def sideUnit : W64 := 0xFFFFFFFF

/-- Two side bands combined: OR of bits [63:32], AND of bits [31:0] (R163). -/
def sideJoin (a b : W64) : W64 := ((a ||| b) &&& 0xFFFFFFFF00000000) ||| (a &&& b &&& 0xFFFFFFFF)

/-- ARG of a VOTE or RELEASE cell: round, home core, lock number (R282). -/
def voteArg (key round : Nat) : W64 := BitVec.ofNat 64 (round % 2 ^ 32 * 2 ^ 32 + key / 64 * 65536 + key % 64)

/-- The home of a hall lock: with its own chamber complete and every other chip's vote committed, the round's side band is settled.
The releases go out on the flows to the other chips; a home with no other chip opens one stroke after its last entry (R165, R282;
log entry 20). -/
def State.settle (s : State) (key : Nat) : State :=
  let x := s.lockx_ key
  let n := s.lockRound key
  let voted (c : Nat) : Bool := x.votes.any fun v => v.1 == n && v.2.1 == c
  if s.scope key = 2 ∧ s.lockHome key = s.fab.chip ∧ x.voted.contains n ∧ !x.released ∧ s.others.all voted then
    let side := (x.votes.filter fun v => v.1 == n).foldl (fun a v => sideJoin a v.2.2) (x.side.getD (n % 2) sideUnit)
    match s.others with
    | [] => s.setLockx key { x with released := true, due := some (s.boundary + s.period, side) }
    | cs =>
      let s := s.setLockx key { x with released := true }
      let send (s : State) (c : Nat) : State :=
        match s.flowTo c with
        | some f => s.sendCell f 0x0A 0 0 (voteArg key n) (leBytes 8 side.toNat) s.nowPs
        | none => s
      cs.foldl send s
  else s

/-- A chamber of a hall lock completed: the chip votes with the chamber's side band, as R321 forms it for the commit lock. -/
def State.chamberDone (s : State) (key round : Nat) : State :=
  if s.scope key = 2 ∧ s.chamber key (round % 2) = s.expected key ∧ !(s.lockx_ key).voted.contains round then
    let x := s.lockx_ key
    let old := x.side.getD (round % 2) sideUnit
    let isCommit := key == s.commitKey
    let side := if isCommit then s.voteSide old else old
    let s := if isCommit then s.voted else s
    let s := s.setLockx key { x with side := listSet x.side (round % 2) side, voted := x.voted ++ [round] }
    if s.lockHome key = s.fab.chip then s.settle key
    else match s.flowTo (s.lockHome key) with
      | some f => s.sendCell f 0x09 0 0 (voteArg key round) (leBytes 8 side.toNat) s.nowPs
      | none => s
  else s

/-- An entry is counted in the chamber of its round at the present boundary (R164). `key` is the home lock. -/
def State.lockEntry (s : State) (key round : Nat) (side : W64) : State :=
  let i := round % 2
  let s := s.setChamber key i (s.chamber key i + 1)
  let x := s.lockx_ key
  let s := s.setLockx key { x with side := listSet x.side i (sideJoin (x.side.getD i sideUnit) side),
                                   lastEntry := listSet x.lastEntry i s.boundary }
  s.chamberDone key round

/-- The boundary at which the collecting round of a lock is due to open, once that is settled (R165, R167, R282). -/
def State.openDue (s : State) (key : Nat) : Option Nat :=
  let x := s.lockx_ key
  let i := s.lockRound key % 2
  let list := if s.lockF key 45 45 = 1 then ceilDiv (s.lockF key 26 16) 4 else 0
  if s.expected key = 0 then none
  else if s.scope key = 2 then
    match x.due with
    | some d => some (s.visibleAt d.1 (s.stepsPs list))
    | none => none
  else if s.chamber key i = s.expected key then
    let steps := (if s.scope key = 1 then 30 else 6) + list
    some (s.visibleAt (max (x.lastEntry.getD i 0) x.lastOpen) (s.stepsPs steps))
  else none

/-- Compares one entry of a realignment list with its object and corrects it (R167). -/
def State.realignOne (s : State) (core entry : Nat) : State :=
  let n := bitsOf entry 43 32
  let want := bitsOf entry 31 0
  let report (s : State) (was : Nat) : State :=
    s.raise (causeEvent 3 (.seqCause (Fin.ofNat 128 core)) 5 (srcCore core) [bitsOf entry 63 63, n, was, want])
  if bitOf entry 63 then
    let k := 1024 * core + n % 1024
    let v := Tab.get 0 s.signals k
    if fieldOf v 31 0 = want then s
    else report { s with signals := Tab.set 0 s.signals k (withField v 31 0 want) } (fieldOf v 31 0)
  else
    let s := s.sense (s.berthAddr core n) 16
    let d := s.berth core n
    if berthOcc d = want then s
    else
      let d' := withBits (withBits d 95 64 ((berthPushed d + 2 ^ 32 - want) % 2 ^ 32)) 48 48 0
      report (s.setBerth core n d') (berthOcc d)

/-- The realignment list of a lock, at the opening (R167): its reads take slots of the pad's banks, four entries a cycle, and pass the decoder (R199, R206,
R216). -/
def State.realign (s : State) (key : Nat) : State :=
  if s.lockF key 45 45 = 1 then
    let core := key / 64
    let base := padBase core + 8 * s.lockF key 44 27
    let n := s.lockF key 26 16
    let s := (s.bookAt (.core core .lock 0) (1000 * s.boundary) [(base, 8 * n)] [] 32).sense base (8 * n)
    (List.range n).foldl (fun s i => s.realignOne core (leNat (s.bytes (base + 8 * i) 8))) s
  else s

/-- The locks that follow the openings of a home lock: itself, and every CHIP lock with the same HOME (R165). -/
def State.followers (s : State) (key : Nat) : List Nat :=
  if s.scope key = 1 then
    s.enabledCores.flatMap fun c => (List.range 64).filterMap fun l =>
      let k := 64 * c + l
      if s.scope k = 1 ∧ s.lockHome k = s.lockHome key ∧ s.expected k ≠ 0 then some k else none
  else [key]

/-- A strand that waited for an opened round resumes with the side band; its next issue group is at the following boundary (R164). -/
def Strand.resumeLock (b : Nat) (key round : Nat) (side : W64) (st : Strand) : Strand :=
  match st.wait with
  | some { kind := .lock k r dest, .. } =>
    if k = key ∧ r = round then { (st.setX dest side).past 1 with notBefore := b } else st
  | _ => st

/-- A parked entry for the round that the freed chamber now collects is admitted: its strand waits on, or is READY for an LARRIVE;
an entry beyond EXPECTED faults (R155, R164). -/
def State.letIn (s : State) (key round : Nat) (e : Nat × Strand) : State :=
  match e.2.wait with
  | some { kind := .parked k r dest side arrive tag, since, sched, late, due } =>
    if k = key ∧ r = round then
      if s.expected key ≤ s.chamber key (round % 2) then s.strandFault e.1 e.2.pc.toNat 0x10 []
      else
        let s := if arrive then (s.tagOp e.1 e.2.pc.toNat 2 tag) else s
        let st : Strand :=
          if arrive then { e.2.past 1 with notBefore := s.boundary + s.period }
          else { e.2 with status := .waiting, wait := some { kind := .lock key round dest, since := since, sched := sched, late := late, due := due } }
        (s.setStrand e.1 st).lockEntry key round side
    else s
  | _ => s

/-- Every channel that a lock arms notes the opening, one that contributes nothing in its reduction steps only; one whose bucket is not full in a reduction
step is late (R297; log entry 22). -/
def State.armOpened (s : State) (key : Nat) : State :=
  let one (s : State) (e : Nat × Channel) : State :=
    let ch := e.2
    let run := Tab.get ChanRun.idle s.red.runs e.1
    let h : Half := if ch.east then .east else .west
    let full := bitOf (s.reg (.redChanState h (Fin.ofNat 256 e.1))).toNat 0
    let reduces := decide ((s.reg .stepNumber).toNat % max 1 ch.accumN + 1 = ch.accumN)
    if ch.enabled && 64 * ch.armCore + ch.armLock == key && (ch.contributes || reduces) then
      let s : State := { s with red := { s.red with runs := Tab.set ChanRun.idle s.red.runs e.1 { run with lockOpen := true } } }
      if reduces && ch.contributes && !ch.express && !full then
        s.raise (causeEvent 10 (.redCause h) 0 (srcChannel e.1) [(s.reg .stepNumber).toNat])
      else s
    else s
  s.red.channels.foldl one s

/-- The opening of the collecting round of a home lock at the present boundary (R164, R167, R316, R322). -/
def State.openRound (s : State) (key : Nat) : State :=
  let x := s.lockx_ key
  let n := s.lockRound key
  let i := n % 2
  let side := match x.due with
    | some d => d.2
    | none => x.side.getD i sideUnit
  let fs := s.followers key
  let follow (s : State) (k : Nat) : State :=
    let s := s.setReg (.lockSideband (lockCore k) (lockNo k)) side
    let s := s.setFld (.lockState (lockCore k) (lockNo k)) 63 32 (n + 1)
    let s := s.traceCore 7 0 (k / 64) [k % 64, n, side.toNat]
    s.realign k
  let s := fs.foldl follow s
  let s := s.setChamber key i 0
  let s := s.setLockx key { x with side := listSet x.side i sideUnit, lastOpen := s.boundary, deadlined := x.deadlined.filter (fun r => r != n), due := none,
                                   released := false, voted := x.voted.filter (fun r => r != n),
                                   votes := x.votes.filter fun v => v.1 != n }
  let b := s.boundary + s.period
  let resume (e : Nat × Strand) : Nat × Strand := (e.1, e.2.resumeLock b key n side)
  let s : State := { s with strands := s.strands.map resume }
  let s := s.strands.foldl (fun (t : State) (e : Nat × Strand) => t.letIn key (n + 2) e) s
  let s := s.settle key
  let s := fs.foldl (fun s k => s.armOpened k) s
  let s := if key = s.commitKey then s.commitOpen side ((x.votes.filter fun v => v.1 == n).map fun v => v.2) else s
  if fs.contains s.stepKey then s.stepOpen else s

/-- Opens the collecting round of a lock when it is due. -/
def State.lockOpen (s : State) (key : Nat) : State :=
  match s.openDue key with
  | some d => if d ≤ s.boundary then s.openRound key else s
  | none => s

/-- LOCK_OPEN: a due lock's collecting round opens. -/
def execLockOpen (core : Fin 128) (lock : Fin 64) (s : State) : Host.Outcome State Fault Refusal :=
  .next (s.lockOpen (64 * core.val + lock.val))

/-! ### Deadlines -/

/-- Whether a strand waits for a round of a lock. -/
def Strand.waitsFor (key round : Nat) (st : Strand) : Bool :=
  match st.wait with
  | some { kind := .lock k r _, .. } => k == key && r == round
  | some { kind := .opened k r, .. } => k == key && r == round
  | some { kind := .parked k r _ _ _ _, .. } => k == key && r == round
  | _ => false

/-- The round of a lock that a strand waits for. -/
def Strand.waitRound (key : Nat) (st : Strand) : Option Nat :=
  match st.wait with
  | some { kind := .lock k r _, .. } => if k = key then some r else none
  | some { kind := .opened k r, .. } => if k = key then some r else none
  | some { kind := .parked k r _ _ _ _, .. } => if k = key then some r else none
  | _ => none

/-- The deadline of a round of a lock (R166). -/
def State.deadlineOf (s : State) (key round : Nat) : Nat :=
  (s.reg (.lockDlBase (lockCore key) (lockNo key))).toNat + round * s.fld (.lockDlPeriod (lockCore key) (lockNo key)) 31 0

/-- The deadline of an unopened round has passed while a strand waits for it, and has not been raised (R166). -/
def State.deadlineMissed (s : State) (key round : Nat) : Bool :=
  decide (s.fld (.lockDlPeriod (lockCore key) (lockNo key)) 31 0 ≠ 0) && decide (s.deadlineOf key round ≤ s.now) &&
    decide (s.lockRound key ≤ round) && !(s.lockx_ key).deadlined.contains round && s.strands.any fun e => e.2.waitsFor key round

/-- Raises LOCK_DEADLINE of a round with the lock, the round, the entries held and, at a hall home, the chips whose votes are missing. In STRICT
the chip stops (R166, R55). -/
def State.roundDeadline (s : State) (key n : Nat) : State :=
  if s.deadlineMissed key n then
    let x := s.lockx_ key
    let missing := if s.scope key = 2 ∧ s.lockHome key = s.fab.chip then
        s.others.filter fun c => !x.votes.any fun v => v.1 == n && v.2.1 == c
      else []
    let held := if n < s.lockRound key + 2 then s.chamber key (n % 2) else 0
    let items := [key % 64, n, held] ++ missing
    let s := (s.setLockx key { x with deadlined := x.deadlined ++ [n] }).det 3
    if s.strict then s.slipSecondary 10 (srcCore (key / 64)) items false
    else s.raise (plainEvent (unitCode 12 10) (srcCore (key / 64)) items)
  else s

/-- The passed deadlines of the rounds of a lock that strands wait for, in the order of the rounds. -/
def State.lockDeadline (s : State) (key : Nat) : State :=
  ((s.strands.filterMap fun e => e.2.waitRound key).foldl Marks.insert []).foldl (fun s n => s.roundDeadline key n) s

/-- LOCK_DEADLINE (R166). -/
def execLockDeadline (core : Fin 128) (lock : Fin 64) (s : State) : Host.Outcome State Fault Refusal :=
  .next (s.lockDeadline (64 * core.val + lock.val))

/-! ### The end of a task -/

/-- A mismatched object of R171 on a core is logged by its kind and number and counted. -/
def State.dirtyObject (s : State) (core : Nat) (items : List Nat) : State :=
  let s := s.raise (causeEvent 3 (.seqCause (Fin.ofNat 128 core)) 6 (srcCore core) items)
  { s with run := { s.run with dirty := s.run.dirty + 1 } }

/-- An object of a core that is not as declared; kinds 0 berth, 1 lock, 2 counter, 4 context. -/
def State.endCompare (s : State) (kind core n : Nat) (ok : Bool) : State := if ok then s else s.dirtyObject core [kind, n]

/-- The keys of a table and of a list, each once. -/
def keysOf {α : Type} (t : Tab α) (l : List Nat) : List Nat := t.foldl (fun ks e => Marks.insert ks e.1) (l.foldl Marks.insert [])

/-- A sum window whose ARRIVED is not zero at task end is a mismatch (R214). -/
def State.windowCompare (s : State) (slice d : Nat) : State :=
  let n := s.fld (.sumState (Fin.ofNat 128 slice) (Fin.ofNat 16 d)) 31 16
  if n = 0 then s
  else
    let s := s.raise (plainEvent (unitCode 3 6) (srcSlice slice) [slice, d, n])
    { s with run := { s.run with dirty := s.run.dirty + 1 } }

/-- The sum windows with contributions in the current round. -/
def State.openWindows (s : State) : List (Nat × Nat) :=
  ((List.range 128).flatMap fun sl => (List.range 16).map fun d => (sl, d)).filter fun w =>
    s.fld (.sumState (Fin.ofNat 128 w.1) (Fin.ofNat 16 w.2)) 31 16 != 0

/-- The check of the state left at task end (R171, R214): contexts, parked strands, chambers, locks, berths, counters, tags, sum windows. -/
def State.taskEnd (s : State) (p : Plan) : State :=
  let s := { s with run := { s.run with dirty := 0 } }
  let ctx (s : State) (e : Nat × Strand) : State :=
    s.endCompare 4 (coreOf e.1) (ctxOf e.1) ((e.2.status == .done || e.2.status == .free) && e.2.tags.all fun t => t.2 == 0)
  let s := s.strands.foldl ctx s
  let lock (s : State) (k : Nat) : State :=
    s.endCompare 1 (k / 64) (k % 64) (s.chamber k 0 == 0 && (s.chamber k 1 == 0 && s.lockRound k == Tab.get 0 p.endLocks k))
  let s := (keysOf p.endLocks (p.locks.map fun l => l.key)).foldl lock s
  let berth (s : State) (k : Nat) : State :=
    s.endCompare 0 (k / 4096) (k % 4096) (berthOcc (s.berth (k / 4096) (k % 4096)) == Tab.get 0 p.endBerths k)
  let s := (keysOf p.endBerths (p.berths.map fun b => 4096 * b.1 + b.2.1)).foldl berth s
  let counter (s : State) (k : Nat) : State :=
    s.endCompare 2 (k / 1024) (k % 1024) (Tab.get 0 s.signals k == Tab.get 0 p.endCounters k)
  let s := (keysOf p.endCounters (s.signals.map fun e => e.1)).foldl counter s
  s.openWindows.foldl (fun s w => s.windowCompare w.1 w.2) s

/-- Whether every context is DONE or FREE: the last strand of the task has reached END (R171). -/
def State.taskDone (s : State) : Bool := s.strands.all fun e => e.2.status == .done || e.2.status == .free

/-- The data of a HOLD's reply: STOP_TIDE, STOP_SCHED, DET_STATUS (R377). -/
def State.holdData (s : State) : List Byte :=
  leBytes 8 (s.reg .stopTide).toNat ++ leBytes 8 (s.reg .stopSched).toNat ++ leBytes 4 (s.regNow .detStatus).toNat

/-- In RUNNING, a plan whose last strand has ended is checked and the device is LOADED (R171, R400). A HOLD whose boundary has not come
then replies (log entry 29). -/
def State.planEnd (s : State) : State :=
  match s.plan with
  | some p =>
    if s.dev.state = .running ∧ s.run.stopFrom.isNone ∧ s.run.startAt.isNone ∧ s.taskDone then
      let s := (s.taskEnd p).enter .loaded 0
      let s : State := { s with run := { s.run with holdAt := none } }
      if s.running 0x23 then s.finishL 0 s.holdData else s
    else s
  | none => s

/-- END: the context becomes DONE; with the last one the task ends (R137, R171). A full tag holds it (R141). -/
def State.endStrand (s : State) (key : Nat) (tag : Option Nat) : State :=
  if !s.mayIssue key then s
  else if (s.strand key).tagFull tag then (s.holdHere key).s
  else (s.endGroup key { (s.strand key).past 1 with status := .done }).s.planEnd

end Sys2Proof.Machine
end

