-- ==== Sys2Proof/Machine/Sync.lean ====
section
/-! DEFINITION. Classes Q and Y of SSI-2 (R147, R155–R170): berths, signal counters, lock entries and fences. -/

namespace Sys2Proof.Machine

/-! ### Berths -/

/-- The number of a berth operand, xB + IMM[11:0]. -/
def berthNo (w : Word0) (st : Strand) : Nat := (st.x w.b + BitVec.ofNat 64 (w.f 11 0)).toNat

/-- Issue of a class Q instruction on berth `n`: BERTH_RANGE beyond 4,095 and for DEPTH = 0 (R155, R156); `k` continues with the
berth's descriptor, which passed the decoder, and with DATA_POISON for its visibility boundary where it is poisoned (R216, R217). -/
def withBerth (key n : Nat) (s : State) (k : State → Nat → List Effect → Issued) : Issued :=
  if 4096 ≤ n then s.faultIssue key 0x0C
  else
    let a := s.berthAddr (coreOf key) n
    let s := s.sense a 16
    let d := s.berth (coreOf key) n
    if berthDepth d = 0 then s.faultIssue key 0x0C else k s d (poisonFault (s.poisonedRange a 16) key (s.strand key).pc.toNat)

/-- The pops that a berth has had at the present boundary: a BPUSH takes effect before them (R159). -/
def State.popsNow (s : State) (core n : Nat) : Nat := Tab.get 0 s.run.pops (4096 * core + n)

/-- BPUSH: the slot is reserved at issue, the entry is visible after 2 steps; a full berth makes the strand wait (R157). -/
def berthPush (opcode : Nat) (w : Word0) (key : Nat) (s : State) : Issued :=
  let st := s.strand key
  if st.blocked w.bc then s.holdHere key
  else
    let n := berthNo w st
    withBerth key n s fun s d bad =>
      if st.tagFull w.tagOf then s.holdHere key
      else if berthDepth d ≤ berthOcc d + s.popsNow (coreOf key) n then s.waitHere key w.sched
      else
        let core := coreOf key
        let at_ := (s.berthAddr core n, 16)
        let s := (s.setBerth core n (withBits d 127 96 ((berthPushed d + 1) % 2 ^ 32))).bookIssue core (ctxOf key) .berth [at_] [at_]
        s.launchSimple key opcode 1 2 .berth .localWrite w.tagOf []
          (.berthEntry (4096 * core + n) (berthEntry core d (berthPushed d)) (st.x w.c) :: bad)

def fxBpush (w : Word0) : Nat → State → Issued := berthPush 0x50 w

/-- Takes the oldest visible entry of a berth for a strand: POPPED advances, and the flows that push to the berth count the pop (R157, R271). The descriptor
and the entry take slots of their banks (R199). -/
def State.popBerth (s : State) (key n d : Nat) : W64 × State :=
  let core := coreOf key
  let a := berthEntry core d (berthPopped d)
  let at_ := (s.berthAddr core n, 16)
  let v := BitVec.ofNat 64 (leNat (s.bytes a 8))
  let s : State := { s with run := { s.run with pops := Tab.set 0 s.run.pops (4096 * core + n) (s.popsNow core n + 1) } }
  let s := s.bookIssue core (ctxOf key) .berth [at_, (a, 8)] [at_]
  (v, (s.setBerth core n (withBits d 95 64 ((berthPopped d + 1) % 2 ^ 32))).popFlows core n)

/-- The entry that a pop takes passes the decoder: the state, and DATA_POISON where it is poisoned (R216, R217). -/
def State.senseEntry (s : State) (key d : Nat) : State × List Effect :=
  let a := berthEntry (coreOf key) d (berthPopped d)
  let t := s.sense a 8
  (t, poisonFault (t.poisonedRange a 8) key (t.strand key).pc.toNat)

/-- A pop from a BROKEN berth: BERTH_OVERFLOW as a cause and as the strand's fault (R161, R172). -/
def State.popBroken (s : State) (key n : Nat) : Issued :=
  let s := s.raise (causeEvent 3 (.seqCause (coreFin key)) 3 (srcCore (coreOf key)) [n, ctxOf key])
  s.faultIssue key 0x0D

/-- BPOP: waits for a visible entry; xA := the oldest one (R157). -/
def berthPop (opcode : Nat) (w : Word0) (key : Nat) (s : State) : Issued :=
  let st := s.strand key
  if st.blocked [w.b] then s.holdHere key
  else
    let n := berthNo w st
    withBerth key n s fun s d bad =>
      if berthBroken d then s.popBroken key n
      else if st.tagFull w.tagOf then s.holdHere key
      else if !s.berthHead (coreOf key) n d then s.waitHere key w.sched
      else
        let x := s.senseEntry key d
        let p := x.1.popBerth key n d
        p.2.launchSimple key opcode 1 2 .berth .plain w.tagOf [w.a] (.reg key w.a p.1 :: (bad ++ x.2))

def fxBpop (w : Word0) : Nat → State → Issued := berthPop 0x51 w

/-- BTRY: as BPOP without waiting; xD tells whether an entry was popped (R147, R155). Where xA and xD are one register, the manual
does not say which value it holds (log entry 3). -/
def fxBtry (w : Word0) (key : Nat) (s : State) : Issued :=
  let st := s.strand key
  if st.blocked [w.b] then s.waitHere key 0
  else
    let n := berthNo w st
    withBerth key n s fun s d bad =>
      if berthBroken d then s.popBroken key n
      else if st.tagFull w.tagOf then s.waitHere key 0
      else if s.berthHead (coreOf key) n d then
        let x := s.senseEntry key d
        let p := x.1.popBerth key n d
        if w.a = w.d then
          let f := p.2.takeFree
          f.2.launchSimple key 0x52 1 2 .berth .plain w.tagOf [w.a] (.reg key w.a f.1 :: (bad ++ x.2))
        else p.2.launchSimple key 0x52 1 2 .berth .plain w.tagOf [w.a, w.d] (.reg key w.a p.1 :: .reg key w.d 1 :: (bad ++ x.2))
      else s.launchSimple key 0x52 1 2 .berth .plain w.tagOf [w.d] (.reg key w.d 0 :: bad) [(s.berthAddr (coreOf key) n, 16)]

/-- BCOUNT: xA := the occupancy; never waits (R155). -/
def fxBcount (w : Word0) (key : Nat) (s : State) : Issued :=
  let st := s.strand key
  if st.blocked [w.b] || st.tagFull w.tagOf then s.waitHere key 0
  else
    withBerth key (berthNo w st) s fun s d bad =>
      s.launchSimple key 0x53 1 2 .berth .plain w.tagOf [w.a] (.reg key w.a (BitVec.ofNat 64 (berthOcc d)) :: bad)
        [(s.berthAddr (coreOf key) (berthNo w st), 16)]

/-! ### Locks -/

/-- An entry to lock IMM[5:0], round xB, side band xC: its checks, a park two rounds ahead, else `enter` on the home lock (R155). -/
def lockOp (w : Word0) (arrive : Bool) (key : Nat) (s : State) (enter : Nat → Nat → W64 → Issued) : Issued :=
  let st := s.strand key
  if st.blocked w.bc then s.holdHere key
  else
    let lk := 64 * coreOf key + w.f 5 0
    let hk := s.homeKey lk
    let m := (st.x w.b).toNat
    let r := s.lockRound lk
    let side := st.x w.c
    if s.expected lk = 0 then s.faultIssue key 0x0E
    else if m < r ∨ r + 2 < m then s.faultIssue key 0x0F
    else if st.tagFull w.tagOf then s.holdHere key
    else if m = r + 2 then
      let core := coreOf key
      let s := s.count (.seqCount (coreFin key)) 63 48 1
      let s := if s.strict then s.raise (causeEvent 3 (.seqCause (coreFin key)) 2 (srcCore core) [w.f 5 0, m, ctxOf key]) else s
      let tag := if arrive then w.tagOf else none
      let p := s.waitOn key w.sched (.parked hk m w.a side arrive tag)
      let st := p.s.strand key
      let st := match tag with
        | some t => { st with tags := Tab.set 0 st.tags t (st.tag t + 1) }
        | none => st
      ⟨p.s.setStrand key { st with status := .parked }, false⟩
    else if s.expected hk ≤ s.chamber hk (m % 2) then s.faultIssue key 0x10
    else enter hk m side

/-- LENTER: enters a round and waits for its opening; xA := the round's side band (R164). -/
def fxLenter (w : Word0) (key : Nat) (s : State) : Issued :=
  lockOp w false key s fun hk m side =>
    let p := s.waitOn key w.sched (.lock hk m w.a)
    ⟨p.s.lockEntry hk m side, false⟩

/-- LARRIVE: as LENTER, without waiting (R155). -/
def fxLarrive (w : Word0) (key : Nat) (s : State) : Issued :=
  lockOp w true key s fun hk m side =>
    (s.lockEntry hk m side).launchSimple key 0x59 1 2 .lock .plain w.tagOf [] []

/-- LWAIT: waits until ROUND > xB; xA := LOCK_SIDEBAND_n (R155). -/
def fxLwait (w : Word0) (key : Nat) (s : State) : Issued :=
  let st := s.strand key
  if st.blocked [w.b] then s.holdHere key
  else
    let lk := 64 * coreOf key + w.f 5 0
    let m := (st.x w.b).toNat
    if s.expected lk = 0 then s.faultIssue key 0x0E
    else if st.tagFull w.tagOf then s.holdHere key
    else if m < s.lockRound lk then s.endGroup key ((st.setX w.a (s.reg (.lockSideband (lockCore lk) (lockNo lk)))).past 1)
    else s.waitOn key w.sched (.opened (s.homeKey lk) m)

/-! ### Signal counters and fences -/

/-- The key of signal counter xB + IMM[9:0], or none beyond 1,023 (R155). -/
def signalKey (w : Word0) (key : Nat) (st : Strand) : Option Nat :=
  let n := (st.x w.b + BitVec.ofNat 64 (w.f 9 0)).toNat
  if n < 1024 then some (1024 * coreOf key + n) else none

/-- SIGADD: adds xC at its visibility boundary, 2 steps on (R162). -/
def fxSigadd (w : Word0) (key : Nat) (s : State) : Issued :=
  let st := s.strand key
  if st.blocked w.bc then s.waitHere key 0
  else match signalKey w key st with
    | none => s.faultIssue key 0x0C
    | some k =>
      if st.tagFull w.tagOf then s.waitHere key 0
      else s.launchSimple key 0x5B 1 2 .signal .plain w.tagOf [] [.signal k (st.x w.c)]

/-- SIGWAIT: waits until the counter, read as unsigned, is at least xC (R162). -/
def fxSigwait (w : Word0) (key : Nat) (s : State) : Issued :=
  let st := s.strand key
  if st.blocked w.bc then s.holdHere key
  else match signalKey w key st with
    | none => s.faultIssue key 0x0C
    | some k =>
      if st.tagFull w.tagOf then s.holdHere key
      else if (st.x w.c).toNat ≤ (Tab.get 0 s.signals k).toNat then s.endGroup key (st.past 1) else s.waitHere key w.sched

/-- Whether a local address lies in a pad or in the gallery. -/
def onDieAddr (a : Nat) : Bool := decide (0x20000000000 ≤ a) && decide (a < 0x20050000000)

/-- Whether an effect writes a pad or the gallery. -/
def Effect.writesOnDie : Effect → Bool
  | .mem a _ => onDieAddr a
  | .memBits a _ _ => onDieAddr a
  | .berthEntry _ _ _ => true
  | .sum _ _ _ _ => true
  | .padCount _ _ => true
  | .atomic _ _ a _ _ _ => onDieAddr a
  | .stepTag a => onDieAddr a
  | _ => false

/-- Whether an operation is a pad or gallery write: one that waits for its units writes what its kind says. -/
def InFlight.writesOnDie (o : InFlight) : Bool :=
  o.kind == .localWrite && (o.later.isSome || o.effects.any Effect.writesOnDie)

/-- The number below which lie the operations that a FENCE orders: those issued before it (R170). -/
def State.fenceMark (s : State) (st : Strand) : Nat :=
  match st.wait with
  | some { kind := .fenced n, .. } => n
  | _ => s.nextOp

/-- The condition of a FENCE scope over the operations numbered below `next` (R170). A class F operation is in flight until its acknowledgement covers it
(R273), so FABRIC adds nothing to STRAND here. -/
def State.fenced (s : State) (key scope next : Nat) : Bool :=
  let own := s.ops.all fun o => o.strand != key
  let core := s.ops.all fun o => !(o.core == coreOf key && (decide (o.id < next) && o.writesOnDie))
  own && (scope != 1 || core)

/-- FENCE (R170). -/
def fxFence (w : Word0) (key : Nat) (s : State) : Issued :=
  let n := s.fenceMark (s.strand key)
  if w.f 1 0 = 3 then s.faultIssue key 0x01
  else if (s.strand key).tagFull w.tagOf then s.holdHere key
  else if s.fenced key (w.f 1 0) n then s.endGroup key ((s.strand key).past 1) else s.waitOn key w.sched (.fenced n)

/-! ### The rows -/

def execBpush (st : StrandRef) (w : Word0) (s : State) : Host.Outcome State Fault Refusal := runRow st (fxBpush w) s
def execBpop (st : StrandRef) (w : Word0) (s : State) : Host.Outcome State Fault Refusal := runRow st (fxBpop w) s
def execBtry (st : StrandRef) (w : Word0) (s : State) : Host.Outcome State Fault Refusal := runRow st (fxBtry w) s
def execBcount (st : StrandRef) (w : Word0) (s : State) : Host.Outcome State Fault Refusal := runRow st (fxBcount w) s
def execLenter (st : StrandRef) (w : Word0) (s : State) : Host.Outcome State Fault Refusal := runRow st (fxLenter w) s
def execLarrive (st : StrandRef) (w : Word0) (s : State) : Host.Outcome State Fault Refusal := runRow st (fxLarrive w) s
def execLwait (st : StrandRef) (w : Word0) (s : State) : Host.Outcome State Fault Refusal := runRow st (fxLwait w) s
def execSigadd (st : StrandRef) (w : Word0) (s : State) : Host.Outcome State Fault Refusal := runRow st (fxSigadd w) s
def execSigwait (st : StrandRef) (w : Word0) (s : State) : Host.Outcome State Fault Refusal := runRow st (fxSigwait w) s
def execFence (st : StrandRef) (w : Word0) (s : State) : Host.Outcome State Fault Refusal := runRow st (fxFence w) s

end Sys2Proof.Machine
end

