-- ==== Sys2Proof/Machine/FabIssue.lean ====
section
/-! DEFINITION. Class F of SSI-2 (R266–R274): remote stores, loads, atomics, signals and pushes as they issue, and their local forms. -/

namespace Sys2Proof.Machine

/-- The largest number of operations outstanding on a core's fabric issue port (R142). -/
def fabricLimit : Nat := 32

/-- FABRIC_FAULT with its subcause (R274). -/
def State.fabricFault (s : State) (key sub : Nat) : Issued := s.faultIssueWith key 0x12 [sub]

/-- What makes a flow unfit for a class F instruction: subcauses 0x01 and 0x02 of R274. -/
def State.flowFault (s : State) (flow : Nat) : Option Nat :=
  let f := s.flow flow
  if 65536 ≤ flow ∨ f.role ≠ 1 ∨ f.broken ∨ f.ackCarrier then some 1 else if !s.inHall f.peerChip then some 2 else none

/-- Whether a strand's class F operation can be accepted now (R141, R142). -/
def State.fabReady (s : State) (key : Nat) (tag : Option Nat) : Bool :=
  !(s.strand key).tagFull tag && decide (s.outstanding (coreOf key) .fabric < fabricLimit)

/-- The fields of FST and FLD (R267). -/
structure FabArgs where
  dst   : W64
  dt    : Nat
  src   : W64
  st    : Nat
  t     : Nat
  rows  : Nat
  cols  : Nat
  tr    : Bool
  flow  : Nat
  deriving DecidableEq, Repr

/-! ### FST -/

/-- The pattern and group axis with which a stencilled destination tile is sent: those of the source tile, DENSE for a source without a
stencil (R268; log entry 24). -/
def State.sentPattern (s : State) (v : View) (tile : Nat) : Nat × Bool := s.tilePattern v tile

/-- The stencil entry of a stencilled destination tile before its blocks are computed: its region at 16 × n × image size (R268). -/
def sentEntry (d : View) (tile : Nat) (pat : Nat × Bool) : Nat :=
  16 * tile * imageSize (elemFmtOf d.man.format) pat.1 % 2 ^ 48 + pat.1 * 2 ^ 88 + (if pat.2 then 2 ^ 90 else 0)

/-- The state that stands for a peer in a work: no memory of this chip. -/
def State.blank (s : State) : State := { s with mem := [], poison := [], regs := [] }

/-- The work that forms a destination tile at the peer: on the peer's memory (R65, R70), with the tile's entry in place. -/
def State.peerWork (s : State) (core : Nat) (d : View) (tile : Nat) (pat : Nat × Bool) : Work :=
  let a := d.stencilAddr (tileIndex d.stored (d.loc (tileOrigin d.ext tile)))
  if d.man.stencilled then { Work.start (s.blank.store a (leBytes 16 (sentEntry d tile pat))) core with peer := some (d.chip, s.boundary, a) }
  else { Work.start s.blank core with peer := some (d.chip, s.boundary, 2 ^ 60) }

/-- Whether the encodings of a tile are sent unchanged (R192, R268). -/
def sentUnchanged (d v : View) (pat : Nat × Bool) (tr : Bool) : Bool :=
  d.man.format == v.man.format && !(tr && (scaleFmtOf v.man.format != 0 || pat.1 != 0)) && (d.man.stencilled || pat.1 == 0)

/-- What an FST has formed: the work of its reads, the counts of its writes, its cells as runs of bytes with a poison mark, palette tiles. -/
structure Sent where
  w     : Work
  cells : List (Nat × List Byte × Bool)
  pal   : Nat
  deriving DecidableEq, Repr

/-- Cuts a run of bytes at 256-byte boundaries (R261); at most `fuel` pieces. -/
def cutRun : Nat → Nat → List Byte → List (Nat × List Byte)
  | 0, _, _ => []
  | fuel + 1, a, bs =>
    let room := 256 - a % 256
    match bs with
    | [] => []
    | bs => (a, bs.take room) :: cutRun fuel (a + room) (bs.drop room)

/-- The STORE cells of the bytes that a work writes, in increasing address. A byte that the tile shares with its neighbours carries theirs as it stands at
the peer (R65). -/
def Work.storeCells (w : Work) : List (Nat × List Byte × Bool) :=
  let runs := gatherRuns (w.writes.map fun e => (e.1, if e.2.1 = 0xFF then e.2.2 else w.byteAt e.1))
  (runs.flatMap fun r => cutRun (r.2.length + 1) r.1 r.2).map fun c =>
    (c.1, c.2, w.wrPoison.any fun u => decide (u < c.1 + c.2.length) && decide (c.1 < u + unitLen u))

/-- Forms tile `n` of an FST. One whose encodings are sent unchanged decodes nothing (R68). -/
def Sent.tile (x : Sent) (s : State) (core : Nat) (d v : View) (a : FabArgs) (n : Nat) : Sent :=
  let pat := s.sentPattern v (a.st + n)
  let r := { x.w with valuePad := false }.readTile v (a.st + n) a.rows a.cols a.tr
  let same := sentUnchanged d v pat a.tr && !r.2.valuePad
  let es := if same then r.1 else r.1.map fun e => { e with raw := none }
  let p := (s.peerWork core d (a.dt + n) pat).writeTile d (a.dt + n) es
  let w := { r.2 with clipped := r.2.clipped + p.clipped, firstClip := if r.2.firstClip.isSome then r.2.firstClip else p.firstClip,
                      sat := r.2.sat + p.sat, infSat := r.2.infSat + p.infSat, nanBlocks := r.2.nanBlocks + p.nanBlocks,
                      invalid := (if same then x.w.invalid else r.2.invalid) ++ p.invalid, events := r.2.events ++ p.events, overflows := r.2.overflows + p.overflows,
                      truncs := r.2.truncs + p.truncs }
  { w := w, cells := x.cells ++ p.storeCells, pal := x.pal + if same then 0 else 1 }

/-- Queues STORE cells on a flow and answers the last sequence number. -/
def State.sendStores (s : State) (flow ready : Nat) (cells : List (Nat × List Byte × Bool)) : State :=
  cells.foldl (fun s c => s.sendCell flow 0x01 (if c.2.2 then 1 else 0) c.1 0 c.2.1 ready) s

/-- The last sequence number that a flow has reserved. -/
def State.lastSeq (s : State) (flow : Nat) : Nat := ((s.flow flow).seq + 2 ^ 32 - 1) % 2 ^ 32

/-- Launches a class F operation that has issued at `s`: what its visibility waits for decides it (R273). -/
def State.fabLaunch (s : State) (key opcode words : Nat) (tag : Option Nat) (regs : List Nat) (kind : OpKind) (vis : Nat) (remote : RemoteWait)
    (effects : List Effect) (reads : List (Nat × Nat) := []) (rated : Nat := 0) : Issued :=
  s.launch key
    { opcode := opcode, words := words, engine := .fabric, kind := kind, tag := tag, regs := regs, start := s.boundary, vis := vis,
      later := none, effects := effects, remote := remote, reads := reads, rated := rated }

/-- The views of a class F transfer: one side on this chip, the other at the peer. -/
def State.fabViews (s : State) (core : Nat) (a : FabArgs) (peer : Nat) (load : Bool) : Except Nat (View × View) :=
  let remote (r : W64) (u : Usage) : Except Nat View :=
    if 2 ^ 24 ≤ r.toNat then .error 0x01
    else match s.manifestOn core r.toNat with
      | none => .error 0x04
      | some m => if u.forbidden m.use then .error 0x14 else .ok (s.viewFor peer r.toNat m)
  let d := if load then s.operand core a.dst .writes else remote a.dst .writes
  let v := if load then remote a.src .reads else s.operand core a.src .reads
  match d, v with
  | .error c, _ => .error c
  | _, .error c => .error c
  | .ok d, .ok v => .ok (d, v)

/-- FST to another chip (R268). -/
def State.fstRemote (s : State) (key opcode words : Nat) (tag : Option Nat) (a : FabArgs) : Issued :=
  let core := coreOf key
  let peer := (s.flow a.flow).peerChip
  match s.fabViews core a peer false with
  | .error c => s.faultOp key c 0 [a.dst.toNat, a.src.toNat]
  | .ok (d, v) =>
    if d.man.empty || v.man.empty then s.noopIssue key words
    else if !d.tilesHeld a.dt a.t false then s.fabricFault key 3
    else if !v.tilesHeld a.st a.t true then s.faultOp key 0x13 0 [v.num, a.st]
    else if !s.fabReady key tag then s.waitHere key 0
    else
      let form (w : Work) : Sent := (List.range a.t).foldl (fun x n => x.tile w.s core d v a n) { w := w, cells := [], pal := 0 }
      let x := s.runWork core fun w => (form w).w
      let r := form (Work.start (x.1.readBase core x.2) core)
      if decide (r.pal ≠ 0) && !s.pipeIdle core 1 then s.waitHere key 0
      else
        let steps := s.readSide core v.man.allocBase r.w
        let extra := 16 * r.pal + 8 * s.copyTurns d v a.st a.t a.tr
        match x.1.rate x.1.nextOp core s.boundary steps extra r.w.readUses [] with
        | none => s.faultIssue key 0x17
        | some q =>
          let s := q.2
          let vis := s.visibleAt s.boundary q.1
          let s := if r.pal = 0 then s else s.holdPipe core 1 vis
          let s := s.sendStores a.flow (s.boundary * 1000 + q.1) r.cells
          let fx := { r.w with writes := [], sums := [], wrPoison := [] }.effects key ((s.strand key).pc.toNat) false
          let wait : RemoteWait := if r.cells.isEmpty then .none else .ack a.flow (s.lastSeq a.flow)
          s.fabLaunch key opcode words tag [] .fabricWrite vis wait fx r.w.readSpans q.1

/-- FST: a no-op, its faults, the local form at the chip itself, or cells (R154, R266, R268, R274). -/
def State.fst_ (s : State) (key opcode words : Nat) (w : Word0) (a : FabArgs) : Issued :=
  if a.t = 0 ∨ a.rows = 0 ∨ a.cols = 0 then s.noopIssue key words
  else if 128 < a.rows ∨ 128 < a.cols then s.faultIssue key 0x01
  else match s.flowFault a.flow with
    | some sub => s.fabricFault key sub
    | none =>
      if (s.flow a.flow).peerChip = s.fab.chip then s.dcopy key opcode words w a.dst a.src a.dt a.st a.t a.rows a.cols a.tr
      else s.fstRemote key opcode words w.tagOf a

/-- The fields of FST and FLD as a strand issues them. -/
def fabArgs (w : Word0) (w1 : W64) (st : Strand) : FabArgs :=
  { dst := st.x w.a, dt := (st.x w.b).toNat, src := st.x w.c, st := (st.x w.d).toNat, t := w.f 28 12, rows := fieldOf w1 63 56,
    cols := fieldOf w1 55 48, tr := bitOf w.imm.toNat 11, flow := fieldOf w1 47 32 }

/-- FST (R267). -/
def fxFst (w : Word0) (w1 : W64) (key : Nat) (s : State) : Issued :=
  let st := s.strand key
  if st.blocked [w.a, w.b, w.c, w.d] then s.waitHere key 0 else s.fst_ key 0x40 2 w (fabArgs w w1 st)

/-- RST of SSI-1: an FST of whole tiles (R486). -/
def fxRst (w : Word0) (w1 : W64) (key : Nat) (s : State) : Issued :=
  let st := s.strand key
  if st.blocked [w.a, w.b, w.c, w.d] then s.waitHere key 0
  else s.fst_ key 0x98 2 w { fabArgs w w1 st with tr := false, rows := 128, cols := 128 }

/-! ### FLD -/

/-- The source element of an FLD at a stored index: its bit number at the peer, or none at a position that is pruned or in an absent or malformed block,
which reads as +0 (R111, R115). The peer's stencil entry and pair codes are the peer's (log entry 77). -/
def Work.fldSrc (w : Work) (v : View) (l : List Int) : Option Int × Work :=
  if v.man.stencilled then
    let r := w.openTile v (tileIndex v.stored l)
    let y := (l.getD 1 0).toNat % 128
    let x := (l.getD 0 0).toNat % 128
    let src := r.1.getD (4 * (y / 32) + x / 32) .zero
    (src.elemBit v.bits (y % 32) (x % 32), r.2.imageMoved v src)
  else (some (v.bitAt l), w)

/-- The bit number of an element of a destination at a stored index; a stencilled view has room for the present blocks of the entry `e` of its tile. -/
def View.fldBit (v : View) (e : Nat) (l : List Int) : Option Int :=
  if v.man.stencilled then
    let y := (l.getD 1 0).toNat % 128
    let x := (l.getD 0 0).toNat % 128
    let q := 4 * (y / 32) + x / 32
    if stencilPresent e q && stencilPattern e == 0 then (BlockSrc.dense (v.imageAddr e q)).elemBit v.bits (y % 32) (x % 32) else none
  else some (v.bitAt l)

/-- The bytes of an element at a bit number, of `bits` bits. -/
def elemBytes (bit : Int) (bits : Nat) : List Nat :=
  let a := bit.toNat / 8
  (List.range (ceilDiv (bit.toNat % 8 + bits) 8)).map fun i => a + i

/-- The address of the scale byte of a position's block, by the companion's record (R178). -/
def State.scaleAt (s : State) (core chip : Nat) (v : View) (p : List Int) : Option Nat :=
  if scaleFmtOf v.man.format = 0 || v.blockOutside p then none
  else match s.manifestOn core v.man.scaleMan with
    | none => none
    | some m =>
      let c := s.viewFor chip v.man.scaleMan m
      some ((c.bitAt (c.loc (v.blockPos p))).toNat / 8)

/-- The local stencil entry of a tile, or zero. -/
def State.entryOfTile (s : State) (v : View) (tile : Nat) : Nat :=
  if v.man.stencilled then leNat (s.readBytes (v.stencilAddr (tileIndex v.stored (v.loc (tileOrigin v.ext tile)))) 16) else 0

/-- What an FLD has resolved: the byte map of its cells, pairs of a source and a destination address, what it writes of itself (R111, R269), and what it has
read of the peer's stencil maps. -/
structure FldPlan where
  w     : Work
  peer  : Work
  pairs : List (Nat × Nat)
  deriving DecidableEq, Repr

/-- One position of a tile of an FLD (R269; log entry 25); `e` places the images of a stencilled destination. What reads as +0 at the source is written as +0
(R111). -/
def FldPlan.pos (x : FldPlan) (core chip : Nat) (d v : View) (a : FabArgs) (n e : Nat) (c : Nat × Nat) : FldPlan :=
  let s := x.w.s
  let dp := posAt (tileOrigin d.ext (a.dt + n)) c.1 c.2
  let so := tileOrigin v.ext (a.st + n)
  let sp := v.edge (v.clamp (if a.tr then posAt so c.2 c.1 else posAt so c.1 c.2))
  if !d.inside dp then x
  else match d.fldBit e (d.loc dp) with
    | none => x
    | some db =>
      let r := x.peer.fldSrc v (v.loc sp)
      let x := { x with peer := r.2 }
      match r.1 with
      | none => { x with w := x.w.putBits db d.bits 0 false }
      | some sb =>
        let scale := match s.scaleAt core chip v sp, s.scaleAt core s.fab.chip d dp with
          | some p, some q => [(p, q)]
          | _, _ => []
        { x with pairs := x.pairs ++ (elemBytes sb d.bits).zip (elemBytes db d.bits) ++ scale }

/-- Between two stencilled tensors the packed images of the present blocks that the region reaches move as they are, and the tile's entry with them (R111). -/
def fldImages (d v : View) (a : FabArgs) (n e : Nat) : List (Nat × Nat) :=
  let run (p q len : Nat) : List (Nat × Nat) := (List.range len).map fun i => (p + i, q + i)
  let entry (x : View) (tile : Nat) : Nat := x.stencilAddr (tileIndex x.stored (x.loc (tileOrigin x.ext tile)))
  if !(d.man.stencilled && v.man.stencilled) || a.tr then []
  else
    let reached (q : Nat) : Bool := stencilPresent e q && decide (32 * (q / 4) < a.rows) && decide (32 * (q % 4) < a.cols)
    let images := if stencilPattern e = 0 then [] else
      ((List.range 16).filter reached).flatMap fun q =>
        run (v.imageAddr e q) (d.imageAddr e q) (imageSize (elemFmtOf d.man.format) (stencilPattern e))
    images ++ run (entry v (a.st + n)) (entry d (a.dt + n)) 16

/-- The entry by which a tile's images are found: between two stencilled tensors the source's, which moves with them (R111), else the destination's own. -/
def FldPlan.entry (x : FldPlan) (d v : View) (dt vt : Nat) : Nat :=
  if v.man.stencilled then (x.peer.getMany (v.stencilAddr (tileIndex v.stored (v.loc (tileOrigin v.ext vt)))) 16).1 else x.w.s.entryOfTile d dt

/-- One tile of an FLD. -/
def FldPlan.tile (x : FldPlan) (core chip : Nat) (d v : View) (a : FabArgs) (n : Nat) : FldPlan :=
  let e := x.entry d v (a.dt + n) (a.st + n)
  let y := (cells a.rows a.cols).foldl (fun y c => FldPlan.pos y core chip d v a n e c) x
  { y with pairs := y.pairs ++ fldImages d v a n e }

/-- The work of an FLD with what its reads of the peer's stencil maps count and raise (R115). -/
def FldPlan.work (x : FldPlan) : Work :=
  { x.w with events := x.w.events ++ x.peer.events, idxRange := x.w.idxRange + x.peer.idxRange, poisReads := x.w.poisReads + x.peer.poisReads,
             fault := x.w.fault.orElse fun _ => x.peer.fault }

/-- Joins pairs of addresses into entries of consecutive bytes that cross no 256-byte boundary on either side (R269). -/
def fldRuns : List (Nat × Nat) → List (Nat × Nat × Nat)
  | [] => []
  | (a, b) :: rest =>
    match fldRuns rest with
    | (a', b', n) :: more =>
      if a + 1 = a' ∧ b + 1 = b' ∧ a' % 256 ≠ 0 ∧ b' % 256 ≠ 0 then (a, b, n + 1) :: more else (a, b, 1) :: (a', b', n) :: more
    | [] => [(a, b, 1)]

/-- Groups of 16 entries; at most `fuel` of them. -/
def groupsOf {α : Type} (n : Nat) : Nat → List α → List (List α)
  | 0, _ => []
  | _, [] => []
  | fuel + 1, l => l.take n :: groupsOf n fuel (l.drop n)

/-- The payload of a LOAD_REQ (R269): bits [49:42] of the first word hold LEN − 1. -/
def loadPayload (es : List (Nat × Nat × Nat)) : List Byte :=
  es.flatMap fun e => leBytes 8 (e.1 % 2 ^ 42 + (e.2.2 - 1) * 2 ^ 42) ++ leBytes 8 (e.2.1 % 2 ^ 42)

/-- FLD from another chip (R269). -/
def State.fldRemote (s : State) (key : Nat) (tag : Option Nat) (a : FabArgs) : Issued :=
  let core := coreOf key
  let peer := (s.flow a.flow).peerChip
  match s.fabViews core a peer true with
  | .error c => s.faultOp key c 0 [a.dst.toNat, a.src.toNat]
  | .ok (d, v) =>
    if d.man.empty || v.man.empty then s.noopIssue key 2
    else if !v.tilesHeld a.st a.t true then s.fabricFault key 3
    else if !d.tilesHeld a.dt a.t false then s.faultOp key 0x13 0 [d.num, a.dt]
    else if !s.fabReady key tag then s.waitHere key 0
    else
      let there : Work := { Work.start s.blank core with peer := some (peer, s.boundary, 2 ^ 60) }
      let x := (List.range a.t).foldl (fun x n => FldPlan.tile x core peer d v a n) { w := Work.start s core, peer := there, pairs := [] }
      let entries := fldRuns x.pairs
      let send (s : State) (es : List (Nat × Nat × Nat)) : State :=
        s.sendCell a.flow 0x02 0 0 0 (loadPayload es) (s.boundary * 1000)
      let s := (groupsOf 16 (entries.length + 1) entries).foldl send s
      s.fabLaunch key 0x41 2 tag [] .localWrite s.boundary (.loads (entries.map fun e => e.2.1)) (x.work.effects key (s.strand key).pc.toNat false)

/-- FLD (R267, R269, R274). -/
def fxFld (w : Word0) (w1 : W64) (key : Nat) (s : State) : Issued :=
  let st := s.strand key
  let a := fabArgs w w1 st
  if st.blocked [w.a, w.b, w.c, w.d] then s.waitHere key 0
  else if a.t = 0 ∨ a.rows = 0 ∨ a.cols = 0 then s.noopIssue key 2
  else if 128 < a.rows ∨ 128 < a.cols then s.faultIssue key 0x01
  else match s.flowFault a.flow with
    | some sub => s.fabricFault key sub
    | none =>
      if (s.flow a.flow).peerChip = s.fab.chip then s.dcopy key 0x41 2 w a.dst a.src a.dt a.st a.t a.rows a.cols a.tr
      else s.fldRemote key w.tagOf a

/-! ### FATOM -/

/-- FATOM (R267, R270). At the chip itself it runs as an access of the on-die network, rated as a read of 8 bytes. -/
def fxFatom (w : Word0) (w1 : W64) (key : Nat) (s : State) : Issued :=
  let st := s.strand key
  let core := coreOf key
  let flow := fieldOf w1 47 32
  let op := fieldOf w1 3 0
  let addr := (st.x w.b).toNat
  if st.blocked [w.b, w.c, w.d] then s.waitHere key 0
  else match s.flowFault flow with
    | some sub => s.fabricFault key sub
    | none =>
      if addr % 8 ≠ 0 ∨ 2 ^ 42 ≤ addr ∨ 8 ≤ op then s.fabricFault key 4
      else if !s.fabReady key w.tagOf then s.waitHere key 0
      else if (s.flow flow).peerChip = s.fab.chip then
        let lines := if addr < 0x10000000000 then [(addr / 256, 2)] else []
        match s.rate s.nextOp core s.boundary (s.readSteps core addr 8 (s.acrossSeam core addr)) 0 [] lines with
        | none => s.faultIssue key 0x17
        | some q =>
          q.2.fabLaunch key 0x42 2 w.tagOf [w.a] .localWrite (q.2.visibleAt q.2.boundary q.1) .none [.atomic key w.a addr op (st.x w.c) (st.x w.d)]
            [(addr, 8)] q.1
      else
        let arg := BitVec.ofNat 64 (op + core * 2 ^ 4 + ctxOf key * 2 ^ 11 + w.a * 2 ^ 22)
        let s := s.sendCell flow 0x04 0 addr arg (leBytes 8 (st.x w.c).toNat ++ leBytes 8 (st.x w.d).toNat) (s.boundary * 1000)
        s.fabLaunch key 0x42 2 w.tagOf [w.a] .fabricWrite s.boundary (.atomic w.a) []

/-! ### FSIG and FPUSH -/

/-- The ARG of a SIGNAL cell (R272). -/
def signalArg (counter covers rx : Nat) : W64 := BitVec.ofNat 64 (counter % 1024 + covers % 2 ^ 32 * 2 ^ 16 + rx % 65536 * 2 ^ 48)

/-- The steps of a local signal or push to a core: two, and four more across the seam (R13, R202). -/
def State.nearSteps (s : State) (core target : Nat) : Nat := if s.coreHalf target = s.coreHalf core then 2 else 6

/-- FSIG (R267, R272). Bits of its target that R267 does not list are reserved (R146). -/
def State.fsig (s : State) (key opcode : Nat) (w : Word0) : Issued :=
  let st := s.strand key
  let flow := (st.x w.b).toNat
  let cover := w.f 15 0
  let target := (st.x w.d).toNat
  if st.blocked [w.b, w.c, w.d] then s.waitHere key 0
  else if 2 ^ 23 ≤ target ∨ bitsOf target 15 10 ≠ 0 then s.faultIssue key 0x01
  else match s.flowFault flow with
    | some sub => s.fabricFault key sub
    | none =>
      let f := s.flow flow
      let c := s.flow cover
      if c.role ≠ 1 ∨ c.peerChip ≠ f.peerChip then s.fabricFault key 5
      else if !s.fabReady key w.tagOf then s.waitHere key 0
      else if f.peerChip = s.fab.chip then
        s.fabLaunch key opcode 1 w.tagOf [] .plain (s.visibleAt s.boundary (s.stepsPs (s.nearSteps (coreOf key) (bitsOf target 22 16)))) .none
          [.signal (1024 * bitsOf target 22 16 + bitsOf target 9 0) (st.x w.c)]
      else
        let arg := signalArg (bitsOf target 9 0) (s.lastSeq cover) c.peerFlow
        let s := s.sendCell flow 0x06 0 (bitsOf target 22 16 * 2 ^ 42) arg (leBytes 8 (st.x w.c).toNat) (s.boundary * 1000)
        s.fabLaunch key opcode 1 w.tagOf [] .fabricWrite s.boundary (.ack flow (s.lastSeq flow)) []

def fxFsig (w : Word0) (key : Nat) (s : State) : Issued := s.fsig key 0x43 w

/-- RSIG of SSI-1: an FSIG (R486). -/
def fxRsig (w : Word0) (key : Nat) (s : State) : Issued := s.fsig key 0x99 w

/-- FPUSH (R267, R271). At the chip itself it is a push to the berth that the peer context names, and a full berth makes the strand wait. -/
def fxFpush (w : Word0) (key : Nat) (s : State) : Issued :=
  let st := s.strand key
  let flow := (st.x w.b).toNat
  if st.blocked w.bc then s.holdHere key
  else match s.flowFault flow with
    | some sub => s.fabricFault key sub
    | none =>
      let f := s.flow flow
      if !s.fabReady key w.tagOf then s.holdHere key
      else if f.peerChip = s.fab.chip then
        let r := s.flow f.peerFlow
        let at_ := s.berthAddr r.proxy r.berth
        let u := s.sense at_ 16
        let d := u.berth r.proxy r.berth
        if berthDepth d = 0 then s.faultIssue key 0x0C
        else if berthDepth d ≤ berthOcc d + s.popsNow r.proxy r.berth then s.waitHere key w.sched
        else
          let bad := poisonFault (u.poisonedRange at_ 16) key st.pc.toNat
          let u := (u.setBerth r.proxy r.berth (withBits d 127 96 ((berthPushed d + 1) % 2 ^ 32))).bookIssue (coreOf key) (ctxOf key) .fabric
            [(at_, 16)] [(at_, 16)]
          u.fabLaunch key 0x44 1 w.tagOf [] .plain (u.visibleAt u.boundary (u.stepsPs (u.nearSteps (coreOf key) r.proxy))) .none
            (.berthEntry (4096 * r.proxy + r.berth) (berthEntry r.proxy d (berthPushed d)) (st.x w.c) :: bad)
      else if f.credits = 0 then s.waitHere key w.sched
      else
        let s := s.setFlow flow { f with credits := f.credits - 1 }
        let s := s.sendCell flow 0x07 0 0 0 (leBytes 8 (st.x w.c).toNat) (s.boundary * 1000)
        s.fabLaunch key 0x44 1 w.tagOf [] .fabricWrite s.boundary (.ack flow (s.lastSeq flow)) []

/-! ### SSI-1 forms of class Q and Y (R486) -/

/-- QPUSH, QPOP and SWT are BPUSH, BPOP and SIGWAIT; FEN is a FENCE. -/
def fxQpush (w : Word0) : Nat → State → Issued := berthPush 0x91 w
def fxQpop (w : Word0) : Nat → State → Issued := berthPop 0x92 w
def fxSwt (w : Word0) : Nat → State → Issued := fxSigwait w
def fxFen (w : Word0) : Nat → State → Issued := fxFence w

/-- BAR is an LENTER with a side band of zero (R486). -/
def fxBar (w : Word0) : Nat → State → Issued := fxLenter { w with xc := 0 }

/-! ### The rows -/

def execFst (st : StrandRef) (w : Word0) (w1 : W64) (s : State) : Host.Outcome State Fault Refusal := runRow st (fxFst w w1) s
def execFld (st : StrandRef) (w : Word0) (w1 : W64) (s : State) : Host.Outcome State Fault Refusal := runRow st (fxFld w w1) s
def execFatom (st : StrandRef) (w : Word0) (w1 : W64) (s : State) : Host.Outcome State Fault Refusal := runRow st (fxFatom w w1) s
def execFsig (st : StrandRef) (w : Word0) (s : State) : Host.Outcome State Fault Refusal := runRow st (fxFsig w) s
def execFpush (st : StrandRef) (w : Word0) (s : State) : Host.Outcome State Fault Refusal := runRow st (fxFpush w) s
def execRst (st : StrandRef) (w : Word0) (w1 : W64) (s : State) : Host.Outcome State Fault Refusal := runRow st (fxRst w w1) s
def execRsig (st : StrandRef) (w : Word0) (s : State) : Host.Outcome State Fault Refusal := runRow st (fxRsig w) s
def execQpush (st : StrandRef) (w : Word0) (s : State) : Host.Outcome State Fault Refusal := runRow st (fxQpush w) s
def execQpop (st : StrandRef) (w : Word0) (s : State) : Host.Outcome State Fault Refusal := runRow st (fxQpop w) s
def execSwt (st : StrandRef) (w : Word0) (s : State) : Host.Outcome State Fault Refusal := runRow st (fxSwt w) s
def execFen (st : StrandRef) (w : Word0) (s : State) : Host.Outcome State Fault Refusal := runRow st (fxFen w) s
def execBar (st : StrandRef) (w : Word0) (s : State) : Host.Outcome State Fault Refusal := runRow st (fxBar w) s

end Sys2Proof.Machine
end

