-- ==== Sys2Proof/Machine/Feed.lean ====
section
/-! DEFINITION. Feed records (R78, R85–R87, R116–R118), band maps (R119, R120) and the feed fills of DFEED (R194, R195, R121). -/

namespace Sys2Proof.Machine

/-! ### Records -/

/-- The product slots of a pair of element formats; `none` for a pair outside the table of R78. -/
def pairSlots (a w : Nat) : Option Nat :=
  let fp8 (x : Nat) : Bool := x == 3 || x == 4
  let sub (x : Nat) : Bool := x == 5 || x == 6 || x == 7
  if (a = 1 ∧ w = 1) ∨ (a = 2 ∧ w = 2) then some 1
  else if (fp8 a && fp8 w) || (a == 8 && w == 8) then some 2
  else if sub a && sub w then some 4
  else none

/-- The layout of the records of a feed (R86, R87, R116): slots s, indices per step c, bytes of one A and one W vector, scale vectors of each
operand, group metadata vectors, and whether the operands are scaled ACROSS. -/
structure RecLayout where
  s       : Nat
  c       : Nat
  pattern : Nat
  aVec    : Nat
  wVec    : Nat
  aScales : Nat
  wScales : Nat
  aAcross : Bool
  wAcross : Bool
  aFmt    : BitVec 32
  wFmt    : BitVec 32
  deriving DecidableEq, Repr

/-- The scale vectors of an operand in a record (R87). -/
def scaleVectors (f : BitVec 32) (across : Bool) (c : Nat) : Nat :=
  if scaleFmtOf f = 0 then 0 else if across then c else ceilDiv c (blockSizeOf f)

/-- The record layout of two operand formats; `none` for a format pair without one (R79). -/
def recLayout (aFmt wFmt : BitVec 32) (pattern : Nat) (aAcross wAcross : Bool) : Option RecLayout :=
  match pairSlots (elemFmtOf aFmt) (elemFmtOf wFmt) with
  | none => none
  | some s =>
    let c := s * 2 ^ pattern
    some { s := s, c := c, pattern := pattern, aVec := 16 * elemBits (elemFmtOf aFmt), wVec := 16 * elemBits (elemFmtOf wFmt),
           aScales := scaleVectors aFmt aAcross c, wScales := scaleVectors wFmt wAcross c, aAcross := aAcross, wAcross := wAcross,
           aFmt := aFmt, wFmt := wFmt }

/-- Group length of the fine pattern along the reduction, 1 for DENSE. -/
def RecLayout.group (l : RecLayout) : Nat := if l.pattern = 0 then 1 else groupLen l.pattern

/-- Metadata vectors of a record (R116). -/
def RecLayout.metas (l : RecLayout) : Nat := if l.pattern = 0 then 0 else if l.s = 4 then 2 else 1

/-- The bytes of the A part with its scales, and of a lead record; parts are whole rows (R118). -/
def rowsUp (n : Nat) : Nat := ceilDiv n 128 * 128
def RecLayout.aBytes (l : RecLayout) : Nat := rowsUp (l.c * l.aVec)
def RecLayout.followBytes (l : RecLayout) : Nat := l.aBytes + 128 * l.aScales
def RecLayout.wAt (l : RecLayout) : Nat := l.followBytes
def RecLayout.metaAt (l : RecLayout) : Nat := l.wAt + rowsUp (l.s * l.wVec)
def RecLayout.wScaleAt (l : RecLayout) : Nat := l.metaAt + 128 * l.metas
def RecLayout.leadBytes (l : RecLayout) : Nat := l.wScaleAt + 128 * l.wScales

/-- The group of slot `t` of the step at original index `k0`, and the slot of its pair (R92, R117). -/
def RecLayout.slot (l : RecLayout) (k0 t : Nat) : Nat × Nat :=
  let g := l.group
  if l.c < g then (k0 / g, k0 % g / l.c) else (k0 / g + t / 2, t % 2)

/-- The key of a byte of an easel's feed half. -/
def feedKey (core easel half byte : Nat) : Nat := 131072 * (2 * (4 * core + easel) + half) + byte

/-- A feed byte. -/
def State.feedByte (s : State) (core easel half byte : Nat) : Nat := (Tab.get 0 s.feed (feedKey core easel half byte)).toNat

/-- Element `i` of a packed vector at a feed byte (R61). -/
def State.feedElem (s : State) (core easel half at_ bits i : Nat) : Nat :=
  let b := bits * i
  let n := ceilDiv (b % 8 + bits) 8
  let v := (List.range n).foldl (fun v j => v + s.feedByte core easel half (at_ + b / 8 + j) * 2 ^ (8 * j)) 0
  v / 2 ^ (b % 8) % 2 ^ bits

/-- Packs 128 encodings into a vector (R61). -/
def packVec (bits : Nat) (encs : List Nat) : List Byte :=
  leBytes (16 * bits) ((encs.foldl (fun (a : Nat × Nat) e => (a.1 + e % 2 ^ bits * 2 ^ (bits * a.2), a.2 + 1)) (0, 0)).1)

/-! ### Band maps -/

/-- The fed steps of an instruction: the original index at which each begins, and the band byte that covers it; every band is fully present
without a map (R119, R120). -/
def mapSteps (c : Nat) : Nat → Nat → List Nat → List (Nat × Nat)
  | _, 0, _ => []
  | _, _, [] => []
  | n, k + 1, b :: bs =>
    if b % 16 = 0 ∨ b / 16 % 16 = 0 then mapSteps c (n + 1) (k + 1) bs
    else
      let here := (List.range (32 / c)).map fun t => (32 * n + t * c, b)
      here.take (k + 1) ++ mapSteps c (n + 1) (k + 1 - here.length) bs

/-- The fed steps without a map. -/
def plainSteps (c k : Nat) : List (Nat × Nat) := (List.range k).map fun n => (n * c, 0xFF)

/-! ### Reading operands -/

/-- The tile of an operand that holds index `k` along the reduction axis. -/
def View.feedTile (v : View) (first : Nat) (axis1 : Bool) (k : Nat) : Nat :=
  first + k / 128 * (if axis1 then ceilDiv (max 1 (v.extent 0)) 128 else 1)

/-- The position of index `k` along the reduction axis and `i` along the other, in an operand whose first tile is `first` (R195). -/
def View.feedPos (v : View) (first : Nat) (axis1 : Bool) (k i : Nat) : List Int :=
  let o := tileOrigin v.ext (v.feedTile first axis1 k)
  if axis1 then posAt o (k % 128) i else posAt o i (k % 128)

/-- The tiles of an operand that reduction indices touch, each once. -/
def View.feedTiles (v : View) (first : Nat) (axis1 : Bool) (ks : List Nat) : List Nat :=
  (ks.foldl (fun m k => Marks.insert m (k / 128)) []).map fun j => v.feedTile first axis1 (128 * j)

/-- An element of a feed operand: its encoding, value and scale byte, and whether it is poisoned. -/
structure FeedElem where
  enc   : Nat
  val   : Val
  scale : Nat
  pois  : Bool := false
  deriving DecidableEq, Repr

/-- Reads the elements k, i = 0–127 of an operand. -/
def Work.feedRow (w : Work) (v : View) (first : Nat) (axis1 : Bool) (k : Nat) : List FeedElem × Work :=
  let sf := scaleFmtOf v.man.format
  let one (acc : List FeedElem × Work) (i : Nat) : List FeedElem × Work :=
    let p := v.feedPos first axis1 k i
    let e := acc.2.read v p
    let sc := if sf = 0 then (none, false, e.2) else e.2.scaleByte v p
    ({ enc := e.1.enc, val := e.1.val, scale := sc.1.getD (unitScale sf), pois := e.1.pois || sc.2.1 } :: acc.1, sc.2.2)
  let r := (List.range 128).foldl one ([], w)
  (r.1.reverse, r.2)

/-- Reads several reduction indices of an operand. -/
def Work.feedRows (w : Work) (v : View) (first : Nat) (axis1 : Bool) : List Nat → List (Nat × List FeedElem) × Work
  | [] => ([], w)
  | k :: ks =>
    let a := w.feedRow v first axis1 k
    let r := Work.feedRows a.2 v first axis1 ks
    ((k, a.1) :: r.1, r.2)

/-- The elements of an index that was read. -/
def rowOfIdx (rows : List (Nat × List FeedElem)) (k : Nat) : List FeedElem := (Tab.find? rows k).getD []

/-- Whether any of `n` reduction indices from `k` on was read poisoned. -/
def rowsPoisoned (rows : List (Nat × List FeedElem)) (k n : Nat) : Bool := (List.range n).any fun t => (rowOfIdx rows (k + t)).any fun e => e.pois

/-- A feed effect, and its poison mark where it is written from poisoned data (R217). -/
def fedPart (e : Effect) (bad : Bool) : List Effect := e :: poisonMarks bad [e]

/-- The block presence of a stencilled operand in the 32 indices of band `n`; all ones for an unstencilled one (R195). Each entry is read with the checks of
R115. A block that lies wholly in declared padding or beyond the edge takes the PRESENT bit of the block that holds the edge position that R183 reads for its
first index: R195 names no block for it (DESIGN CHOICE, log entry 67). -/
def Work.bandPresence (w : Work) (v : View) (first : Nat) (axis1 : Bool) (n : Nat) : Nat × Work :=
  if !v.man.stencilled then (0xF, w)
  else
    let one (acc : Nat × Work) (m : Nat) : Nat × Work :=
      let l := v.loc (v.edge (v.clamp (v.feedPos first axis1 (32 * n) (32 * m))))
      let t := tileIndex v.stored l
      let e := (acc.2.openTile v t).2.getMany (v.stencilAddr t) 16
      let q := (l.getD 1 0).toNat % 128 / 32 * 4 + (l.getD 0 0).toNat % 128 / 32
      (acc.1 + (if !stencilBad e.1 && stencilPresent e.1 q then 2 ^ m else 0), e.2.2)
    (List.range 4).foldl one (0, w)

/-- Walks bands until K steps are fed: the band map that the fill writes. -/
def Work.walkBands (c : Nat) (pres : Work → Nat → Nat × Work) : Nat → Nat → Nat → Work → List Nat × Work
  | 0, _, _, w => ([], w)
  | _, _, 0, w => ([], w)
  | fuel + 1, n, k + 1, w =>
    let b := pres w n
    let fed := if b.1 % 16 = 0 ∨ b.1 / 16 = 0 then 0 else 32 / c
    let r := Work.walkBands c pres fuel (n + 1) (k + 1 - fed) b.2
    (b.1 :: r.1, r.2)

/-! ### W in a sparse feed -/

/-- The kept element of each slot of a group column, and its pair code. -/
structure Packed where
  pair : Nat × Nat
  e0   : FeedElem
  e1   : FeedElem
  deriving DecidableEq, Repr

/-- Re-encodes a 32 × 32 block of W along the reduction by R112 with COUNT and R113: for each group and column, the pair and its elements;
`none` for an overfull block in STRICT. The number is the groups trimmed. -/
def packBlock (strict : Bool) (pattern code : Nat) (rows : List (Nat × List FeedElem)) (k0 j0 : Nat) : Option (List (Nat × Nat × Packed)) × Nat :=
  let el (y x : Nat) : FeedElem := (rowOfIdx rows (k0 + y)).getD (j0 + x) { enc := 0, val := .fin false 0 0, scale := 0 }
  let all : BlockVals := (cells 32 32).map fun c =>
    let e := el c.1 c.2
    (c.1, c.2, { r := c.1, q := c.2, val := e.val, nz := !zeroEnc code e.enc, pois := false, raw := none })
  let zero : FeedElem := { enc := 0, val := .fin false 0 0, scale := 0 }
  let len := groupLen pattern
  let table (kept : BlockVals) (pairs : List (Nat × Nat)) : List (Nat × Nat × Packed) :=
    (List.range (groupCount pattern)).flatMap fun g => (List.range 32).map fun x =>
      let p := pairs.getD (32 * g + x) (0, 1)
      let pick (u : Nat) : FeedElem :=
        if kept.any fun e => e.1 == g * len + u && e.2.1 == x then el (g * len + u) x
        else if zeroEnc code (el (g * len + u) x).enc then el (g * len + u) x else zero
      (g, x, { pair := p, e0 := pick p.1, e1 := pick p.2 })
  match blockFate strict pattern false all with
  | .absent => (some (table [] []), 0)
  | .poisoned => (none, 0)
  | .image kept pairs trimmed => (some (table kept pairs), trimmed)

/-! ### DFEED -/

/-- The fields of a DFEED as an instruction gives them (R194): the operands' manifests, if named. -/
structure FeedArgs where
  a      : Option W64
  aTile  : Nat
  w      : Option W64
  wTile  : Nat
  mask   : Nat
  half   : Nat
  pat    : Nat
  aAxis  : Bool
  wAxis  : Bool
  bmReq  : Bool
  k      : Nat
  lead   : Nat
  follow : Nat
  aStep  : Nat
  bmAddr : Nat
  other  : BitVec 32
  deriving DecidableEq, Repr

/-- The easels of a mask, the lead first. -/
def maskEasels (mask : Nat) : List Nat := (List.range 4).filter fun e => bitOf mask e

/-- Scale vectors of a step: one for each block that the step's indices touch, or one for each index (R87). -/
def scaleParts (f : BitVec 32) (across : Bool) (rows : List (Nat × List FeedElem)) (k0 c : Nat) : List (List Byte) :=
  if scaleFmtOf f = 0 then []
  else
    let ks := if across then (List.range c).map fun t => k0 + t
      else (List.range (ceilDiv c (blockSizeOf f))).map fun b => k0 + b * blockSizeOf f
    ks.map fun k => (rowOfIdx rows k).map fun e => BitVec.ofNat 8 e.scale

/-- The bytes of an A part of a step with its scales (R86, R87). -/
def aPart (l : RecLayout) (rows : List (Nat × List FeedElem)) (k0 : Nat) : List Byte :=
  let bits := elemBits (elemFmtOf l.aFmt)
  let body := (List.range l.c).flatMap fun t => packVec bits ((rowOfIdx rows (k0 + t)).map fun e => e.enc)
  sliceBytes body 0 l.aBytes ++ (scaleParts l.aFmt l.aAcross rows k0 l.c).flatten

/-- The bytes of a dense W part of a step with its scales. -/
def wPartDense (l : RecLayout) (rows : List (Nat × List FeedElem)) (k0 : Nat) : List Byte :=
  let bits := elemBits (elemFmtOf l.wFmt)
  let body := (List.range l.s).flatMap fun t => packVec bits ((rowOfIdx rows (k0 + t)).map fun e => e.enc)
  sliceBytes body 0 (rowsUp (l.s * l.wVec)) ++ (scaleParts l.wFmt l.wAcross rows k0 l.c).flatten

/-- The bytes of a sparse W part of a step: values in slot order, metadata, scales (R116). `packed k j` is the entry of the group that
holds index k in column j. -/
def wPartSparse (l : RecLayout) (rows : List (Nat × List FeedElem)) (packed : Nat → Nat → Packed) (k0 : Nat) : List Byte :=
  let bits := elemBits (elemFmtOf l.wFmt)
  let g := l.group
  let vec (t : Nat) : List Byte :=
    let sl := l.slot k0 t
    packVec bits ((List.range 128).map fun j =>
      let p := packed (sl.1 * g) j
      if sl.2 = 0 then p.e0.enc else p.e1.enc)
  let metas := (List.range l.metas).flatMap fun x => (List.range 128).map fun j =>
    let p := packed ((k0 / g + x) * g) j
    BitVec.ofNat 8 (pairCode l.pattern p.pair.1 p.pair.2)
  sliceBytes ((List.range l.s).flatMap vec) 0 (rowsUp (l.s * l.wVec)) ++ metas ++ (scaleParts l.wFmt l.wAcross rows k0 l.c).flatten

/-- The outcome of a fill: the work, its feed effects, the band map, the bits read for A and for W, the bytes written, palette tiles,
transposed tiles, and whether the reads of A and of W cross the seam. -/
structure Filled where
  work  : Work
  feeds : List Effect
  map   : List Nat
  aBits : Nat
  wBits : Nat
  bytes : Nat
  pal   : Nat
  tp    : Nat
  aFar  : Bool
  wFar  : Bool
  deriving DecidableEq, Repr

/-- The tiles of an operand that hold P24 or P28 images, which the palette reorganises for a dense feed (R121, R193). -/
def State.palTiles (s : State) (v : View) (tiles : List Nat) : Nat := (tiles.filter fun t => (s.tilePattern v t).1 != 0).length

/-- Writes the A parts of one easel's records. Encodings and scales are moved as they are, and an invalid scale is then none of the fill's events (R68); a P24
or P28 tile passes through the palette, which decodes it (R121, R193). -/
def Filled.fillA (f : Filled) (l : RecLayout) (steps : List (Nat × Nat)) (core easel half row : Nat) (lead : Bool) (v : View) (tile : Nat)
    (axis1 : Bool) : Filled :=
  let ks := steps.flatMap fun s => (List.range l.c).map fun t => s.1 + t
  let r := { f.work with rCross := false }.feedRows v tile axis1 ks
  let rec_ := if lead then l.leadBytes else l.followBytes
  let one (n : Nat) (s : Nat × Nat) : List Effect :=
    fedPart (.feed (feedKey core easel half (128 * row + n * rec_)) (aPart l r.1 s.1)) (rowsPoisoned r.1 s.1 l.c)
  let pal := f.work.s.palTiles v (v.feedTiles tile axis1 ks)
  let tp := ((v.feedTiles tile axis1 ks).filter fun t => f.work.s.turns v t fun a => a != (if axis1 then 1 else 0)).length
  { f with work := if pal = 0 then { r.2 with invalid := f.work.invalid } else r.2, pal := f.pal + pal,
           feeds := f.feeds ++ ((List.range steps.length).zipWith one steps).flatten, bytes := f.bytes + steps.length * l.followBytes,
           aBits := f.aBits + (r.2.rBits - f.work.rBits), tp := f.tp + tp, aFar := f.aFar || r.2.rCross }

/-- Whether a W tile of a fill is copied as images: a stencilled tile of the feed's pattern with its groups along the reduction (R195). -/
def State.imagesFit (s : State) (v : View) (tile : Nat) (pattern : Nat) (axis1 : Bool) : Bool :=
  v.man.stencilled && s.tilePattern v tile == (pattern, !axis1)

/-- The entry of group g of column j in a W block that is copied as an image: its own pair code, also of pairs that hold zeros. -/
def Work.imageEntry (w : Work) (v : View) (tile : Nat) (axis1 : Bool) (rows : List (Nat × List FeedElem)) (pattern k j : Nat) : Packed :=
  let zero : FeedElem := { enc := 0, val := .fin false 0 0, scale := 0 }
  let l := v.loc (v.edge (v.clamp (v.feedPos tile axis1 k j)))
  let src := (w.openTile v (tileIndex v.stored l)).1
  let y := (l.getD 1 0).toNat % 128
  let x := (l.getD 0 0).toNat % 128
  match src.getD (4 * (y / 32) + x / 32) .zero with
  | .packed _ pair len inner =>
    let u := if inner then x % 32 else y % 32
    let v' := if inner then y % 32 else x % 32
    let p := pair.getD (32 * (u / len) + v') (0, 1)
    let base := k / groupLen pattern * groupLen pattern
    { pair := p, e0 := (rowOfIdx rows (base + p.1)).getD j zero, e1 := (rowOfIdx rows (base + p.2)).getD j zero }
  | _ => { pair := (0, 1), e0 := zero, e1 := zero }

/-- Writes the W parts of the lead's records. Each W tile of a sparse feed is copied as images or, where it does not fit, passes through the palette,
which decodes it; so does a P24 or P28 tile for a DENSE feed (R121, R193, R195). -/
def Filled.fillW (f : Filled) (l : RecLayout) (steps : List (Nat × Nat)) (core easel half row : Nat) (v : View) (tile : Nat) (axis1 : Bool) :
    Filled :=
  let code := elemFmtOf l.wFmt
  let bands := steps.foldl (fun b s => Marks.insert (Marks.insert b (s.1 / 32)) ((s.1 + l.c - 1) / 32)) []
  let ks := if l.pattern = 0 then steps.flatMap fun s => (List.range l.c).map fun t => s.1 + t
    else bands.flatMap fun b => (List.range 32).map fun t => 32 * b + t
  let r := { f.work with rCross := false }.feedRows v tile axis1 ks
  let at_ (n : Nat) : Nat := feedKey core easel half (128 * row + n * l.leadBytes + l.wAt)
  let f : Filled := { f with wBits := f.wBits + (r.2.rBits - f.work.rBits), wFar := f.wFar || r.2.rCross, bytes := f.bytes + steps.length * (l.leadBytes - l.followBytes) }
  let pois (k : Nat) : Bool := if l.pattern = 0 then rowsPoisoned r.1 k l.c else rowsPoisoned r.1 (k / 32 * 32) 32
  let put (part : Nat → List Byte) : List Effect :=
    ((List.range steps.length).zipWith (fun n st => fedPart (.feed (at_ n) (part st.1)) (pois st.1)) steps).flatten
  let plain : Work := { r.2 with invalid := f.work.invalid }
  if l.pattern = 0 then
    let tp := ((v.feedTiles tile axis1 ks).filter fun t => f.work.s.turns v t fun a => a != (if axis1 then 1 else 0)).length
    let pal := f.work.s.palTiles v (v.feedTiles tile axis1 ks)
    { f with work := if pal = 0 then plain else r.2, feeds := f.feeds ++ put (wPartDense l r.1), tp := f.tp + tp, pal := f.pal + pal }
  else
    let fits (k : Nat) : Bool := f.work.s.imagesFit v (v.feedTile tile axis1 k) l.pattern axis1
    let turned := (v.feedTiles tile axis1 ks).filter fun t => !f.work.s.imagesFit v t l.pattern axis1
    let ids : List (Nat × Nat) := (bands.filter fun b => !(fits (32 * b))).flatMap fun b => (List.range 4).map fun m => (b, m)
    let packs : List (Nat × Option (List (Nat × Nat × Packed)) × Nat) := ids.map fun b => (4 * b.1 + b.2, packBlock r.2.s.strict l.pattern code r.1 (32 * b.1) (32 * b.2))
    let zero : FeedElem := { enc := 0, val := .fin false 0 0, scale := 0 }
    let none_ : Packed := { pair := (0, 1), e0 := zero, e1 := zero }
    let packed (k j : Nat) : Packed := match Tab.find? packs (4 * (k / 32) + j / 32) with
      | some (some t, _) => (match List.find? (fun (x : Nat × Nat × Packed) => x.1 == k % 32 / l.group && x.2.1 == j % 32) t with
        | some x => x.2.2
        | none => none_)
      | _ => none_
    let entry (k j : Nat) : Packed := if fits k then r.2.imageEntry v tile axis1 r.1 l.pattern k j else packed k j
    let bad := packs.filter fun p => p.2.1.isNone
    let note (w : Work) (p : Nat × Option (List (Nat × Nat × Packed)) × Nat) : Work :=
      let id := [v.num, v.feedTile tile axis1 (32 * (p.1 / 4)), if axis1 then p.1 / 4 % 4 * 4 + p.1 % 4 else p.1 % 4 * 4 + p.1 / 4 % 4]
      match p.2.1 with
      | none => { (w.sparseEvent 0 id).setFault 0x0A with overflows := w.overflows + 1 }
      | some _ => if p.2.2 = 0 then w else { w.sparseEvent 1 id with truncs := w.truncs + p.2.2 }
    { f with work := packs.foldl note (if turned.isEmpty then plain else r.2),
             feeds := f.feeds ++ (if bad.isEmpty then put (wPartSparse l r.1 entry) else []), pal := f.pal + turned.length }

/-- The operand views of a DFEED, or the fault of one of them. -/
def State.feedViews (s : State) (core : Nat) (p : FeedArgs) : Except Nat (Option View × Option View) :=
  match p.a.map fun r => s.operand core r .reads, p.w.map fun r => s.operand core r .reads with
  | some (.error c), _ => .error c
  | _, some (.error c) => .error c
  | some (.ok a), some (.ok w) => .ok (some a, some w)
  | some (.ok a), none => .ok (some a, none)
  | none, some (.ok w) => .ok (none, some w)
  | none, none => .error 0x01

/-- Whether an operand's scale vectors run ACROSS the reduction (R195). -/
def scaledAcross (f : BitVec 32) (axis1 : Bool) : Bool := scaleFmtOf f != 0 && (scaleOuter f != axis1)

/-- The presence byte of band `n` (R119, R195). -/
def bandByte (p : FeedArgs) (va vw : Option View) (w : Work) (n : Nat) : Nat × Work :=
  let a := match va with
    | some v => if (maskEasels p.mask).length = 1 then w.bandPresence v p.aTile p.aAxis n else (0xF, w)
    | none => (0xF, w)
  let b := match vw with
    | some v => a.2.bandPresence v p.wTile p.wAxis n
    | none => (0xF, a.2)
  (a.1 + 16 * b.1, b.2)

/-- The band map that a fill writes, with the work that has read it from the stencil entries (R119, R195). -/
def fillMap (p : FeedArgs) (l : RecLayout) (va vw : Option View) (w : Work) : List Nat × Work :=
  if p.bmReq then Work.walkBands l.c (bandByte p va vw) 4096 0 p.k w else ([], w)

/-- The steps that a fill feeds, by its band map. -/
def fillSteps (p : FeedArgs) (l : RecLayout) (map : List Nat) : List (Nat × Nat) :=
  if p.bmReq then mapSteps l.c 0 p.k map else plainSteps l.c p.k

/-- The reduction indices that a fill reads or passes over: up to the last one that it feeds. -/
def fillReach (p : FeedArgs) (l : RecLayout) (va vw : Option View) (w : Work) : List Nat :=
  List.range ((fillSteps p l (fillMap p l va vw w).1).foldl (fun m st => max m (st.1 + l.c)) 0)

/-- The whole fill: the band map, the A parts of every easel of the mask, the W parts of the lead (R195); the lines of A come before those of W (R228). -/
def fillAll (p : FeedArgs) (l : RecLayout) (va vw : Option View) (core : Nat) (w0 : Work) : Filled :=
  let es := maskEasels p.mask
  let bm := fillMap p l va vw w0
  let steps := fillSteps p l bm.1
  let f0 : Filled := { work := bm.2, feeds := [], map := bm.1, aBits := 0, wBits := 0, bytes := bm.1.length, pal := 0, tp := 0, aFar := false, wFar := false }
  let onA (f : Filled) (i : Nat) : Filled := match va with
    | some v => f.fillA l steps core (es.getD i 0) p.half (if i = 0 then p.lead else p.follow) (i == 0) v (p.aTile + i * p.aStep) p.aAxis
    | none => f
  let f1 := (List.range es.length).foldl onA f0
  match vw with
  | some v =>
    let own := { f1.work with rFirst := f1.work.rFirst ++ f1.work.rLines, rLines := [] }
    { f1 with work := own }.fillW l steps core (es.getD 0 0) p.half p.lead v p.wTile p.wAxis
  | none => f1

/-- DFEED (R194, R195). -/
def State.dfeed (s : State) (key opcode words : Nat) (w : Word0) (p : FeedArgs) : Issued :=
  let core := coreOf key
  if p.k = 0 then s.noopIssue key words
  else if p.mask % 16 = 0 ∨ p.pat = 3 ∨ (p.a.isSome ∧ p.w.isSome ∧ p.other ≠ 0) then s.faultIssue key 0x01
  else match s.feedViews core p with
    | .error c => s.faultOp key c 0 [(p.a.getD 0).toNat, (p.w.getD 0).toNat]
    | .ok (va, vw) =>
      let empty (v : Option View) : Bool := match v with
        | some v => v.man.empty
        | none => false
      let aF := match va with
        | some v => v.man.format
        | none => p.other
      let wF := match vw with
        | some v => v.man.format
        | none => p.other
      if empty va || empty vw then s.noopIssue key words
      else if fmtInvalid p.other true false then s.faultIssue key 0x01
      else match recLayout aF wF p.pat (scaledAcross aF p.aAxis) (scaledAcross wF p.wAxis) with
        | none => s.faultOp key 0x05 p.mask []
        | some l =>
          let es := maskEasels p.mask
          let ends (e : Nat) : Nat :=
            if some e = es.head? then p.lead + p.k * (l.leadBytes / 128) else p.follow + p.k * (l.followBytes / 128)
          let reach := fillReach p l va vw (Work.start s core)
          let aHeld := match va with
            | some v => (List.range es.length).all fun i => (v.feedTiles (p.aTile + i * p.aStep) p.aAxis reach).all fun t => v.tileHeld t true
            | none => true
          let wHeld := match vw with
            | some v => (v.feedTiles p.wTile p.wAxis reach).all fun t => v.tileHeld t true
            | none => true
          if es.any fun e => decide (1024 < ends e) then s.faultOp key 0x06 p.mask []
          else if !aHeld || !wHeld then s.faultOp key 0x13 0 [(p.a.getD 0).toNat, (p.w.getD 0).toNat]
          else if (s.strand key).tagFull w.tagOf || decide (dmaLimit ≤ s.outstanding core .dma) then s.waitHere key 0
          else
            let x := s.runWork core fun w0 => (fillAll p l va vw core w0).work
            let f := fillAll p l va vw core (Work.start (x.1.readBase core x.2) core)
            let side (v : Option View) (bits : Nat) (far : Bool) : Nat := match v with
              | some v => s.readSteps core v.man.allocBase (ceilDiv bits 8) far
              | none => 0
            let steps := side va f.aBits f.aFar + side vw f.wBits f.wFar
            let bmEnd := 128 * p.bmAddr + f.map.length
            if p.bmReq && decide (0x200000 < bmEnd) then s.faultIssue key 0x03
            else if decide (f.pal ≠ 0) && !s.pipeIdle core 1 then s.waitHere key 0
            else
              let map : List Effect := if p.bmReq then [.mem (padBase core + 128 * p.bmAddr) (f.map.map fun b => BitVec.ofNat 8 b)] else []
              let note (vis : Nat) (s : State) : State := if f.pal = 0 then s else s.holdPipe core 1 vis
              s.launchTransfer x.1 key
                { opcode := opcode, words := words, engine := .dma, tag := w.tagOf, steps := 4 + ceilDiv f.bytes 2048, src := some steps,
                  extra := 16 * f.pal + 8 * f.tp, clips := false,
                  holds := if f.pal = 0 then [] else [.pipe (2 * core + 1)],
                  moves := [(p.a.getD 0).toNat, (p.w.getD 0).toNat, p.aTile, p.wTile, p.k, f.bytes] }
                f.work (f.feeds ++ map) note

/-- The fields of a DFEED as a strand issues it (R194). -/
def feedArgs (w : Word0) (w1 w2 : W64) (st : Strand) : FeedArgs :=
  { a := if w.a = 0 then none else some (st.x w.a), aTile := (st.x w.b).toNat, w := if w.c = 0 then none else some (st.x w.c),
    wTile := (st.x w.d).toNat, mask := w.f 28 25, half := w.f 24 24, pat := w.f 23 22, aAxis := bitOf w.imm.toNat 21,
    wAxis := bitOf w.imm.toNat 20, bmReq := bitOf w.imm.toNat 19, k := fieldOf w1 63 52, lead := fieldOf w1 51 42,
    follow := fieldOf w1 41 32, aStep := fieldOf w2 63 40, bmAddr := fieldOf w2 39 26, other := BitVec.ofNat 32 (fieldOf w2 25 15) }

/-- DFEED (R194). -/
def fxDfeed (w : Word0) (w1 w2 : W64) (key : Nat) (s : State) : Issued :=
  let st := s.strand key
  if st.blocked [w.a, w.b, w.c, w.d] then s.waitHere key 0 else s.dfeed key 0x39 3 w (feedArgs w w1 w2 st)

/-- The DFEED that an LDF stands for: a dense one into one easel (R486). -/
def ldfArgs (w : Word0) (w1 : W64) (st : Strand) : FeedArgs :=
  { a := if w.a = 0 then none else some (st.x w.a), aTile := (st.x w.b).toNat, w := if w.c = 0 then none else some (st.x w.c),
    wTile := (st.x w.d).toNat, mask := 2 ^ w.f 28 27, half := w.f 26 26, pat := 0, aAxis := false, wAxis := true, bmReq := false,
    k := fieldOf w1 63 52, lead := fieldOf w1 51 42, follow := 0, aStep := 0, bmAddr := 0, other := 0 }

/-- LDF of SSI-1 (R486). -/
def fxLdf (w : Word0) (w1 : W64) (key : Nat) (s : State) : Issued :=
  let st := s.strand key
  if st.blocked [w.a, w.b, w.c, w.d] then s.waitHere key 0 else s.dfeed key 0x81 2 w (ldfArgs w w1 st)

/-! ### The rows -/

def execDfeed (st : StrandRef) (w : Word0) (w1 w2 : W64) (s : State) : Host.Outcome State Fault Refusal := runRow st (fxDfeed w w1 w2) s
def execLdf (st : StrandRef) (w : Word0) (w1 : W64) (s : State) : Host.Outcome State Fault Refusal := runRow st (fxLdf w w1) s

end Sys2Proof.Machine
end

