-- ==== Sys2Proof/Machine/Easel.lean ====
section
/-! DEFINITION. The easels (R78–R103): EOP with the exact accumulation of R90–R93, ACCRD and ACCWR, VST through the varnish stage, and the gates
of the sketch as they read them (R131, R132). -/

namespace Sys2Proof.Machine

/-! ### Keys -/

/-- The key of bank entry (i, j) of an easel. -/
def accKey (core easel bank i j : Nat) : Nat := 16384 * (2 * (4 * core + easel) + bank) + 128 * i + j

/-- The key of a bank, and of an easel. -/
def bankNo (core easel bank : Nat) : Nat := 2 * (4 * core + easel) + bank
def easelNo (core easel : Nat) : Nat := 4 * core + easel

/-! ### Arithmetic (R89, R90) -/

/-- E8M15, the run accumulator's format (R89). -/
def fmtE8m15 : FloatFmt := ⟨8, 15, 127, 0x7F7FFF, true, true, 0x7FC000⟩

/-- A value rounded once to E8M15. -/
def e8m15 (v : Val) : Val := fmtE8m15.decode (fmtE8m15.round v)

/-- A value rounded once to FP32. -/
def fp32 (v : Val) : Val := fmtF32.decode (fmtF32.round v)

/-- The sum of a step's terms in slot order; `none` for a step without a present term (R90). -/
def stepSum : List (Option Val) → Option Val
  | [some a] => some (e8m15 a)
  | [some a, some b] => some (e8m15 (a.add b))
  | [some a, some b, some c, some d] => some (e8m15 ((e8m15 (a.add b)).add (e8m15 (c.add d))))
  | [some a, some b, none, none] => some (e8m15 (a.add b))
  | [none, none, some c, some d] => some (e8m15 (c.add d))
  | _ => none

/-- A cell's accumulation as it goes: the total and whether a run was promoted into it, the current run, its sum and whether it has a term. -/
structure CellSum where
  total : Val
  done  : Bool
  cur   : Nat
  run   : Val
  used  : Bool
  deriving DecidableEq, Repr

/-- Run promotion (R90, R91). -/
def CellSum.promote (c : CellSum) : CellSum :=
  if c.used then { c with total := fp32 (c.total.add c.run), done := true, run := .fin false 0 0, used := false } else c

/-- One fed step of run `r`. -/
def CellSum.step (c : CellSum) (r : Nat) (terms : List (Option Val)) : CellSum :=
  let c := if c.cur = r then c else { c.promote with cur := r, run := .fin false 0 0 }
  match stepSum terms with
  | none => c
  | some st => { c with run := e8m15 (c.run.add st), used := true }

/-! ### Gates (R128, R131) -/

/-- The 16-bit field of a gate record. -/
def State.gate16 (s : State) (core addr off : Nat) : Nat := leNat (s.bytes (padBase core + addr + off) 2)

/-- The offset of the concatenated list in a gate record: after the classes of N_ACTIVE + N_DOUBT + N_SKIP blocks (R128). -/
def State.gateList (s : State) (core addr : Nat) : Nat :=
  let n := s.gate16 core addr 0 + s.gate16 core addr 2 + s.gate16 core addr 4
  0x20 + ceilDiv (ceilDiv n 4) 32 * 32

/-- The descriptor of the SKETCH that wrote a gate record, if one did. -/
def State.gateDescr (s : State) (core addr : Nat) : Option Nat := Tab.find? s.com.gates (65536 * core + addr / 32)

/-- A field of a sketch layer descriptor. -/
def State.descrField (s : State) (core descr off n : Nat) : Nat := leNat (s.bytes (padBase core + descr + off) n)

/-- The lengths of the main and repair lists together, and of the whole list, of a gate record. The spec gives the lengths by the layer descriptor of the
SKETCH that wrote the record; where none did, the list is taken as unbounded (DESIGN CHOICE, log entry 73). -/
def State.gateLens (s : State) (core addr : Nat) : Nat × Nat :=
  match s.gateDescr core addr with
  | none => (65536, 65536)
  | some d =>
    let mr := s.descrField core d 0x10 2 + s.descrField core d 0x12 2
    (mr, mr + s.descrField core d 0x14 2)

/-- The block that column block `m` computes under a gate record and entry offset; `none` where the gate closes it (R131). -/
def State.gateBlock (s : State) (core : Nat) (gate : Option (Nat × Nat)) (m : Nat) : Option Nat :=
  match gate with
  | none => some m
  | some (addr, e) =>
    let v := s.gate16 core addr (s.gateList core addr + 2 * (e + m))
    if v = 0xFFFF ∨ (s.gateLens core addr).2 ≤ e + m then none else some v

/-- Whether a gate record extends beyond the pad (R154). -/
def State.gateBeyond (s : State) (core : Nat) (gate : Option (Nat × Nat)) : Bool :=
  match gate with
  | none => false
  | some (addr, _) =>
    let len := match s.gateDescr core addr with
      | none => 0
      | some _ => (s.gateLens core addr).2
    decide (0x200000 < addr + s.gateList core addr + 2 * len)

/-! ### EOP -/

/-- One operand of an EOP as its records hold it: the easel, the half, the byte of its first record, the bytes of a record, its part's offset. -/
structure RecSrc where
  core  : Nat
  easel : Nat
  half  : Nat
  row   : Nat
  bytes : Nat
  deriving DecidableEq, Repr

/-- The byte of record `n`. -/
def RecSrc.at_ (r : RecSrc) (n : Nat) : Nat := 128 * r.row + n * r.bytes

/-- A scaled element (R68, R87): element code, scale format, the encoding and the scale byte. -/
def scaledElem (f : BitVec 32) (enc scale : Nat) : Val :=
  if scaleFmtOf f = 0 then decodeElem (elemFmtOf f) enc else (decodeElem (elemFmtOf f) enc).mul (scaleVal (scaleFmtOf f) scale)

/-- The scale vector of index `k` in a record whose step begins at `k0` (R87). -/
def scaleIndex (f : BitVec 32) (across : Bool) (k0 k : Nat) : Nat :=
  if across then k - k0 else k / blockSizeOf f - k0 / blockSizeOf f

/-- A[i][k] of the step `n` at `k0`; a neighbouring step's record holds an index outside the step (R117). -/
def State.aElem (s : State) (l : RecLayout) (r : RecSrc) (n k0 k i : Nat) : Val :=
  let n' := n + k / l.c - k0 / l.c
  let k1 := k / l.c * l.c
  let enc := s.feedElem r.core r.easel r.half (r.at_ n' + (k - k1) * l.aVec) (elemBits (elemFmtOf l.aFmt)) i
  let sc := if l.aScales = 0 then 0
    else s.feedByte r.core r.easel r.half (r.at_ n' + l.aBytes + 128 * scaleIndex l.aFmt l.aAcross k1 k + i)
  scaledElem l.aFmt enc sc

/-- The pair of the group that slot `t` of a step reads for column `j`; `none` for a reserved code (R116). -/
def State.wPair (s : State) (l : RecLayout) (r : RecSrc) (n t j : Nat) : Option (Nat × Nat) :=
  let x := if l.s = 4 then t / 2 else 0
  pairOf l.pattern (s.feedByte r.core r.easel r.half (r.at_ n + l.metaAt + 128 * x + j) % 32)

/-- The original index that slot `t` of a step names for column `j` (R92, R117). -/
def State.wIndex (s : State) (l : RecLayout) (r : RecSrc) (n k0 t j : Nat) : Option Nat :=
  if l.pattern = 0 then some (k0 + t)
  else
    let g := l.slot k0 t
    (s.wPair l r n t j).map fun p => g.1 * l.group + (if g.2 = 0 then p.1 else p.2)

/-- The W element of slot `t` for column `j`, at original index `k`. -/
def State.wElem (s : State) (l : RecLayout) (r : RecSrc) (n k0 t k j : Nat) : Val :=
  let enc := s.feedElem r.core r.easel r.half (r.at_ n + l.wAt + t * l.wVec) (elemBits (elemFmtOf l.wFmt)) j
  let sc := if l.wScales = 0 then 0
    else s.feedByte r.core r.easel r.half (r.at_ n + l.wScaleAt + 128 * scaleIndex l.wFmt l.wAcross k0 k + j)
  scaledElem l.wFmt enc sc

/-- The terms of cell (i, j) in step `n` (R92, R93, R119). -/
def State.stepTerms (s : State) (l : RecLayout) (ra rw : RecSrc) (n k0 band i j : Nat) : List (Option Val) :=
  if bitOf band (i / 32) && bitOf band (4 + j / 32) then
    (List.range l.s).map fun t =>
      (s.wIndex l rw n k0 t j).map fun k => (s.aElem l ra n k0 k i).mul (s.wElem l rw n k0 t k j)
  else List.replicate l.s none

/-- The result of a cell (R90): the bank entry's bits stay where nothing is promoted into it. -/
def State.cell (s : State) (l : RecLayout) (ra rw : RecSrc) (steps : List (Nat × Nat)) (run : Nat) (accum : Bool) (old : W32) (i j : Nat) : W32 :=
  let c0 : CellSum := { total := if accum then Val.ofF32 old else .fin false 0 0, done := false, cur := 0, run := .fin false 0 0, used := false }
  let one (c : CellSum × Nat) (st : Nat × Nat) : CellSum × Nat :=
    (c.1.step (st.1 / run) (s.stepTerms l ra rw c.2 st.1 st.2 i j), c.2 + 1)
  let c := (steps.foldl one (c0, 0)).1.promote
  if accum && !c.done then old else f32 c.total

/-- The fed steps of an EOP: through its band map, if it names one (R119, R120). -/
def State.eopSteps (s : State) (core : Nat) (p : EopArgs) (c : Nat) : List (Nat × Nat) :=
  match p.band with
  | none => plainSteps c p.k
  | some (addr, n) => mapSteps c 0 p.k ((s.bytes (padBase core + addr) n).map fun b => b.toNat)

/-- The record layout of an EOP. -/
def eopLayout (p : EopArgs) : Option RecLayout := recLayout p.aFmt p.wFmt p.pat p.aDir p.wDir

/-- The records of an easel of an EOP's group. -/
def eopSrc (core : Nat) (p : EopArgs) (l : RecLayout) (lead : Bool) (easel : Nat) : RecSrc :=
  { core := core, easel := easel, half := p.half, row := if lead then p.lead else p.follow, bytes := if lead then l.leadBytes else l.followBytes }

/-- The blocks (band of the group, column block) with a reserved pair code in a column that the EOP computes (R116). -/
def State.badPairs (s : State) (p : EopArgs) (l : RecLayout) (rw : RecSrc) (steps : List (Nat × Nat)) (gates : List Bool) : List Nat :=
  if l.pattern = 0 then []
  else
    let step (acc : List Nat × Nat) (st : Nat × Nat) : List Nat × Nat :=
      let bad := (List.range p.cols).flatMap fun j => (List.range l.s).filterMap fun t =>
        if gates.getD (j / 32) false && (s.wPair l rw acc.2 t j).isNone then some (st.1 / 32 * 4 + j / 32) else none
      (bad.foldl Marks.insert acc.1, acc.2 + 1)
    (steps.foldl step ([], 0)).1

/-- The scale bytes at or above 0x80 of a scaled E4M3 part that an EOP decodes, by their feed bytes: `vecs` scale vectors of each record from byte `off` on,
the entries that `used` selects in the record's step (R68, R87). -/
def State.badScales (s : State) (f : BitVec 32) (r : RecSrc) (off vecs : Nat) (steps : List (Nat × Nat)) (used : Nat → Nat → Bool) : List Nat :=
  (List.range steps.length).flatMap fun n => (List.range vecs).flatMap fun x => (List.range 128).filterMap fun i =>
    let b := r.at_ n + off + 128 * x + i
    if used (steps.getD n (0, 0)).2 i && scaleInvalid (scaleFmtOf f) (s.feedByte r.core r.easel r.half b) then some b else none

/-- The SCALE_INVALID records of an EOP (R68, R76): one for each scale byte in error, with manifest number 0 and the byte's place in the feed half, for an EOP
names no manifest (DESIGN CHOICE, log entry 68). -/
def State.eopScales (s : State) (core : Nat) (p : EopArgs) (l : RecLayout) (steps : List (Nat × Nat)) (gates : List Bool) : List Effect :=
  let es := maskEasels p.mask
  let a := es.flatMap fun e =>
    s.badScales l.aFmt (eopSrc core p l (some e == es.head?) e) l.aBytes l.aScales steps fun band i => decide (i < p.rows) && bitOf band (i / 32)
  let w := s.badScales l.wFmt (eopSrc core p l true (es.headD 0)) l.wScaleAt l.wScales steps fun band j =>
    decide (j < p.cols) && bitOf band (4 + j / 32) && gates.getD (j / 32) false
  (a ++ w).map fun b => .event (causeEvent 0 (.palCause (Fin.ofNat 128 core)) 3 (srcCore core) [0, b])

/-- The column blocks of an EOP that its gate leaves open. -/
def State.eopGates (s : State) (core : Nat) (p : EopArgs) : List Bool := (List.range 4).map fun m => (s.gateBlock core p.gate m).isSome

/-- Whether a feed record's bytes that hold bits `lo` to `hi` of a byte string at `at_` are poisoned. -/
def State.recPoisoned (s : State) (r : RecSrc) (at_ lo hi : Nat) : Bool :=
  s.poisonedRange (feedStore + feedKey r.core r.easel r.half (at_ + lo / 8)) (ceilDiv hi 8 - lo / 8)

/-- Whether what cell (i, j) takes from the record of step `n` is poisoned (R217, R429). -/
def State.fedPoisoned (s : State) (l : RecLayout) (ra rw : RecSrc) (n i j : Nat) : Bool :=
  let ab := elemBits (elemFmtOf l.aFmt)
  let wb := elemBits (elemFmtOf l.wFmt)
  let byte (r : RecSrc) (off vecs k : Nat) : Bool := (List.range vecs).any fun x => s.recPoisoned r (r.at_ n + off + 128 * x + k) 0 8
  ((List.range l.c).any fun t => s.recPoisoned ra (ra.at_ n + t * l.aVec) (ab * i) (ab * i + ab)) || byte ra l.aBytes l.aScales i ||
    ((List.range l.s).any fun t => s.recPoisoned rw (rw.at_ n + l.wAt + t * l.wVec) (wb * j) (wb * j + wb)) ||
    byte rw l.metaAt l.metas j || byte rw l.wScaleAt l.wScales j

/-- The bank entries that an EOP computes from poisoned data (R217): all where its band map or gate was, else those whose feed bytes or old entry are. -/
def State.eopPoison (s : State) (core : Nat) (p : EopArgs) (l : RecLayout) (steps : List (Nat × Nat)) (gates : List Bool) (all : Bool) : List Nat :=
  if !all && !s.poison.any fun u => decide (feedStore ≤ u) then []
  else
    let es := maskEasels p.mask
    let rw := eopSrc core p l true (es.headD 0)
    es.flatMap fun e => (cells p.rows p.cols).filterMap fun c =>
      let key := accKey core e p.bank c.1 c.2
      let ra := eopSrc core p l (some e == es.head?) e
      let bad := all || (p.accum && s.poisonedRange (accStore + 4 * key) 4) ||
        (List.range steps.length).any fun n => s.fedPoisoned l ra rw n c.1 c.2
      if gates.getD (c.2 / 32) false && bad then some key else none

/-- The effects of an EOP from its records, over its fed steps and its open column blocks (R78–R94, R116): the cells of its active region, its steps, reserved
pair codes. The record of a reserved pair names easel mask, band and column block: R116 does not say its items (DESIGN CHOICE, log entry 68). EASEL_STEPS counts
all K at the visibility boundary: R103 names no instant within the EOP at which a fed step is counted (DESIGN CHOICE, log entry 78). What it computes from
poisoned data is poisoned, and it faults (R217; `all`: its band map or gate was). -/
def State.eopResult (s : State) (key pc : Nat) (p : EopArgs) (steps : List (Nat × Nat)) (gates : List Bool) (all : Bool) : List Effect :=
  let core := coreOf key
  let c := coreFin key
  match eopLayout p with
  | none => []
  | some l =>
    let es := maskEasels p.mask
    let rw := eopSrc core p l true (es.headD 0)
    let one (e : Nat) : List Effect :=
      let ra := eopSrc core p l (some e == es.head?) e
      (List.range p.rows).flatMap fun i => (List.range (ceilDiv p.cols 32)).filterMap fun m =>
        if gates.getD m false then
          let cols := (List.range (min 32 (p.cols - 32 * m))).map fun x => 32 * m + x
          some (.acc (accKey core e p.bank i (32 * m)) (cols.map fun j =>
            s.cell l ra rw steps p.run p.accum (Tab.get 0 s.acc (accKey core e p.bank i j)) i j))
        else none
    let bad := s.badPairs p l rw steps gates
    let pois := s.eopPoison core p l steps gates all
    let evs : List Effect := bad.map fun b => .event (causeEvent 2 (.sparseCause c) 2 (srcCore core) [p.mask, b / 4, b % 4])
    es.flatMap one ++ es.map (fun e => Effect.wrapCount (Reg.easelSteps c (Fin.ofNat 4 e)).offset p.k) ++ [.telemetry 0 (p.k * es.length)] ++
      countEffect (.sparseCount c) 31 16 bad.length ++ evs ++ s.eopScales core p l steps gates ++ (if !bad.isEmpty && s.strict then [.fault key pc 0x08] else []) ++
      pois.map (fun k => Effect.poison (accStore + 4 * k) 4) ++ poisonFault (!pois.isEmpty) key pc

/-- The fed steps of an EOP that starts now. -/
def State.eopFed (s : State) (core : Nat) (p : EopArgs) : List (Nat × Nat) :=
  match eopLayout p with
  | none => []
  | some l => s.eopSteps core p l.c

/-- The effects of an EOP that starts now, where no fill of its feed half becomes visible before it does. -/
def State.eopEffects (s : State) (key pc : Nat) (p : EopArgs) (all : Bool) : List Effect :=
  s.eopResult key pc p (s.eopFed (coreOf key) p) (s.eopGates (coreOf key) p) all

/-- The fault of an EOP at issue, in the order of its case rows (R154). `free`: an MMA, whose formats are unscaled codes that R486 lists, INT8 among them, and
no descriptors that R64 validates. -/
def State.eopFault (s : State) (core : Nat) (p : EopArgs) (free : Bool) : Option Nat :=
  if p.mask % 16 = 0 ∨ p.pat = 3 ∨ 128 < p.rows ∨ 128 < p.cols ∨ (!free ∧ (fmtInvalid p.aFmt true false ∨ fmtInvalid p.wFmt true false)) then some 0x01
  else match eopLayout p with
    | none => some 0x05
    | some l =>
      let es := maskEasels p.mask
      let beyond (e : Nat) : Bool :=
        let r := eopSrc core p l (some e == es.head?) e
        decide (1024 < r.row + p.k * (r.bytes / 128))
      let mapBeyond : Bool := match p.band with
        | some (a, n) => decide (0x200000 < a + n)
        | none => false
      if p.run < l.c then some 0x01
      else if l.pattern ≠ 0 ∧ l.s = 1 ∧ p.k % 2 = 1 then some 0x01
      else if es.any beyond || mapBeyond || s.gateBeyond core p.gate then some 0x06
      else if (s.eopSteps core p l.c).length < p.k then some 0x07
      else none

/-- The rows of the records that an EOP reads, each with the step that reads it: one record a step (R85). -/
def eopFeeds (core : Nat) (p : EopArgs) (l : RecLayout) : List (BankPlace × Nat) :=
  let es := maskEasels p.mask
  (List.range p.k).flatMap fun n => es.flatMap fun e =>
    let r := eopSrc core p l (some e == es.head?) e
    (List.range (r.bytes / 128)).map fun i => (.feed (2 * easelNo core e + p.half) (r.row + n * (r.bytes / 128) + i), n)

/-- Whether a running EOP that started at boundary `start` has read a feed byte before boundary `b`: the record of step n is read n steps after the start
(R85). -/
def State.eopRead (s : State) (core start b : Nat) (p : EopArgs) (byte : Nat) : Bool :=
  match eopLayout p with
  | none => false
  | some l => (maskEasels p.mask).any fun e =>
      let r := eopSrc core p l (some e == (maskEasels p.mask).head?) e
      let off := byte % 131072 - 128 * r.row
      byte / 131072 == 2 * easelNo core e + p.half && decide (128 * r.row ≤ byte % 131072) &&
        (decide (off / r.bytes < p.k) && decide (1000 * start + off / r.bytes * s.stepPs < 1000 * b))

/-- A fill of feed bytes becomes visible: the running EOPs keep what their earlier records held there (R35, R85, R88). -/
def State.feedWrite (s : State) (k : Nat) (bs : List Byte) : State :=
  let keep (o : InFlight) : InFlight := match o.eop with
    | none => o
    | some r =>
      if o.core != k / 131072 / 8 then o
      else
        let seen := ((List.range bs.length).map fun i => k + i).filter fun x => (Tab.find? r.old x).isNone && s.eopRead o.core o.start s.boundary r.args x
        { o with eop := some { r with dirty := true, old := seen.foldl (fun t x => Tab.put t x (Tab.get 0 s.feed x)) r.old } }
  { s with ops := s.ops.map keep, feed := Tab.setMany 0 s.feed k bs }

/-- The effects of an operation that becomes visible: an EOP whose feed half a fill has changed meanwhile computes each step from its record as that step
read it. -/
def State.finalEffects (s : State) (o : InFlight) : List Effect :=
  match o.eop with
  | none => o.effects
  | some r =>
    if r.dirty then
      let seen : State := { s with feed := r.old.foldl (fun t e => Tab.set 0 t e.1 e.2) s.feed }
      seen.eopResult o.strand o.pc r.args r.steps r.gates r.bad
    else o.effects

/-- The ranges of the core's pad that hold the gate entries, the gate record's head and the layer's descriptor. -/
def State.gateSpans (s : State) (core : Nat) (gate : Option (Nat × Nat)) (cols : Nat) : List (Nat × Nat) :=
  match gate with
  | none => []
  | some (addr, e) =>
    [(padBase core + addr, 0x20), (padBase core + addr + s.gateList core addr + 2 * e, 2 * ceilDiv cols 32)] ++
      (match s.gateDescr core addr with
       | some d => [(padBase core + d, 0x20)]
       | none => [])

/-- What an operation reads of its pad passes the decoder (R216). -/
def State.senseSpans (s : State) (spans : List (Nat × Nat)) : State := spans.foldl (fun s sp => s.sense sp.1 sp.2) s

/-- Whether a range that an operation reads is poisoned. -/
def State.poisonedSpans (s : State) (spans : List (Nat × Nat)) : Bool := spans.any fun sp => s.poisonedRange sp.1 sp.2

/-- The band map and the gate entries of an EOP. -/
def State.eopSpans (s : State) (core : Nat) (p : EopArgs) : List (Nat × Nat) :=
  (match p.band with
   | some (a, n) => [(padBase core + a, n)]
   | none => []) ++ s.gateSpans core p.gate p.cols

/-- The code words of the feed records and bank entries that an EOP reads, as spans of their names (R429). -/
def eopWords (core : Nat) (p : EopArgs) : List (Nat × Nat) :=
  match eopLayout p with
  | none => []
  | some l => (maskEasels p.mask).flatMap fun e =>
      let r := eopSrc core p l (some e == (maskEasels p.mask).head?) e
      (feedStore + feedKey core e p.half (128 * r.row), p.k * r.bytes) ::
        (if p.accum then (List.range p.rows).map fun i => (accStore + 4 * accKey core e p.bank i 0, 4 * p.cols) else [])

/-- The easels that an operation waiting to start holds the waiting slot of (R83). -/
def LateStart.easels : LateStart → List Nat
  | .eop p => maskEasels p.mask
  | .acc _ e _ _ => [e]
  | .vst p => [p.easel]
  | .vector _ _ => []

/-- Whether an easel already holds a waiting instruction (R83). -/
def State.slotTaken (s : State) (core easel : Nat) : Bool :=
  s.ops.any fun o => o.core == core && (match o.later with
    | some l => l.easels.contains easel
    | none => false)

/-- The boundary from which a bank is free, and an easel's EOPs (R83). -/
def State.bankFrom (s : State) (core easel bank : Nat) : Nat := Tab.get 0 s.bankFree (bankNo core easel bank)
def State.easelFrom (s : State) (core easel : Nat) : Nat := Tab.get 0 s.easelFree (easelNo core easel)

/-- An injected feed collision of an easel (0x0006 of R432, R88): the read is reported as met by a write of the core's DMA, its data unchanged. -/
def State.feedCollide (s : State) (core ctx half easel : Nat) : State :=
  if s.armed 6 (4 * core + easel) then
    (s.disarm 6 (4 * core + easel)).meeting (.feed (2 * easelNo core easel + half) 0)
      ((Requester.core core .easel ctx).items ++ (Requester.core core .dma 0).items) true
  else s

/-- What an EOP holds (R83). -/
def eopUnits (core : Nat) (p : EopArgs) : List HeldUnit :=
  (maskEasels p.mask).flatMap fun e => [.easel (easelNo core e), .bank (bankNo core e p.bank)]

/-- An EOP as a start now finds it: rated at its fed steps and 16 of fill and drain (R81). -/
def State.eopStart (s : State) (key pc : Nat) (p : EopArgs) : Started :=
  let core := coreOf key
  let spans := s.eopSpans core p
  let x := s.senseSpans (spans ++ eopWords core p)
  { s := (maskEasels p.mask).foldl (fun s e => s.feedCollide core (ctxOf key) p.half e) x, ps := s.stepsPs (16 + p.k),
    effects := x.eopEffects key pc p (x.poisonedSpans spans), reads := spans
    feeds := match eopLayout p with
      | some l => eopFeeds core p l
      | none => []
    eop := some { args := p, steps := x.eopFed core p, gates := x.eopGates core p, bad := x.poisonedSpans spans, dirty := false, old := [] } }

/-- Issues an EOP: no-op, faults, the waiting slot, then a start at the first boundary at which its easels and banks are free (R81–R85). -/
def State.eop (s : State) (key opcode words : Nat) (w : Word0) (p : EopArgs) (free : Bool) : Issued :=
  let core := coreOf key
  if p.k = 0 ∨ p.rows = 0 ∨ p.cols = 0 then s.noopIssue key words
  else match s.eopFault core p free with
    | some c => s.faultOp key c p.mask [p.k]
    | none =>
      if (s.strand key).tagFull w.tagOf || (maskEasels p.mask).any (s.slotTaken core) then s.waitHere key 0
      else s.slotIssue key opcode words .easel .plain w.tagOf (.eop p) (eopUnits core p) true (s.eopStart key (s.strand key).pc.toNat p)

/-- The fields of an EOP as a strand issues it (R151). -/
def eopArgs (w : Word0) (w1 w2 : W64) (st : Strand) : EopArgs :=
  { mask := w.f 28 25, bank := w.f 24 24, accum := bitOf w.imm.toNat 23, aFmt := BitVec.ofNat 32 (fieldOf w1 47 37),
    wFmt := BitVec.ofNat 32 (fieldOf w1 36 26), aDir := bitOf w.imm.toNat 5, wDir := bitOf w.imm.toNat 4, pat := w.f 22 21, k := w.f 18 7,
    run := 8 * 2 ^ w.f 20 19, rows := fieldOf w1 63 56, cols := fieldOf w1 55 48, half := w.f 6 6,
    lead := (st.x w.b + BitVec.ofNat 64 (fieldOf w1 25 16)).toNat, follow := (st.x w.c + BitVec.ofNat 64 (fieldOf w1 15 6)).toNat,
    band := if fieldOf w2 63 63 = 1 then some (128 * fieldOf w2 62 49, fieldOf w2 48 37) else none,
    gate := if fieldOf w2 36 36 = 1 then some (32 * fieldOf w2 35 20, (st.x w.d + BitVec.ofNat 64 (fieldOf w2 19 6)).toNat) else none }

/-- EOP (R151). -/
def fxEop (w : Word0) (w1 w2 : W64) (key : Nat) (s : State) : Issued :=
  let st := s.strand key
  if st.blocked [w.b, w.c, w.d] then s.waitHere key 0 else s.eop key 0x20 3 w (eopArgs w w1 w2 st) false

/-- The EOP that an MMA stands for: one easel, dense, unscaled, whole tiles, runs of 32 (R486). -/
def mmaArgs (w : Word0) (st : Strand) : EopArgs :=
  { mask := 2 ^ w.f 28 27, bank := w.f 26 26, accum := bitOf w.imm.toNat 25, aFmt := BitVec.ofNat 32 (w.f 24 21),
    wFmt := BitVec.ofNat 32 (w.f 24 21), aDir := false, wDir := false, pat := 0, k := w.f 18 7, run := 32, rows := 128, cols := 128,
    half := fieldOf (st.x w.b) 0 0, lead := fieldOf (st.x w.c) 9 0, follow := 0, band := none, gate := none }

/-- MMA of SSI-1 (R486). -/
def fxMma (w : Word0) (key : Nat) (s : State) : Issued :=
  let st := s.strand key
  let f := w.f 24 21
  if st.blocked [w.b, w.c] then s.waitHere key 0
  else if w.f 18 7 ≠ 0 ∧ ¬(1 ≤ f ∧ f ≤ 4) ∧ f ≠ 8 then s.faultIssue key 0x01
  else s.eop key 0x80 1 w (mmaArgs w st) true

/-! ### ACCRD and ACCWR (R95, R96) -/

/-- The effects of an ACCRD or ACCWR that starts now; poison moves with its code words (R217, R429). -/
def State.accEffects (s : State) (key pc : Nat) (write : Bool) (easel bank addr : Nat) : List Effect :=
  let core := coreOf key
  let a := padBase core + addr
  let b := accStore + 4 * accKey core easel bank 0 0
  let move (x y : Nat) : List Effect :=
    (s.poison.filter fun u => decide (x ≤ u) && decide (u < x + 65536)).map fun u => .poison (u - x + y) 1
  if write then
    let words := (List.range 16384).map fun i => BitVec.ofNat 32 (leNat (s.readBytes (a + 4 * i) 4))
    .acc (accKey core easel bank 0 0) words :: (move a b ++ poisonFault (s.poisonedRange a 65536) key pc)
  else
    .mem a ((List.range 16384).flatMap fun i => leBytes 4 (Tab.get 0 s.acc (accKey core easel bank 0 i)).toNat) ::
      (move b a ++ poisonFault (s.poisonedRange b 65536) key pc)

/-- An ACCRD or ACCWR as a start now finds it, rated at 32 steps (R96). -/
def State.accStart (s : State) (key pc : Nat) (write : Bool) (easel bank addr : Nat) : Started :=
  let a := padBase (coreOf key) + addr
  let x := if write then s.sense a 65536 else s.sense (accStore + 4 * accKey (coreOf key) easel bank 0 0) 65536
  { s := x, ps := s.stepsPs 32, effects := x.accEffects key pc write easel bank addr, reads := if write then [(a, 65536)] else [], feeds := [] }

/-- Issues an ACCRD or ACCWR: pad alignment and range, the waiting slot, then a start when the bank is free. -/
def accOp (w : Word0) (write : Bool) (key : Nat) (s : State) : Issued :=
  let st := s.strand key
  let core := coreOf key
  let easel := w.f 2 1
  let bank := w.f 0 0
  let addr := (st.x w.b).toNat
  if st.blocked [w.b] then s.waitHere key 0
  else if addr % 128 ≠ 0 then s.faultIssue key 0x01
  else if 0x200000 < addr + 65536 then s.faultOp key 0x06 (2 ^ easel) []
  else if st.tagFull w.tagOf || s.slotTaken core easel then s.waitHere key 0
  else
    s.slotIssue key (if write then 0x22 else 0x21) 1 .easel (if write then .plain else .localWrite) w.tagOf (.acc write easel bank addr)
      [.bank (bankNo core easel bank)] true (s.accStart key st.pc.toNat write easel bank addr)

def fxAccrd (w : Word0) : Nat → State → Issued := accOp w false
def fxAccwr (w : Word0) : Nat → State → Issued := accOp w true

/-! ### VST (R97–R100, R131, R132) -/

/-- The value z of entry (i, j), and whether the entry or the fuse operand's element is poisoned (R98, R217). -/
def Work.vstValue (w : Work) (core : Nat) (p : VstArgs) (fuse : Option View) (i j : Nat) : Val × Bool × Work :=
  let a := Val.ofF32 (Tab.get 0 w.s.acc (accKey core p.easel p.bank i j))
  let pois := w.s.poisoned (accStore + 4 * accKey core p.easel p.bank i j)
  let w := { w with poisoned := w.poisoned || pois }
  match fuse with
  | none => (a, pois, w)
  | some v =>
    let y := w.read v (posAt (tileOrigin v.ext p.stile) i j)
    (fp32 (if p.fuse = 1 then a.add y.1.val else a.mul y.1.val), pois || y.1.pois, y.2)

/-- The tile and column at which column `j` is stored: under a gate, in the block of the output that its entry names (R131). -/
def State.vstColumn (s : State) (core : Nat) (p : VstArgs) (d : View) (j : Nat) : Option (Nat × Nat) :=
  match p.gate with
  | none => some (p.tile, j)
  | some _ =>
    let t0 := ceilDiv (max 1 (d.extent 0)) 128
    (s.gateBlock core p.gate (j / 32)).map fun b => (p.tile / t0 * t0 + b / 4, b % 4 * 32 + j % 32)

/-- The varnished elements, each with its destination tile, in row-major order. -/
def Work.vstElems (w : Work) (core : Nat) (p : VstArgs) (d : View) (fuse : Option View) : List (Nat × WElem) × Work :=
  let one (acc : List (Nat × WElem) × Work) (c : Nat × Nat) : List (Nat × WElem) × Work :=
    match acc.2.s.vstColumn core p d c.2 with
    | none => acc
    | some (t, q) =>
      let z := acc.2.vstValue core p fuse c.1 c.2
      let e : WElem := { r := if p.trans then q else c.1, q := if p.trans then c.1 else q, val := z.1, nz := !z.1.isZero, pois := z.2.1, raw := none }
      ((t, e) :: acc.1, z.2.2)
  let r := (cells p.rows p.cols).foldl one ([], w)
  (r.1.reverse, r.2)

/-- Writes the varnished elements, tile by tile in the order in which they first occur. -/
def Work.vstWrite (w : Work) (core : Nat) (p : VstArgs) (d : View) (fuse : Option View) : Work :=
  let r := w.vstElems core p d fuse
  let tiles := r.1.foldl (fun ts e => if ts.contains e.1 then ts else ts ++ [e.1]) []
  tiles.foldl (fun w t => w.writeTile d t ((r.1.filter fun e => e.1 == t).map fun e => e.2)) r.2

/-- The audit counts of a gated VST: one audited block for each column block whose entry lies in the audit part, and a miss where an element of
it is NaN or above CUTOFF (R132). -/
def Work.vstAudit (w : Work) (core : Nat) (p : VstArgs) (fuse : Option View) : List Effect :=
  match p.gate with
  | none => []
  | some (addr, e) =>
    match w.s.gateDescr core addr with
    | none => []
    | some d =>
      let lens := w.s.gateLens core addr
      let cut := Val.ofF32 (BitVec.ofNat 32 (w.s.descrField core d 0x08 4))
      let counter (off n : Nat) : List Effect := if n = 0 then [] else [.padCount (padBase core + d + off) n]
      let audited := (List.range (ceilDiv p.cols 32)).filter fun m =>
        decide (lens.1 ≤ e + m) && (w.s.gateBlock core p.gate m).isSome
      let missed (m : Nat) : Bool := (cells p.rows (min 32 (p.cols - 32 * m))).any fun c =>
        let z := (w.vstValue core p fuse c.1 (32 * m + c.2)).1
        z.isNan || cut.lt z
      counter 0x20 audited.length ++ counter 0x24 (audited.filter missed).length

/-- What a VST holds: its source bank, the varnish stage and the store pipe (R74, R83, R100). -/
def vstUnits (core : Nat) (p : VstArgs) : List HeldUnit := [.bank (bankNo core p.easel p.bank), .varnish core, .pipe (2 * core)]

/-- Whether a VST of a core that was issued before operation `op` still waits: the varnish stage runs one at a time in issue order (R100). -/
def State.vstAhead (s : State) (core op : Nat) : Bool :=
  s.ops.any fun o => o.core == core && decide (o.id < op) && (match o.later with
    | some (.vst _) => true
    | _ => false)

/-- The views of a VST's destination and fuse operand, or the fault of one of them and its number. -/
def State.vstViews (s : State) (core : Nat) (p : VstArgs) : Except (Nat × Nat) (View × Option View) :=
  match s.operand core p.dst .writes with
  | .error c => .error (c, p.dst.toNat)
  | .ok d =>
    if p.fuse = 0 then .ok (d, none)
    else match s.operand core p.src .reads with
      | .error c => .error (c, p.src.toNat)
      | .ok f => .ok (d, some f)

/-- A VST as a start now finds it, and whether its writes into sum windows are invalid: its source side is the larger of the varnish rating and the rating of the
fuse operand (R100). `none`: it needs a half of main memory in which the core has no share. -/
def State.vstStart (s : State) (op key pc opcode words : Nat) (tag : Option Nat) (p : VstArgs) (d : View) (f : Option View) : Bool × Option Started :=
  let core := coreOf key
  let spans := s.gateSpans core p.gate p.cols
  let bank := (List.range p.rows).map fun i => (accStore + 4 * accKey core p.easel p.bank i 0, 4 * p.cols)
  let x := (s.senseSpans (spans ++ bank)).runWork core fun k => k.vstWrite core p d f
  let audit := (Work.start (x.1.readBase core x.2) core).vstAudit core p f
  let fuseSteps := match f with
    | some v => s.readSide core v.man.allocBase x.2
    | none => 0
  let steps := max (max (if f.isSome then 40 else 32) fuseSteps) (s.writeSide core d.man.allocBase x.2)
  let w := if f.isSome then x.2 else { x.2 with rFirst := [], rLines := [] }
  let t : Transfer := { opcode := opcode, words := words, engine := .varnish, tag := tag, steps := steps, extra := 0, clips := true }
  (x.2.sumBad, x.1.transferStart op key pc t w (audit ++ poisonFault (x.1.poisonedSpans spans) key pc))

/-- The tiles that a VST writes: under a gate, every tile that an open block of the output lies in (R131, R189). -/
def State.vstTiles (s : State) (core : Nat) (p : VstArgs) (d : View) : List Nat :=
  match p.gate with
  | none => [p.tile]
  | some _ => ((List.range (ceilDiv p.cols 32)).filterMap fun m => (s.vstColumn core p d (32 * m)).map fun c => c.1).eraseDups

/-- Issues a VST: no-op, faults, the easel's waiting slot, then a start when its bank, the varnish stage and the store pipe are free (R83, R97–R100). -/
def State.vst (s : State) (key opcode words : Nat) (w : Word0) (p : VstArgs) : Issued :=
  let core := coreOf key
  if p.rows = 0 ∨ p.cols = 0 then s.noopIssue key words
  else if p.fuse = 3 ∨ 128 < p.rows ∨ 128 < p.cols ∨ (p.gate.isSome ∧ p.trans) then s.faultIssue key 0x01
  else if s.gateBeyond core p.gate then s.faultOp key 0x06 (2 ^ p.easel) []
  else
    match s.vstViews core p with
    | .error c => s.faultOp key c.1 0 [c.2]
    | .ok (d, f) =>
      let fHeld := match f with
        | some v => v.tileHeld p.stile true
        | none => true
      let fEmpty := match f with
        | some v => v.man.empty
        | none => false
      if d.man.empty || fEmpty then s.noopIssue key words
      else if !(s.vstTiles core p d).all (fun t => d.tileHeld t false) || !fHeld then s.faultOp key 0x13 0 [d.num, p.tile]
      else if (s.strand key).tagFull w.tagOf || s.slotTaken core p.easel then s.waitHere key 0
      else
        let x := s.vstStart s.nextOp key (s.strand key).pc.toNat opcode words w.tagOf p d f
        if x.1 then s.faultIssue key 0x15
        else match x.2 with
          | none => s.faultIssue key 0x17
          | some x => s.slotIssue key opcode words .varnish .localWrite w.tagOf (.vst p) (vstUnits core p) (!s.vstAhead core s.nextOp) x

/-- The fields of a VST as a strand issues it (R152). -/
def vstArgs (w : Word0) (w1 : W64) (st : Strand) : VstArgs :=
  { easel := w.f 28 27, bank := w.f 26 26, fuse := w.f 25 24, trans := bitOf w.imm.toNat 23, rows := fieldOf w1 63 56, cols := fieldOf w1 55 48,
    gate := if fieldOf w1 47 47 = 1 then some (32 * fieldOf w1 46 31, fieldOf w1 30 17) else none, dst := st.x w.a, tile := (st.x w.b).toNat,
    src := st.x w.c, stile := (st.x w.d).toNat }

/-- VST (R152). -/
def fxVst (w : Word0) (w1 : W64) (key : Nat) (s : State) : Issued :=
  let st := s.strand key
  if st.blocked [w.a, w.b, w.c, w.d] then s.waitHere key 0 else s.vst key 0x24 2 w (vstArgs w w1 st)

/-- The VST that an STA stands for: a plain one of a whole tile (R486). -/
def staArgs (w : Word0) (st : Strand) : VstArgs :=
  { easel := w.f 28 27, bank := w.f 26 26, fuse := 0, trans := false, rows := 128, cols := 128, gate := none, dst := st.x w.a,
    tile := (st.x w.b).toNat, src := 0, stile := 0 }

/-- STA of SSI-1 (R486). -/
def fxSta (w : Word0) (key : Nat) (s : State) : Issued :=
  let st := s.strand key
  if st.blocked [w.a, w.b] then s.waitHere key 0 else s.vst key 0x82 1 w (staArgs w st)

/-! ### The rows -/

def execEop (st : StrandRef) (w : Word0) (w1 w2 : W64) (s : State) : Host.Outcome State Fault Refusal := runRow st (fxEop w w1 w2) s
def execMma (st : StrandRef) (w : Word0) (s : State) : Host.Outcome State Fault Refusal := runRow st (fxMma w) s
def execAccrd (st : StrandRef) (w : Word0) (s : State) : Host.Outcome State Fault Refusal := runRow st (fxAccrd w) s
def execAccwr (st : StrandRef) (w : Word0) (s : State) : Host.Outcome State Fault Refusal := runRow st (fxAccwr w) s
def execVst (st : StrandRef) (w : Word0) (w1 : W64) (s : State) : Host.Outcome State Fault Refusal := runRow st (fxVst w w1) s
def execSta (st : StrandRef) (w : Word0) (s : State) : Host.Outcome State Fault Refusal := runRow st (fxSta w) s

end Sys2Proof.Machine
end

