-- ==== Sys2Proof/Machine/Vector.lean ====
section
/-! DEFINITION. The works of the vector unit's general instructions: VEW (R497), VRED (R498), VOP of SSI-1 (R486), RNG (R337–R339), VFIN (R340)
and CRC (R450–R453). -/

namespace Sys2Proof.Machine

/-- A view resolved again when the operation runs; an operand checked at issue always resolves. -/
def Work.viewNo (w : Work) (num : Nat) : Option View := w.s.view w.core num

/-- A value rounded once to FP64. -/
def fp64 (v : Val) : Val := fmtF64.decode (fmtF64.round v)

/-- An element to be written. -/
def welem (r q : Nat) (v : Val) (pois : Bool) : WElem := { r := r, q := q, val := v, nz := !v.isZero, pois := pois, raw := none }

/-- Runs `f` on tiles `0` to `n - 1`. -/
def Work.eachTile (w : Work) (f : Work → Nat → Work) (n : Nat) : Work := (List.range n).foldl f w

/-! ### VEW -/

/-- The exact or correctly held result of a VEW operation (R497). -/
def vewOp (op : Nat) (a b : Val) : Val :=
  match op with
  | 0x0 => a
  | 0x1 => a.add b
  | 0x2 => a.sub b
  | 0x3 => a.mul b
  | 0x4 => a.div b
  | 0x5 => a.maximum b
  | 0x6 => a.minimum b
  | 0x7 => a.abs
  | 0x8 => a.neg
  | 0x9 => a.sqrt
  | 0xA => a.rsqrt
  | _ => (Val.fin false 1 0).div a

/-- Whether a VEW operation requires operand b. -/
def vewNeedsB (op : Nat) : Bool := decide (1 ≤ op ∧ op ≤ 6)

/-- One tile of a VEW. -/
def Work.vewTile (w : Work) (op : Nat) (d a : View) (b : Option View) (dt ta tb rows cols : Nat) : Work :=
  let one (acc : List WElem × Work) (c : Nat × Nat) : List WElem × Work :=
    let x := acc.2.read a (posAt (tileOrigin a.ext ta) c.1 c.2)
    let y : Val × Bool × Work := match b with
      | some v =>
        let y := x.2.read v (posAt (tileOrigin v.ext tb) c.1 c.2)
        (y.1.val, y.1.pois, y.2)
      | none => (.fin false 0 0, false, x.2)
    (welem c.1 c.2 (fp32 (vewOp op x.1.val y.1)) (x.1.pois || y.2.1) :: acc.1, y.2.2)
  let r := (cells rows cols).foldl one ([], w)
  r.2.writeTile d dt r.1.reverse

/-- The fields of word 1 and word 0 of a VEW. -/
def VecArgs.t (a : VecArgs) : Nat := a.w.f 28 12
def VecArgs.rows (a : VecArgs) : Nat := fieldOf a.w1 63 56
def VecArgs.cols (a : VecArgs) : Nat := fieldOf a.w1 55 48

/-- VEW (R497). -/
def Work.vew (w : Work) (a : VecArgs) : Work :=
  match w.viewNo a.ra.toNat, w.viewNo a.rc.toNat with
  | some d, some x =>
    let b := w.viewNo (fieldOf a.w1 47 24)
    w.eachTile (fun w n => w.vewTile (a.w.f 11 8) d x b (a.rb.toNat + n) (a.rd.toNat + n) (fieldOf a.w1 23 0 + n) a.rows a.cols) a.t
  | _, _ => w

/-! ### VRED -/

/-- One step of a VRED: the running value and the next value (R498). -/
def vredStep (op : Nat) (acc : Option Val) (x : Val) : Option Val :=
  match op, acc with
  | 0, none => some (fp64 ((Val.fin false 0 0).add x))
  | 0, some s => some (fp64 (s.add x))
  | 1, none => some (fp64 ((Val.fin false 0 0).add (x.mul x)))
  | 1, some s => some (fp64 (s.add (x.mul x)))
  | _, none => some x
  | 2, some s => some (s.maximum x)
  | _, some s => some (s.minimum x)

/-- The values of the active positions of T tiles, each with its row and column, in the order of R498. -/
def Work.vredRead (w : Work) (v : View) (tile t rows cols : Nat) : List (Nat × Nat × Val × Bool) × Work :=
  let one (acc : List (Nat × Nat × Val × Bool) × Work) (c : Nat × Nat × Nat) : List (Nat × Nat × Val × Bool) × Work :=
    let x := acc.2.read v (posAt (tileOrigin v.ext (tile + c.1)) c.2.1 c.2.2)
    ((c.2.1, c.2.2, x.1.val, x.1.pois) :: acc.1, x.2)
  let r := ((List.range t).flatMap fun n => (cells rows cols).map fun c => (n, c)).foldl one ([], w)
  (r.1.reverse, r.2)

/-- VRED (R498). -/
def Work.vred (w : Work) (a : VecArgs) : Work :=
  match w.viewNo a.ra.toNat, w.viewNo a.rc.toNat with
  | some d, some x =>
    let op := a.w.f 11 10
    let axis := a.w.f 9 8
    let r := w.vredRead x a.rd.toNat a.t a.rows a.cols
    let form (vs : List (Nat × Nat × Val × Bool)) : Val := (vs.foldl (fun s v => vredStep op s v.2.2.1) none).getD (.fin false 0 0)
    let pois (vs : List (Nat × Nat × Val × Bool)) : Bool := vs.any fun v => v.2.2.2
    let out : List WElem := match axis with
      | 0 => [welem 0 0 (form r.1) (pois r.1)]
      | 1 => (List.range a.cols).map fun q =>
        let vs := r.1.filter fun v => v.2.1 == q
        welem 0 q (form vs) (pois vs)
      | _ => (List.range a.rows).map fun y =>
        let vs := r.1.filter fun v => v.1 == y
        welem y 0 (form vs) (pois vs)
    r.2.writeTile d a.rb.toNat out
  | _, _ => w

/-! ### VOP (SSI-1) -/

/-- The tiles of an index space. -/
def tileCount (ext : List Nat) : Nat :=
  ceilDiv (ext.getD 0 1) 128 * ceilDiv (ext.getD 1 1) 128 * ext.getD 2 1 * ext.getD 3 1 * ext.getD 4 1 * ext.getD 5 1

/-- The positions of an index space. -/
def posCount (ext : List Nat) : Nat := (List.range 6).foldl (fun n d => n * ext.getD d 1) 1

/-- VOP: every position of the destination from the same position of the two sources (R486). -/
def Work.vop (w : Work) (a : VecArgs) : Work :=
  match w.viewNo a.ra.toNat, w.viewNo a.rb.toNat, w.viewNo a.rc.toNat with
  | some d, some x, some y =>
    let op : Val → Val → Val := match a.w.f 1 0 with
      | 0 => Val.add
      | 1 => Val.mul
      | 2 => Val.sub
      | _ => Val.maximum
    let tile (w : Work) (n : Nat) : Work :=
      let o := tileOrigin d.ext n
      let one (acc : List WElem × Work) (c : Nat × Nat) : List WElem × Work :=
        let p := posAt o c.1 c.2
        if d.inside p then
          let s1 := acc.2.read x p
          let s2 := s1.2.read y p
          (welem c.1 c.2 (fp32 (op s1.1.val s2.1.val)) (s1.1.pois || s2.1.pois) :: acc.1, s2.2)
        else acc
      let r := (cells 128 128).foldl one ([], w)
      r.2.writeTile d n r.1.reverse
    w.eachTile tile (tileCount d.ext)
  | _, _, _ => w

/-! ### RNG -/

/-- A left rotation of a 32-bit word. -/
def rotl32 (x : BitVec 32) (n : Nat) : BitVec 32 := x.rotateLeft n

/-- The rounds of the generator on (x0, x1, x2, x3) (R337). -/
def rngRounds (k : List (BitVec 32)) : Nat → Nat → BitVec 32 × BitVec 32 × BitVec 32 × BitVec 32 → BitVec 32 × BitVec 32 × BitVec 32 × BitVec 32
  | 0, _, x => x
  | n + 1, r, (x0, x1, x2, x3) =>
    let ra := [13, 15, 26, 6, 17, 29, 16, 24].getD (r % 8) 0
    let rb := [19, 7, 11, 22, 9, 27, 14, 5].getD (r % 8) 0
    let x0 := x0 + x1
    let x1 := rotl32 x1 ra ^^^ x0
    let x2 := x2 + x3
    let x3 := rotl32 x3 rb ^^^ x2
    let y1 := x3
    let y3 := x1
    if r % 4 = 3 then
      let j := (r + 1) / 4
      let key (i : Nat) : BitVec 32 := k.getD ((j + i) % 4) 0
      rngRounds k n (r + 1) (x0 + key 0, y1 + key 1, x2 + key 2, y3 + key 3 + BitVec.ofNat 32 j)
    else rngRounds k n (r + 1) (x0, y1, x2, y3)

/-- The low 32 bits, x0, of the generator's result (R337). -/
def rngWord (seed : W64) (stream tensor index step : Nat) : BitVec 32 :=
  let k0 := seed.extractLsb' 0 32
  let k1 := seed.extractLsb' 32 32
  let k2 := BitVec.ofNat 32 stream
  let k3 := k0 ^^^ k1 ^^^ k2 ^^^ 0x6C3E91A5
  (rngRounds [k0, k1, k2, k3] 20 0
    (BitVec.ofNat 32 tensor + k0, BitVec.ofNat 32 index + k1, BitVec.ofNat 32 (index / 2 ^ 32 % 2 ^ 16) + k2, BitVec.ofNat 32 step + k3)).1

/-- The element index of a position of the view, modulo 2^48 (R338). -/
def View.elemIndex (v : View) (p : List Int) : Nat :=
  let g (d : Nat) : Nat :=
    let x := (p.getD d 0).toNat
    if v.isLocal then (v.spreads.getD d Spread.none).global x else x
  ((List.range 6).foldl (fun (a : Nat × Nat) d => (a.1 + g d * a.2, a.2 * (v.man.dim d).extent)) (0, 1)).1 % 2 ^ 48

/-- The SYMMETRIC value of a word (R339). -/
def symmetric (x : BitVec 32) : Val := (Val.fin false (x.toNat / 256) (-23)).sub (.fin false 1 0)

/-- The value that RNG writes for a word (R339). -/
def rngValue (dist : Nat) (limit x : BitVec 32) : Val :=
  match dist with
  | 0 => Val.ofF32 x
  | 1 => .fin false (x.toNat / 256) (-24)
  | 2 => symmetric x
  | _ => if x.ult limit then .fin false 1 0 else .fin false 0 0

/-- RNG (R339). BITS writes its words as they are. -/
def Work.rng (w : Work) (a : VecArgs) : Work :=
  match w.viewNo a.ra.toNat with
  | none => w
  | some d =>
    let dist := a.w.f 11 10
    let seed := w.s.reg .rngSeed
    let step := w.s.stepLow
    let tile (w : Work) (n : Nat) : Work :=
      let o := tileOrigin d.ext (a.rb.toNat + n)
      let el (c : Nat × Nat) : WElem :=
        let x := rngWord seed (fieldOf a.w1 31 0) (fieldOf a.w1 63 32) (d.elemIndex (posAt o c.1 c.2)) step
        let v := rngValue dist (a.rc.setWidth 32) x
        { welem c.1 c.2 v false with raw := if dist = 0 then some (x.toNat, 0) else none, nz := if dist = 0 then x &&& 0x7FFFFFFF != 0 else !v.isZero }
      w.writeTile d (a.rb.toNat + n) ((cells 128 128).map el)
    w.eachTile tile a.t

/-! ### VFIN -/

/-- Whether a position of a stencilled view is stored: a kept position of a present block. -/
def Work.storedAt (w : Work) (v : View) (p : List Int) : Bool :=
  if v.man.stencilled then
    let l := v.loc p
    let r := w.openTile v (tileIndex v.stored l)
    let y := (l.getD 1 0).toNat % 128
    let x := (l.getD 0 0).toNat % 128
    ((r.1.getD (4 * (y / 32) + x / 32) .zero).elemBit v.bits (y % 32) (x % 32)).isSome
  else true

/-- The stored positions of a tile within the edges. -/
def Work.storedCells (w : Work) (v : View) (tile : Nat) : List (Nat × Nat) :=
  let o := tileOrigin v.ext tile
  (cells 128 128).filter fun c => v.inside (posAt o c.1 c.2) && w.storedAt v (posAt o c.1 c.2)

/-- VFIN: whether a stored position of T tiles is a NaN or an infinity (R340). -/
def Work.vfin (w : Work) (a : VecArgs) : Bool × Work :=
  match w.viewNo a.rb.toNat with
  | none => (false, w)
  | some v =>
    let tile (acc : Bool × Work) (n : Nat) : Bool × Work :=
      let t := a.rc.toNat + n
      (acc.2.storedCells v t).foldl (fun acc c =>
        let x := acc.2.value v (posAt (tileOrigin v.ext t) c.1 c.2)
        (acc.1 || x.1.nonfinite, x.2)) acc
    (List.range (a.w.f 28 12)).foldl tile (false, w)

/-! ### CRC -/

/-- A check value's polynomial (R450): width, generator as the shift uses it, initial value, reflection, final XOR. -/
structure CrcPoly where
  width : Nat
  gen   : Nat
  init  : Nat
  refl  : Bool
  final : Nat
  deriving DecidableEq, Repr

/-- The polynomials of R450; reflected generators are given bit-reversed. -/
def crcPoly : Nat → CrcPoly
  | 0 => ⟨32, 0x82F63B78, 0xFFFFFFFF, true, 0xFFFFFFFF⟩
  | 1 => ⟨32, 0xEDB88320, 0xFFFFFFFF, true, 0xFFFFFFFF⟩
  | 2 => ⟨64, 0x42F0E1EBA9EA3693, 0, false, 0⟩
  | _ => ⟨16, 0x1021, 0xFFFF, false, 0⟩

/-- Eight shifts of a remainder. -/
def crcShift (p : CrcPoly) (c : Nat) : Nat :=
  (List.range 8).foldl (fun c _ =>
    if p.refl then (if c % 2 = 1 then c / 2 ^^^ p.gen else c / 2)
    else (if p.width ≤ Nat.log2 c + 1 ∧ c ≠ 0 then 2 * c % 2 ^ p.width ^^^ p.gen else 2 * c)) c

/-- The remainder after one byte. -/
def crcByte (p : CrcPoly) (c : Nat) (b : Byte) : Nat :=
  crcShift p (if p.refl then c ^^^ b.toNat else c ^^^ b.toNat * 2 ^ (p.width - 8))

/-- The check value of a byte string (R450). -/
def crcOf (p : CrcPoly) (bs : List Byte) : Nat := bs.foldl (crcByte p) p.init ^^^ p.final

/-- CRC-32C over a byte string, as charts and plan images use it (R395, R471). -/
def crc32c (bs : List Byte) : Nat := crcOf (crcPoly 0) bs

/-- Bytes of an engine's read. -/
def Work.getBytes (w : Work) (a n : Nat) : List Byte × Work :=
  let r := w.getMany a n
  (leBytes n r.1, { r.2.2.moved a (8 * n) with poisoned := r.2.2.poisoned || r.2.1 })

/-- The covered bytes of one tile (R452), and the local address of its first one. -/
def Work.crcTile (w : Work) (v : View) (tile : Nat) : List Byte × Nat × Work :=
  let o := tileOrigin v.ext tile
  if v.man.stencilled then
    let t := tileIndex v.stored (v.loc o)
    let a := v.stencilAddr t
    let e := w.getBytes a 16
    let ent := leNat e.1
    let size := imageSize (elemFmtOf v.man.format) (stencilPattern ent)
    let blocks := (List.range 16).filter fun q => stencilPresent ent q
    let r := blocks.foldl (fun (acc : List Byte × Work) q =>
      let b := acc.2.getBytes (v.imageAddr ent q) size
      (acc.1 ++ b.1, b.2)) (e.1, e.2)
    (r.1, a, r.2)
  else
    let bits := v.bits
    let row (acc : List Byte × Work) (y : Nat) : List Byte × Work :=
      let qs := (List.range 128).filter fun q => v.inside (posAt o y q)
      let one (k : Nat × Work) (q : Nat) : Nat × Work :=
        let x := k.2.rawAt v (v.loc (posAt o y q))
        (k.1 + x.1.getD 0 * 2 ^ (bits * q), { x.2.2 with poisoned := x.2.2.poisoned || x.2.1 })
      let n := qs.foldl one (0, acc.2)
      let group := if bits = 6 then ceilDiv qs.length 4 * 3 else ceilDiv (bits * qs.length) 8
      (acc.1 ++ leBytes group n.1, n.2)
    let r := (List.range 128).foldl row ([], w)
    (r.1, (v.bitAt (v.loc o)).toNat / 8, r.2)

/-- The message of a CRC (R452). -/
def Work.crcMessage (w : Work) (a : VecArgs) (v : View) : List Byte × Work :=
  let tile (acc : List Byte × Nat × Work) (n : Nat) : List Byte × Nat × Work :=
    let r := acc.2.2.crcTile v (a.rc.toNat + n)
    (acc.1 ++ r.1, if n = 0 then r.2.1 else acc.2.1, r.2.2)
  let r := (List.range a.t).foldl tile ([], 0, w)
  let head : List Byte := match a.w.f 9 8 with
    | 1 => leBytes 8 r.2.1
    | 2 => leBytes 8 a.w1.toNat
    | _ => []
  (head ++ r.1, r.2.2)

/-- CRC: its work and the effects beside it (R451–R453). -/
def Work.crc (w : Work) (key pc : Nat) (a : VecArgs) : Work × List Effect :=
  match w.viewNo a.rb.toNat with
  | none => (w, [])
  | some v =>
    let u : Fin 136 := Fin.ofNat 136 (coreOf key)
    let m := w.crcMessage a v
    let p := crcPoly (a.w.f 11 10)
    let r := crcOf p m.1
    let want := a.rd.toNat % 2 ^ p.width
    let inj := bitOf a.w.imm.toNat 7 && w.s.armed 0x1B (coreOf key)
    let bad := bitOf a.w.imm.toNat 7 && (decide (r ≠ want) || inj)
    let miss : List Effect := if bad then
        [.count (Reg.cvuCount u).offset 31 0 1, .setReg (Reg.cvuLast u).offset (BitVec.ofNat 64 r),
         .event { causeEvent 14 (.cvuCause u) 0 (srcCore (coreOf key)) [v.num, a.rc.toNat, r, want] with injected := inj }] ++
          (if bitOf a.w.imm.toNat 6 then [.fault key pc 0x19] else []) ++ (if inj then [.disarm 0x1B (coreOf key)] else [])
      else []
    (m.2, [.reg key a.w.a (BitVec.ofNat 64 r), .count (Reg.cvuCount u).offset 63 32 1] ++ miss)

end Sys2Proof.Machine
end

