-- ==== Sys2Proof/Machine/Update.lean ====
section
/-! DEFINITION. The works of the update instructions: UPD (R329–R335), MEVO (R341–R344), RMERGE (R294) and the shard tags (R346). -/

namespace Sys2Proof.Machine

/-! ### Kept positions of a master -/

/-- The positions of a tile in the order of R335: blocks in increasing number, row-major within a block. -/
def blockCells : List (Nat × Nat) :=
  (List.range 16).flatMap fun q => (cells 32 32).map fun c => (32 * (q / 4) + c.1, 32 * (q % 4) + c.2)

/-- The bit number at which an unscaled position of a view is stored; `none` for a pruned position. -/
def Work.rawBit (w : Work) (v : View) (p : List Int) : Option Int × Work :=
  let l := v.loc p
  if v.man.stencilled then
    let r := w.openTile v (tileIndex v.stored l)
    let y := (l.getD 1 0).toNat % 128
    let x := (l.getD 0 0).toNat % 128
    let src := r.1.getD (4 * (y / 32) + x / 32) .zero
    (src.elemBit 32 (y % 32) (x % 32), r.2.imageMoved v src)
  else (some (v.bitAt l), w)

/-- Reads an FP32 element as it is stored. -/
def Work.readRaw (w : Work) (v : View) (p : List Int) : Val × Bool × Work :=
  let b := w.rawBit v p
  match b.1 with
  | none => (.fin false 0 0, false, b.2)
  | some bit =>
    let r := b.2.getBits bit 32
    (Val.ofF32 (BitVec.ofNat 32 r.1), r.2.1, { r.2.2 with poisoned := r.2.2.poisoned || r.2.1 })

/-- Writes an FP32 element where it is stored. -/
def Work.writeRaw (w : Work) (v : View) (p : List Int) (x : Val) (pois : Bool) : Work :=
  let enc := (f32 x).toNat
  if v.man.stencilled then
    let b := w.rawBit v p
    match b.1 with
    | none => b.2
    | some bit => b.2.putBits bit 32 enc pois
  else w.putElem v (v.loc p) enc pois

/-- The stored positions of a tile within the edges, in the order of R335; stored positions beyond them are counted (R184). -/
def Work.keptCells (w : Work) (v : View) (tile : Nat) : List (Nat × Nat) × Work :=
  let o := tileOrigin v.ext tile
  let all := blockCells.filter fun c => (w.rawBit v (posAt o c.1 c.2)).1.isSome
  let r := w.clip v o (all.map fun c => welem c.1 c.2 (.fin false 0 0) false)
  (r.1.map fun e => (e.r, e.q), r.2)

/-- The same positions for an operation that leaves the master as it is: nothing is suppressed there (R334). -/
def Work.castCells (w : Work) (v : View) (tile : Nat) : List (Nat × Nat) × Work :=
  let k := w.keptCells v tile
  (k.1, { k.2 with clipped := w.clipped, firstClip := w.firstClip })

/-- The stencil entry of a tile of a view; `none` for an unstencilled view. -/
def State.entryOf (s : State) (v : View) (tile : Nat) : Option Nat :=
  if v.man.stencilled then some (leNat (s.readBytes (v.stencilAddr (tileIndex v.stored (v.loc (tileOrigin v.ext tile)))) 16)) else none

/-- Whether the stencil entries of two tiles agree as R332 requires: PRESENT, PATTERN, GROUP_AXIS, and KEEP_LAYOUT set. -/
def entriesAgree (a b : Option Nat) : Bool :=
  match a, b with
  | none, none => true
  | some a, some b =>
    bitsOf a 111 96 == bitsOf b 111 96 && stencilPattern a == stencilPattern b && stencilInner a == stencilInner b && stencilKeep a &&
      stencilKeep b
  | _, _ => false

/-- Whether a tile of the master and the same tile of every other view agree. -/
def State.shardAgrees (s : State) (m : View) (others : List View) (tile : Nat) : Bool :=
  others.all (fun v => entriesAgree (s.entryOf m tile) (s.entryOf v tile)) &&
    (match s.entryOf m tile with
     | none => true
     | some e => stencilKeep e)

/-- The stored master positions that a tile counts for the rating: 1,024, 512 or 256 for a present block (R333). -/
def State.storedCount (s : State) (m : View) (tile : Nat) : Nat :=
  match s.entryOf m tile with
  | some e =>
    let per := match stencilPattern e with
      | 0 => 1024
      | 1 => 512
      | _ => 256
    per * ((List.range 16).filter fun q => stencilPresent e q).length
  | none => ((cells 128 128).filter fun c => m.inside (posAt (tileOrigin m.ext tile) c.1 c.2)).length

/-! ### The coefficient block -/

/-- The pad offset of the coefficient block that word 2 names. -/
def VecArgs.coefAddr (a : VecArgs) : Nat := 128 * fieldOf a.w2 21 8

/-- A word of the coefficient block (R330). -/
def State.coef (s : State) (core : Nat) (a : VecArgs) (off : Nat) : Nat := leNat (s.bytes (padBase core + a.coefAddr + off) 4)

/-- An FP32 coefficient. -/
def State.coefVal (s : State) (core : Nat) (a : VecArgs) (off : Nat) : Val := Val.ofF32 (BitVec.ofNat 32 (s.coef core a off))

/-- TAG_ADDR, aligned to 16 bytes. -/
def State.tagAddr (s : State) (core : Nat) (a : VecArgs) : Nat :=
  leNat (s.bytes (padBase core + a.coefAddr + 0x38) 8) % 2 ^ 42 / 16 * 16

/-- Manifest fields of words 1 and 2: M1, M2 and the working copy. -/
def VecArgs.m1 (a : VecArgs) : Nat := fieldOf a.w1 63 40
def VecArgs.m2 (a : VecArgs) : Nat := fieldOf a.w1 39 16
def VecArgs.wc (a : VecArgs) : Nat := fieldOf a.w2 63 40

/-- The view of a manifest number that is not 0. -/
def Work.viewOpt (w : Work) (num : Nat) : Option View := if num = 0 then none else w.viewNo num

/-! ### UPD -/

/-- The coefficients of an update (R330). -/
structure UpdCoef where
  lr     : Val
  gscale : Val
  b1     : Val
  c1     : Val
  b2     : Val
  c2     : Val
  a1     : Val
  a2     : Val
  eps    : Val
  wdC    : Val
  wdD    : Val
  deriving DecidableEq, Repr

/-- The coefficients that an instruction's block holds. -/
def State.updCoef (s : State) (core : Nat) (a : VecArgs) : UpdCoef :=
  let c := s.coefVal core a
  { lr := c 0x00, gscale := c 0x04, b1 := c 0x08, c1 := c 0x0C, b2 := c 0x10, c2 := c 0x14, a1 := c 0x18, a2 := c 0x1C, eps := c 0x20,
    wdC := c 0x24, wdD := c 0x28 }

/-- What an update of one position gives: the new master and moments, the gradient of the norms and the step d. -/
structure UpdOut where
  w  : Val
  m  : Val
  v  : Val
  gn : Val
  d  : Val
  deriving DecidableEq, Repr

/-- The arithmetic of R331; FORM 0 DESCENT, 1 MOMENTUM, 2 ADAPTIVE, 3 SIGN. -/
def updElem (form : Nat) (c : UpdCoef) (w grad m v : Val) : UpdOut :=
  let gn := fp32 (grad.mul c.gscale)
  let g := fp32 (gn.add (fp32 (c.wdC.mul w)))
  let m' := fp32 ((fp32 (c.b1.mul m)).add (fp32 (c.c1.mul g)))
  let v' := fp32 ((fp32 (c.b2.mul v)).add (fp32 (c.c2.mul (fp32 (g.mul g)))))
  let zero := Val.fin false 0 0
  let u := match form with
    | 0 => g
    | 1 => m'
    | 2 => fp32 ((fp32 (c.a1.mul m')).div (fp32 ((fp32 (fp32 (c.a2.mul v')).sqrt).add c.eps)))
    | _ => if zero.lt m' then .fin false 1 0 else if m'.lt zero then .fin true 1 0 else zero
  let d := fp32 (c.lr.neg.mul (fp32 (u.add (fp32 (c.wdD.mul w)))))
  { w := fp32 (w.add d), m := m', v := v', gn := gn, d := d }

/-- What an update has come to: its work, the new masters that are NaN or infinite (with their moments), the norm sums, the tiles refused. -/
structure UpdRun where
  w   : Work
  bad : Nat
  w2  : Val
  g2  : Val
  d2  : Val
  off : Nat
  deriving DecidableEq, Repr

/-- The operands of an update as views. -/
structure UpdViews where
  mast : View
  grad : View
  m1   : Option View
  m2   : Option View
  wc   : Option View
  deriving DecidableEq, Repr

/-- The views that share the master's layout. -/
def UpdViews.others (u : UpdViews) : List View := u.m1.toList ++ u.m2.toList ++ u.wc.toList

/-- Updates one position (R331, R335). -/
def UpdRun.pos (x : UpdRun) (u : UpdViews) (c : UpdCoef) (form : Nat) (norm : Bool) (tile gtile : Nat) (rq : Nat × Nat) : UpdRun :=
  let p := posAt (tileOrigin u.mast.ext tile) rq.1 rq.2
  let useM : Bool := form != 0
  let useV : Bool := form == 2
  let w0 := x.w.readRaw u.mast p
  let g := w0.2.2.read u.grad (posAt (tileOrigin u.grad.ext gtile) rq.1 rq.2)
  let m := match useM, u.m1 with
    | true, some v => g.2.readRaw v p
    | _, _ => (.fin false 0 0, false, g.2)
  let v := match useV, u.m2 with
    | true, some v => m.2.2.readRaw v p
    | _, _ => (.fin false 0 0, false, m.2.2)
  let pois := w0.2.1 || g.1.pois || m.2.1 || v.2.1
  let o := updElem form c w0.1 g.1.val m.1 v.1
  let w := v.2.2.writeRaw u.mast p o.w pois
  let w := match useM, u.m1 with
    | true, some mv => w.writeRaw mv p o.m pois
    | _, _ => w
  let w := match useV, u.m2 with
    | true, some vv => w.writeRaw vv p o.v pois
    | _, _ => w
  let bads := [o.w] ++ (if useM then [o.m] else []) ++ (if useV then [o.v] else [])
  { x with w := w, bad := x.bad + (bads.filter Val.nonfinite).length,
           w2 := if norm then fp64 (x.w2.add (o.w.mul o.w)) else x.w2, g2 := if norm then fp64 (x.g2.add (o.gn.mul o.gn)) else x.g2,
           d2 := if norm then fp64 (x.d2.add (o.d.mul o.d)) else x.d2 }

/-- Casts the kept positions of a tile into the working copy through the palette (R332, R342). -/
def Work.castTile (w : Work) (mast wc : View) (tile : Nat) (kept : List (Nat × Nat)) : Work :=
  let o := tileOrigin mast.ext tile
  let one (acc : List WElem × Work) (c : Nat × Nat) : List WElem × Work :=
    let x := acc.2.readRaw mast (posAt o c.1 c.2)
    (welem c.1 c.2 x.1 x.2.1 :: acc.1, x.2.2)
  let r := kept.foldl one ([], w)
  r.2.writeTile wc tile r.1.reverse

/-- One tile of a UPD (R332, R334). -/
def UpdRun.tile (x : UpdRun) (u : UpdViews) (c : UpdCoef) (form : Nat) (flag norm cast : Bool) (tile gtile : Nat) : UpdRun :=
  if !x.w.s.shardAgrees u.mast u.others tile then { x with off := x.off + 1 }
  else
    let k := if flag then x.w.keptCells u.mast tile else x.w.castCells u.mast tile
    let x := { x with w := k.2 }
    let x := if flag then k.1.foldl (fun x rq => x.pos u c form norm tile gtile rq) x else x
    match cast, u.wc with
    | true, some wc => { x with w := x.w.castTile u.mast wc tile k.1 }
    | _, _ => x

/-- The shard tag's END, written at the visibility boundary after every other write of the operation, with the step number of then (R346). -/
def State.tagEnd (s : State) (core : Nat) (a : VecArgs) (on : Bool) : List Effect :=
  if on then [.stepTag (s.tagAddr core a + 8)] else []

/-- The event and the fault of tiles whose layouts differ (R334). -/
def offEffects (key pc off : Nat) : List Effect :=
  if off = 0 then []
  else [.event (causeEvent 11 .commitCause 5 (srcCore (coreOf key)) [ctxOf key, pc]), .fault key pc 0x1C]

/-- The alarm and the count of masters and moments that are not finite (R334). -/
def nonfiniteEffects (key : Nat) (n : Nat) : List Effect :=
  if n = 0 then []
  else [.count Reg.updCount.offset 63 32 n, .event (causeAlarm 11 .commitCause 2 (srcCore (coreOf key)) [ctxOf key, n])]

/-- UPD: its work and the effects beside it (R329–R335). -/
def Work.upd (w : Work) (key pc : Nat) (a : VecArgs) : Work × List Effect :=
  match w.viewNo a.ra.toNat, w.viewNo a.rc.toNat with
  | some mast, some grad =>
    let s := w.s
    let imm := a.w.imm.toNat
    let u : UpdViews := { mast := mast, grad := grad, m1 := w.viewOpt a.m1, m2 := w.viewOpt a.m2, wc := w.viewOpt a.wc }
    let form := a.w.f 11 10
    let flag := s.fld .stepFlags 4 4 == 1
    let norm := flag && fieldOf a.w2 7 7 == 1
    let c := s.updCoef w.core a
    let zero := Val.fin false 0 0
    let x := (List.range a.t).foldl
      (fun (x : UpdRun) n => x.tile u c form flag norm (bitOf imm 9) (a.rb.toNat + n) (a.rd.toNat + n))
      { w := w, bad := 0, w2 := zero, g2 := zero, d2 := zero, off := 0 }
    let part : List Effect :=
      if norm then [.normPart (fieldOf a.w2 39 28) (fieldOf a.w2 27 22) (f64 x.w2) (f64 x.g2) (f64 x.d2)] else []
    (x.w, part ++ nonfiniteEffects key x.bad ++ s.tagEnd w.core a (bitOf imm 7) ++ offEffects key pc x.off)
  | _, _ => (w, [])

/-! ### MEVO -/

/-- A candidate swap of a unit (R341): its score and its key. -/
structure Cand where
  score : Val
  u1    : Nat
  v1    : Nat
  u2    : Nat
  v2    : Nat
  deriving DecidableEq, Repr

/-- The better of two candidates, the first having the lower key: a NaN score ranks below every number (R341). -/
def Cand.better (a b : Cand) : Cand := if a.score.isNan && !b.score.isNan || a.score.lt b.score then b else a

/-- The best candidate of a unit of `n` × `n` positions, from whether a position is kept, the probe gradient and the master. -/
def bestCand (n : Nat) (lambda : Val) (kept : Nat → Nat → Bool) (p w : Nat → Nat → Val) : Option Cand :=
  let pairs := (List.range n).flatMap fun u1 => (List.range n).flatMap fun v1 => (List.range n).flatMap fun u2 => (List.range n).filterMap fun v2 =>
    if u1 < u2 ∧ v1 ≠ v2 ∧ kept u1 v1 ∧ kept u2 v2 ∧ ¬ kept u1 v2 ∧ ¬ kept u2 v1 then some (u1, v1, u2, v2) else none
  let cand (k : Nat × Nat × Nat × Nat) : Cand :=
    let gs := fp32 ((p k.1 k.2.2.2).abs.add (p k.2.2.1 k.2.1).abs)
    let ws := fp32 ((w k.1 k.2.1).abs.add (w k.2.2.1 k.2.2.2).abs)
    { score := fp32 (gs.sub (fp32 (lambda.mul ws))), u1 := k.1, v1 := k.2.1, u2 := k.2.2.1, v2 := k.2.2.2 }
  pairs.foldl (fun best k => match best with
    | none => some (cand k)
    | some b => some (b.better (cand k))) none

/-- The tile row and column of position (u, v) of a unit: `inner` puts the group axis along columns; P24 units are quadrants of cells (R341,
R342). -/
def unitCell (pattern : Nat) (inner : Bool) (unit u v : Nat) : Nat × Nat :=
  let cell := if pattern = 1 then unit / 4 else unit
  let u := if pattern = 1 then 4 * (unit % 4 / 2) + u else u
  let v := if pattern = 1 then 4 * (unit % 2) + v else v
  let r := 8 * (cell / 16)
  let q := 8 * (cell % 16)
  if inner then (r + v, q + u) else (r + u, q + v)

/-- A swap as tile positions: the two pruned and the two regrown. -/
structure Swap where
  score  : Val
  pruned : List (Nat × Nat)
  grown  : List (Nat × Nat)
  deriving DecidableEq, Repr

/-- The ranked swaps of a tile (R342). -/
def Work.mevoRank (w : Work) (mast probe : View) (tile ptile pattern swaps : Nat) (inner : Bool) (lambda : Val) : List Swap :=
  let o := tileOrigin mast.ext tile
  let po := tileOrigin probe.ext ptile
  let n := if pattern = 1 then 4 else 8
  let one (unit : Nat) : Option Swap :=
    let at_ (u v : Nat) : Nat × Nat := unitCell pattern inner unit u v
    let kept (u v : Nat) : Bool := (w.rawBit mast (posAt o (at_ u v).1 (at_ u v).2)).1.isSome
    let pr (u v : Nat) : Val := (w.value probe (posAt po (at_ u v).1 (at_ u v).2)).1
    let ma (u v : Nat) : Val := (w.readRaw mast (posAt o (at_ u v).1 (at_ u v).2)).1
    match bestCand n lambda kept pr ma with
    | none => none
    | some c =>
      if (Val.fin false 0 0).lt c.score then
        some { score := c.score, pruned := [at_ c.u1 c.v1, at_ c.u2 c.v2], grown := [at_ c.u1 c.v2, at_ c.u2 c.v1] }
      else none
  let all := (List.range (if pattern = 1 then 1024 else 256)).filterMap one
  (sortBy (fun (a b : Swap) => !a.score.lt b.score) all).take swaps

/-- The pairs of a block, group-major, from the kept positions of its tile. -/
def pairsFrom (pattern : Nat) (inner : Bool) (kept : List (Nat × Nat)) (q : Nat) : List (Nat × Nat) :=
  let here := kept.filterMap fun c => if c.1 / 32 = q / 4 ∧ c.2 / 32 = q % 4 then some (c.1 % 32, c.2 % 32) else none
  let len := groupLen pattern
  (List.range (groupCount pattern)).flatMap fun g => (List.range 32).map fun v =>
    fillPair len (sortBy (fun a b => decide (a ≤ b)) (here.filterMap fun c =>
      let u := if inner then c.2 else c.1
      let o := if inner then c.1 else c.2
      if u / len = g ∧ o = v then some (u % len) else none))

/-- Gives a tile's images of a view new kept positions, and its elements within the edges new values: `value` is what a kept position then holds. -/
def Work.reshape (w : Work) (v : View) (tile entry : Nat) (blocks : List Nat) (kept : List (Nat × Nat)) (value : Nat × Nat → Val × Bool) : Work :=
  let pattern := stencilPattern entry
  let inner := stencilInner entry
  let o := tileOrigin v.ext tile
  let w := blocks.foldl (fun w q => w.putPairs (v.imageAddr entry q) 0 pattern (pairsFrom pattern inner kept q)) w
  let w := { w with opened := w.opened.filter fun x => x.1 != v.num }
  (kept.filter fun c => blocks.contains (4 * (c.1 / 32) + c.2 / 32) && v.inside (posAt o c.1 c.2)).foldl
    (fun w c => w.writeRaw v (posAt o c.1 c.2) (value c).1 (value c).2) w

/-- The values that a view holds at positions of a tile. -/
def Work.tileValues (w : Work) (v : View) (tile : Nat) (at_ : List (Nat × Nat)) : List ((Nat × Nat) × Val × Bool) × Work :=
  let o := tileOrigin v.ext tile
  let one (acc : List ((Nat × Nat) × Val × Bool) × Work) (c : Nat × Nat) : List ((Nat × Nat) × Val × Bool) × Work :=
    let x := acc.2.readRaw v (posAt o c.1 c.2)
    ((c, x.1, x.2.1) :: acc.1, x.2.2)
  at_.foldl one ([], w)

/-- Applies the swaps of a tile to the image of one view; `init` is the value of a regrown position (R342). -/
def Work.applySwaps (w : Work) (v : View) (tile entry : Nat) (old kept grown : List (Nat × Nat)) (init : Nat × Nat → Val) : Work :=
  let r := w.tileValues v tile old
  let value (c : Nat × Nat) : Val × Bool :=
    if grown.contains c then (init c, false)
    else match List.find? (fun x => x.1 == c) r.1 with
      | some x => (x.2.1, x.2.2)
      | none => (.fin false 0 0, false)
  let blocks := grown.foldl (fun b c => Marks.insert b (4 * (c.1 / 32) + c.2 / 32)) []
  r.2.reshape v tile entry blocks kept value

/-- The value of a regrown master (R342). -/
def State.mevoInit (s : State) (core : Nat) (a : VecArgs) (mast : View) (tile : Nat) (c : Nat × Nat) : Val :=
  if bitOf a.w.imm.toNat 7 then
    let p := posAt (tileOrigin mast.ext tile) c.1 c.2
    fp32 ((s.coefVal core a 0x30).mul (symmetric (rngWord (s.reg .rngSeed) 0xFFFFFFFF (s.coef core a 0x34) (mast.elemIndex p) s.stepLow)))
  else .fin false 0 0

/-- What a MEVO has come to: its work, its swaps, its DENSE tiles, the tiles refused, and the regrown masters that are NaN or infinite. -/
structure MevoRun where
  w     : Work
  swaps : Nat
  dense : Nat
  off   : Nat
  bad   : Nat
  deriving DecidableEq, Repr

/-- One tile of a MEVO (R342, R343): regrown masters beyond the edges are suppressed (R334). -/
def MevoRun.tile (x : MevoRun) (core : Nat) (a : VecArgs) (u : UpdViews) (flag cast : Bool) (swaps tile ptile : Nat) : MevoRun :=
  let entry := (x.w.s.entryOf u.mast tile).getD 0
  let pattern := stencilPattern entry
  let inner := stencilInner entry
  if !x.w.s.shardAgrees u.mast u.others tile then { x with off := x.off + 1 }
  else if pattern = 0 then { x with dense := x.dense + 1 }
  else
    let s := x.w.s
    let old := blockCells.filter fun c => (x.w.rawBit u.mast (posAt (tileOrigin u.mast.ext tile) c.1 c.2)).1.isSome
    let done := if flag then x.w.mevoRank u.mast u.grad tile ptile pattern swaps inner (s.coefVal core a 0x2C) else []
    let pruned := done.flatMap fun d => d.pruned
    let grown := done.flatMap fun d => d.grown
    let kept := blockCells.filter fun c => (old.contains c && !pruned.contains c) || grown.contains c
    let zero (_ : Nat × Nat) : Val := .fin false 0 0
    let init := s.mevoInit core a u.mast tile
    let o := tileOrigin u.mast.ext tile
    let new := grown.filter fun c => u.mast.inside (posAt o c.1 c.2)
    let w := if done.isEmpty then x.w
      else
        let w := (x.w.clip u.mast o (grown.map fun c => welem c.1 c.2 (.fin false 0 0) false)).2
        let w := w.applySwaps u.mast tile entry old kept grown init
        (u.m1.toList ++ u.m2.toList).foldl (fun w v => w.applySwaps v tile ((s.entryOf v tile).getD 0) old kept grown zero) w
    let w := match cast, u.wc with
      | true, some wc =>
        let w := if done.isEmpty then w
          else
            let e := (s.entryOf wc tile).getD 0
            let blocks := grown.foldl (fun b c => Marks.insert b (4 * (c.1 / 32) + c.2 / 32)) []
            blocks.foldl (fun w q => w.putPairs (wc.imageAddr e q) (elemFmtOf wc.man.format) pattern (pairsFrom pattern inner kept q)) w
        let w := { w with opened := w.opened.filter fun o => o.1 != wc.num }
        let k := w.castCells u.mast tile
        k.2.castTile u.mast wc tile k.1
      | _, _ => w
    { x with w := w, swaps := x.swaps + done.length, bad := x.bad + (new.filter fun c => (init c).nonfinite).length }

/-- MEVO: its work and the effects beside it. -/
def Work.mevo (w : Work) (key pc : Nat) (a : VecArgs) : Work × List Effect :=
  match w.viewNo a.ra.toNat, w.viewNo a.rc.toNat with
  | some mast, some probe =>
    let s := w.s
    let imm := a.w.imm.toNat
    let u : UpdViews := { mast := mast, grad := probe, m1 := w.viewOpt a.m1, m2 := w.viewOpt a.m2, wc := w.viewOpt a.wc }
    let flag := s.fld .stepFlags 4 4 == 1
    let x := (List.range (a.w.f 17 8)).foldl
      (fun (x : MevoRun) n => x.tile w.core a u flag (bitOf imm 6) (a.w.f 28 18) (a.rb.toNat + n) (a.rd.toNat + n))
      { w := w, swaps := 0, dense := 0, off := 0, bad := 0 }
    (x.w, countEffect .updCount 31 16 x.swaps ++ countEffect (.seqCount (coreFin key)) 15 0 x.dense ++ nonfiniteEffects key x.bad ++
      s.tagEnd w.core a (bitOf imm 5) ++ offEffects key pc x.off)
  | _, _ => (w, [])

/-! ### RMERGE -/

/-- The channel of an RMERGE. -/
def VecArgs.channel (a : VecArgs) : Nat := fieldOf a.w1 15 8

/-- RMERGE: the accumulator, and the channel's MERGED count (R294). -/
def Work.rmerge (w : Work) (a : VecArgs) : Work × List Effect :=
  match w.viewNo a.ra.toNat, w.viewNo a.rc.toNat with
  | some d, some v =>
    let clear := fieldOf a.w1 0 0 == 1
    let tile (w : Work) (n : Nat) : Work :=
      let o := tileOrigin d.ext (a.rb.toNat + n)
      let so := tileOrigin v.ext (a.rd.toNat + n)
      let one (acc : List WElem × Work) (c : Nat × Nat) : List WElem × Work :=
        if clear then (welem c.1 c.2 (.fin false 0 0) false :: acc.1, acc.2)
        else
          let x := acc.2.read d (posAt o c.1 c.2)
          let y := x.2.read v (posAt so c.1 c.2)
          (welem c.1 c.2 (fp32 (x.1.val.add y.1.val)) (x.1.pois || y.1.pois) :: acc.1, y.2)
      let inside := (cells 128 128).filter fun c => d.inside (posAt o c.1 c.2)
      let r := inside.foldl one ([], w)
      r.2.writeTile d (a.rb.toNat + n) r.1.reverse
    let ch : Fin 256 := Fin.ofNat 256 a.channel
    let chan := Tab.find? w.s.red.channels a.channel
    let h : Half := match chan with
      | some c => if c.east then .east else .west
      | none => w.s.coreHalf w.core
    let r := Reg.redChanState h ch
    (w.eachTile tile a.t, [if clear then .field r.offset 31 16 0 else .count r.offset 31 16 1])
  | _, _ => (w, [])

end Sys2Proof.Machine
end

