-- ==== Sys2Proof/Machine/VecUnit.lean ====
section
/-! DEFINITION. The vector unit: what starts an operation on it and when (R34, R142), and the issue of its instructions with their
cases (R155, R294, R319, R334, R339, R340, R451, R486, R497, R498). -/

namespace Sys2Proof.Machine

/-- The work of a vector-class instruction, its effects beside the work's own, and whether a suppressed position faults it in STRICT (R184). -/
def Work.vector (w : Work) (key pc opcode : Nat) (a : VecArgs) : Work × List Effect × Bool :=
  match opcode with
  | 0x30 => (w.vew a, [], true)
  | 0x31 => (w.vred a, [], true)
  | 0x32 =>
    let r := w.upd key pc a
    (r.1, r.2, true)
  | 0x33 =>
    let r := w.mevo key pc a
    (r.1, r.2, true)
  | 0x34 => (w.rng a, [], true)
  | 0x35 =>
    let r := w.vfin a
    (r.2, [.finite key pc r.1], true)
  | 0x36 =>
    let r := w.crc key pc a
    (r.1, r.2, true)
  | 0x49 =>
    let r := w.rmerge a
    (r.1, r.2, true)
  | _ => (w.vop a, [], true)

/-- The effects of a vector-class instruction that starts now, and its work. -/
def State.vectorEffects (s : State) (key pc opcode : Nat) (a : VecArgs) : State × List Effect × Work :=
  let x := s.runWork (coreOf key) fun w => (w.vector key pc opcode a).1
  let r := (Work.start (x.1.readBase (coreOf key) x.2) (coreOf key)).vector key pc opcode a
  (x.1, r.1.effects key pc r.2.2 ++ r.2.1, x.2)

/-- A vector-class operation about to be issued: its rating in steps, whether it holds the palette's instruction pipe, its result registers. -/
structure VecLaunch where
  opcode : Nat
  words  : Nat
  steps  : Nat
  pal    : Bool
  regs   : List Nat
  kind   : OpKind
  deriving DecidableEq, Repr

/-- Whether the vector unit of a strand's core can accept an operation, and the strand its tag (R141, R142). -/
def State.vecReady (s : State) (key : Nat) (w : Word0) : Bool :=
  !(s.strand key).tagFull w.tagOf && decide (s.outstanding (coreOf key) .vector < 4)

/-- The start boundary of a vector-class operation: behind the unit's previous one, and the pipe's where it converts (R34, R74). -/
def State.vecStart (s : State) (core : Nat) (pal : Bool) : Nat :=
  let t := max s.boundary (Tab.get 0 s.vectorFree core)
  if pal then max t (Tab.get 0 s.pipeFree (2 * core + 1)) else t

/-- Issues a vector-class operation that has passed its cases. `ps` beyond the rated steps is the rating of its memory side (CRC). -/
def State.vecLaunch (s : State) (key : Nat) (a : VecArgs) (l : VecLaunch) (ps : Nat) : Issued :=
  let core := coreOf key
  let pc := (s.strand key).pc.toNat
  let x := s.vectorEffects key pc l.opcode a
  if x.2.2.sumBad then s.faultIssue key 0x15
  else
    let start := s.vecStart core l.pal
    let now := start = s.boundary
    let vis := s.visibleAt start (s.stepsPs (x.2.2.withSums x.1 l.steps) + ps)
    let s := if now then x.1 else s
    let s := { s with vectorFree := Tab.set 0 s.vectorFree core vis }
    let s := if l.pal then s.holdPipe core 1 vis else s
    s.launch key
      { opcode := l.opcode, words := l.words, engine := .vector, kind := l.kind, tag := a.w.tagOf, regs := l.regs, start := start, vis := vis,
        later := if now then none else some (.vector l.opcode a), effects := if now then x.2.1 else [], remote := .none,
        reads := x.2.2.readSpans,
        holds := .vector core :: if l.pal then [.pipe (2 * core + 1)] else [] }

/-- The words and registers of an instruction as a strand issues it. -/
def vecArgs (w : Word0) (w1 w2 : W64) (st : Strand) : VecArgs :=
  { w := w, w1 := w1, w2 := w2, ra := st.x w.a, rb := st.x w.b, rc := st.x w.c, rd := st.x w.d }

/-- Whether a format is unscaled FP32 without a stencil. -/
def View.plainF32 (v : View) : Bool := v.man.format == 0 && !v.man.stencilled

/-! ### VEW, VRED, VOP -/

/-- VEW (R497). -/
def fxVew (w : Word0) (w1 : W64) (key : Nat) (s : State) : Issued :=
  let st := s.strand key
  let core := coreOf key
  let a := vecArgs w w1 0 st
  let op := w.f 11 8
  let bn := fieldOf w1 47 24
  if st.blocked [w.a, w.b, w.c, w.d] then s.waitHere key 0
  else if a.t = 0 ∨ a.rows = 0 ∨ a.cols = 0 then s.noopIssue key 2
  else if 128 < a.rows ∨ 128 < a.cols ∨ 0xC ≤ op ∨ (bn ≠ 0) ≠ vewNeedsB op ∨ (bn = 0 ∧ fieldOf w1 23 0 ≠ 0) then s.faultIssue key 0x01
  else
    let b : Except Nat (Option View) := if bn = 0 then .ok none else (s.operandNo core bn .reads).map some
    match s.operand core a.ra .writes, s.operand core a.rc .reads, b with
    | .error c, _, _ => s.faultOp key c 0 [a.ra.toNat]
    | _, .error c, _ => s.faultOp key c 0 [a.rc.toNat]
    | _, _, .error c => s.faultOp key c 0 [bn]
    | .ok d, .ok x, .ok y =>
      if d.man.empty || x.man.empty || (match y with | some v => v.man.empty | none => false) then s.noopIssue key 2
      else if !d.tilesHeld a.rb.toNat a.t false then s.faultOp key 0x13 0 [d.num, a.rb.toNat]
      else if !x.tilesHeld a.rd.toNat a.t true then s.faultOp key 0x13 0 [x.num, a.rd.toNat]
      else if !(match y with | some v => v.tilesHeld (fieldOf w1 23 0) a.t true | none => true) then
        s.faultOp key 0x13 0 [bn, fieldOf w1 23 0]
      else if !s.vecReady key w then s.waitHere key 0
      else
        let pal := !d.plainF32
        s.vecLaunch key a
          { opcode := 0x30, words := 2, steps := 6 + ceilDiv (a.t * a.rows * a.cols) 64 + (if pal then 16 * a.t else 0), pal := pal, regs := [],
            kind := .localWrite } 0

/-- VRED (R498). -/
def fxVred (w : Word0) (w1 : W64) (key : Nat) (s : State) : Issued :=
  let st := s.strand key
  let core := coreOf key
  let a := vecArgs w w1 0 st
  if st.blocked [w.a, w.b, w.c, w.d] then s.waitHere key 0
  else if a.t = 0 ∨ a.rows = 0 ∨ a.cols = 0 then s.noopIssue key 2
  else if 128 < a.rows ∨ 128 < a.cols ∨ w.f 9 8 = 3 then s.faultIssue key 0x01
  else
    match s.operand core a.ra .writes, s.operand core a.rc .reads with
    | .error c, _ => s.faultOp key c 0 [a.ra.toNat]
    | _, .error c => s.faultOp key c 0 [a.rc.toNat]
    | .ok d, .ok x =>
      if d.man.empty || x.man.empty then s.noopIssue key 2
      else if !d.tileHeld a.rb.toNat false then s.faultOp key 0x13 0 [d.num, a.rb.toNat]
      else if !x.tilesHeld a.rd.toNat a.t true then s.faultOp key 0x13 0 [x.num, a.rd.toNat]
      else if !s.vecReady key w then s.waitHere key 0
      else
        let pal := d.man.format != 0
        s.vecLaunch key a
          { opcode := 0x31, words := 2, steps := 6 + ceilDiv (a.t * a.rows * a.cols) 64 + (if pal then 16 else 0), pal := pal, regs := [],
            kind := .localWrite } 0

/-- VOP of SSI-1 (R486). -/
def fxVop (w : Word0) (key : Nat) (s : State) : Issued :=
  let st := s.strand key
  let core := coreOf key
  let a := vecArgs w 0 0 st
  if st.blocked [w.a, w.b, w.c] then s.waitHere key 0
  else
    match s.operand core a.ra .writes, s.operand core a.rb .reads, s.operand core a.rc .reads with
    | .error c, _, _ => s.faultOp key c 0 [a.ra.toNat]
    | _, .error c, _ => s.faultOp key c 0 [a.rb.toNat]
    | _, _, .error c => s.faultOp key c 0 [a.rc.toNat]
    | .ok d, .ok x, .ok y =>
      if d.man.empty || x.man.empty || y.man.empty then s.noopIssue key 1
      else if !d.tilesHeld 0 (tileCount d.ext) false then s.faultOp key 0x13 0 [d.num, 0]
      else if !x.tilesHeld 0 (tileCount d.ext) true then s.faultOp key 0x13 0 [x.num, 0]
      else if !y.tilesHeld 0 (tileCount d.ext) true then s.faultOp key 0x13 0 [y.num, 0]
      else if !s.vecReady key w then s.waitHere key 0
      else
        s.vecLaunch key a
          { opcode := 0x88, words := 1, steps := 6 + ceilDiv (posCount d.ext) 64, pal := false, regs := [], kind := .localWrite } 0

/-! ### UPD and MEVO -/

/-- COMMITTING (R318, R319). -/
def State.committing (s : State) : Bool := s.fld .stepFlags 3 3 == 1

/-- Whether a view is unscaled FP32 with USE = BOTH, as a master or a moment must be (R334). -/
def View.isMaster (v : View) : Bool := v.man.format == 0 && v.man.use == 2

/-- Whether two views have the same NDIM, extents and STENCILLED (R334). -/
def View.sameShape (a b : View) : Bool :=
  a.man.ndim == b.man.ndim && (List.range 6).all (fun d => (a.man.dim d).extent == (b.man.dim d).extent) && a.man.stencilled == b.man.stencilled

/-- A manifest number in an instruction's words; 0 names none. -/
def State.optNo (s : State) (core num : Nat) (u : Option Usage) : Except Nat (Option View) :=
  if num = 0 then .ok none
  else match s.view core num with
    | none => .error 0x04
    | some v => match u with
      | some x => if x.forbidden v.man.use then .error 0x14 else .ok (some v)
      | none => .ok (some v)

/-- A manifest operand in a register whose USE the instruction's own cases check. -/
def State.operandAny (s : State) (core : Nat) (r : W64) : Except Nat View :=
  if 2 ^ 24 ≤ r.toNat then .error 0x01
  else match s.view core r.toNat with
    | none => .error 0x04
    | some v => .ok v

/-- What UPD and MEVO need beside their words: the moments that are needed, CAST, the tile count and the field values that are reserved. -/
structure ShardOp where
  opcode   : Nat
  t        : Nat
  needM1   : Bool
  needM2   : Bool
  cast     : Bool
  tagBegin : Bool
  deriving DecidableEq, Repr

/-- The operands of an update instruction (R334); the working copy is written with CAST only. -/
def State.shardOperands (s : State) (core : Nat) (a : VecArgs) (cast : Bool) : Except Nat UpdViews :=
  match s.operandAny core a.ra, s.operand core a.rc .reads, s.optNo core a.m1 none, s.optNo core a.m2 none, s.optNo core a.wc (if cast then some .writes else none) with
  | .ok m, .ok g, .ok m1, .ok m2, .ok wc => .ok { mast := m, grad := g, m1 := m1, m2 := m2, wc := wc }
  | .error c, _, _, _, _ => .error c
  | _, .error c, _, _, _ => .error c
  | _, _, .error c, _, _ => .error c
  | _, _, _, .error c, _ => .error c
  | _, _, _, _, .error c => .error c

/-- Whether the operands fail a row of R334 that faults with UPDATE_OPERAND at issue. -/
def UpdViews.badOperand (u : UpdViews) (a : VecArgs) (o : ShardOp) : Bool :=
  let moments := u.m1.toList ++ u.m2.toList
  !u.mast.isMaster || moments.any (fun v => !v.isMaster || !u.mast.sameShape v) || !u.grad.plainF32 || (o.needM1 && u.m1.isNone) ||
    (o.needM2 && u.m2.isNone) || (o.cast && u.wc.isNone) || decide (0x200000 < a.coefAddr + 64)

/-- Issues a UPD or a MEVO that is not a no-op (R319, R333, R334, R343, R346); `steps` is its rating without the cast, by its operands. -/
def State.shardOp (s : State) (key : Nat) (a : VecArgs) (o : ShardOp) (reserved : UpdViews → Bool) (steps : UpdViews → Nat) : Issued :=
  let core := coreOf key
  if o.t = 0 then s.noopIssue key 3
  else if !s.committing then s.faultOp key 0x1A 0 []
  else
    match s.shardOperands core a o.cast with
    | .error c => s.faultOp key c 0 [a.ra.toNat]
    | .ok u =>
      if reserved u then s.faultIssue key 0x01
      else if u.mast.man.empty then s.noopIssue key 3
      else if u.badOperand a o then s.faultOp key 0x1C 0 []
      else if !(u.mast :: u.others).all (fun v => v.tilesHeld a.rb.toNat o.t false) then s.faultOp key 0x13 0 [u.mast.num, a.rb.toNat]
      else if !u.grad.tilesHeld a.rd.toNat o.t true then s.faultOp key 0x13 0 [u.grad.num, a.rd.toNat]
      else if !s.vecReady key a.w then s.waitHere key 0
      else
        let s := if o.tagBegin then s.memWrite (s.tagAddr core a) (leBytes 8 (s.reg .stepNumber).toNat) else s
        s.vecLaunch key a
          { opcode := o.opcode, words := 3, steps := steps u + (if o.cast then 16 * o.t else 0), pal := o.cast, regs := [], kind := .localWrite } 0

/-- UPD (R329). -/
def fxUpd (w : Word0) (w1 w2 : W64) (key : Nat) (s : State) : Issued :=
  let st := s.strand key
  let a := vecArgs w w1 w2 st
  let form := w.f 11 10
  let factor := match form with
    | 0 => 2
    | 2 => 6
    | _ => 3
  if st.blocked [w.a, w.b, w.c, w.d] then s.waitHere key 0
  else
    s.shardOp key a
      { opcode := 0x32, t := a.t, needM1 := form != 0, needM2 := form == 2, cast := bitOf w.imm.toNat 9, tagBegin := bitOf w.imm.toNat 8 }
      (fun _ => false)
      (fun u => 6 + factor * ceilDiv (((List.range a.t).map fun n => s.storedCount u.mast (a.rb.toNat + n)).sum) 64)

/-- MEVO (R343). -/
def fxMevo (w : Word0) (w1 w2 : W64) (key : Nat) (s : State) : Issued :=
  let st := s.strand key
  let a := vecArgs w w1 w2 st
  let t := w.f 17 8
  let swaps := w.f 28 18
  let p28 (u : UpdViews) (n : Nat) : Bool := match s.entryOf u.mast (a.rb.toNat + n) with
    | some e => stencilPattern e == 2
    | none => false
  if st.blocked [w.a, w.b, w.c, w.d] then s.waitHere key 0
  else
    s.shardOp key a
      { opcode := 0x33, t := t, needM1 := false, needM2 := false, cast := bitOf w.imm.toNat 6, tagBegin := false }
      (fun u => decide (1024 < swaps) || (decide (256 < swaps) && (List.range t).any (p28 u)))
      (fun _ => 6 + 336 * t)

/-! ### RNG, VFIN, CRC, RMERGE -/

/-- RNG (R339). -/
def fxRng (w : Word0) (w1 : W64) (key : Nat) (s : State) : Issued :=
  let st := s.strand key
  let a := vecArgs w w1 0 st
  if st.blocked [w.a, w.b, w.c] then s.waitHere key 0
  else if a.t = 0 then s.noopIssue key 2
  else if 0xFFFFFFFE ≤ fieldOf w1 31 0 then s.faultIssue key 0x01
  else
    match s.operand (coreOf key) a.ra .writes with
    | .error c => s.faultOp key c 0 [a.ra.toNat]
    | .ok d =>
      if d.man.empty then s.noopIssue key 2
      else if w.f 11 10 = 0 ∧ d.man.format ≠ 0 then s.faultIssue key 0x01
      else if !d.tilesHeld a.rb.toNat a.t false then s.faultOp key 0x13 0 [d.num, a.rb.toNat]
      else if !s.vecReady key w then s.waitHere key 0
      else
        s.vecLaunch key a
          { opcode := 0x34, words := 2, steps := 6 + ceilDiv (a.t * 16384) 64, pal := false, regs := [], kind := .localWrite } 0

/-- VFIN (R340). -/
def fxVfin (w : Word0) (w1 : W64) (key : Nat) (s : State) : Issued :=
  let st := s.strand key
  let a := vecArgs w w1 0 st
  if st.blocked [w.b, w.c] then s.waitHere key 0
  else if a.t = 0 then s.noopIssue key 2
  else
    match s.operand (coreOf key) a.rb .reads with
    | .error c => s.faultOp key c 0 [a.rb.toNat]
    | .ok v =>
      if v.man.empty then s.noopIssue key 2
      else if !v.tilesHeld a.rc.toNat a.t false then s.faultOp key 0x13 0 [v.num, a.rc.toNat]
      else if !s.vecReady key w then s.waitHere key 0
      else
        let n := ((List.range a.t).map fun i => ((Work.start s (coreOf key)).storedCells v (a.rc.toNat + i)).length).sum
        s.vecLaunch key a
          { opcode := 0x35, words := 2, steps := 6 + ceilDiv n 64, pal := false, regs := [], kind := .plain } 0

/-- CRC (R451–R453): rated as the reading side of a transfer plus 8 steps. -/
def fxCrc (w : Word0) (w1 : W64) (key : Nat) (s : State) : Issued :=
  let st := s.strand key
  let core := coreOf key
  let a := vecArgs w w1 0 st
  if st.blocked [w.b, w.c, w.d] then s.waitHere key 0
  else if a.t = 0 then s.noopIssue key 2
  else if w.f 9 8 = 3 then s.faultIssue key 0x01
  else
    match s.operand core a.rb .reads with
    | .error c => s.faultOp key c 0 [a.rb.toNat]
    | .ok v =>
      if v.man.empty then s.noopIssue key 2
      else if !v.tilesHeld a.rc.toNat a.t false then s.faultOp key 0x13 0 [v.num, a.rc.toNat]
      else if !s.vecReady key w then s.waitHere key 0
      else
        let m := ((Work.start s core).crcMessage a v).2
        let steps := s.readSide core v.man.allocBase m
        match s.rate s.nextOp core (s.vecStart core false) steps 8 m.readUses [] with
        | none => s.faultIssue key 0x17
        | some r =>
          r.2.vecLaunch key a { opcode := 0x36, words := 2, steps := 0, pal := false, regs := [w.a], kind := .plain } r.1

/-- RMERGE (R294, R319). -/
def fxRmerge (w : Word0) (w1 : W64) (key : Nat) (s : State) : Issued :=
  let st := s.strand key
  let core := coreOf key
  let a := vecArgs w w1 0 st
  if st.blocked [w.a, w.b, w.c, w.d] then s.waitHere key 0
  else if a.t = 0 then s.noopIssue key 2
  else if !s.committing then s.faultOp key 0x1A 0 []
  else if s.fld .stepFlags 4 4 = 0 then s.noopIssue key 2
  else
    match s.operand core a.ra .both, s.operand core a.rc .reads with
    | .error c, _ => s.faultOp key c 0 [a.ra.toNat]
    | _, .error c => s.faultOp key c 0 [a.rc.toNat]
    | .ok d, .ok v =>
      if d.man.empty || v.man.empty then s.noopIssue key 2
      else if !d.tilesHeld a.rb.toNat a.t false then s.faultOp key 0x13 0 [d.num, a.rb.toNat]
      else if !v.tilesHeld a.rd.toNat a.t true then s.faultOp key 0x13 0 [v.num, a.rd.toNat]
      else if !s.vecReady key w then s.waitHere key 0
      else
        s.vecLaunch key a
          { opcode := 0x49, words := 2, steps := 6 + ceilDiv (a.t * 16384) 64, pal := false, regs := [], kind := .localWrite } 0

/-! ### The rows -/

def execVew (st : StrandRef) (w : Word0) (w1 : W64) (s : State) : Host.Outcome State Fault Refusal := runRow st (fxVew w w1) s
def execVred (st : StrandRef) (w : Word0) (w1 : W64) (s : State) : Host.Outcome State Fault Refusal := runRow st (fxVred w w1) s
def execUpd (st : StrandRef) (w : Word0) (w1 w2 : W64) (s : State) : Host.Outcome State Fault Refusal := runRow st (fxUpd w w1 w2) s
def execMevo (st : StrandRef) (w : Word0) (w1 w2 : W64) (s : State) : Host.Outcome State Fault Refusal := runRow st (fxMevo w w1 w2) s
def execRng (st : StrandRef) (w : Word0) (w1 : W64) (s : State) : Host.Outcome State Fault Refusal := runRow st (fxRng w w1) s
def execVfin (st : StrandRef) (w : Word0) (w1 : W64) (s : State) : Host.Outcome State Fault Refusal := runRow st (fxVfin w w1) s
def execCrc (st : StrandRef) (w : Word0) (w1 : W64) (s : State) : Host.Outcome State Fault Refusal := runRow st (fxCrc w w1) s
def execVop (st : StrandRef) (w : Word0) (s : State) : Host.Outcome State Fault Refusal := runRow st (fxVop w) s
def execRmerge (st : StrandRef) (w : Word0) (w1 : W64) (s : State) : Host.Outcome State Fault Refusal := runRow st (fxRmerge w w1) s

end Sys2Proof.Machine
end

