-- ==== Sys2Proof/Machine/Reduce.lean ====
section
/-! DEFINITION. Gradient reduction (R289–R315): staging, arming, leaves, formed nodes, the cells between them, backups, and the root's shard. -/

namespace Sys2Proof.Machine

/-! ### Channels, shards and cells (R289, R290, R293) -/

/-- The half whose unit serves a channel. -/
def Channel.half (c : Channel) : Half := if c.east then .east else .west

/-- A channel's descriptor. -/
def State.channel (s : State) (ch : Nat) : Option Channel := Tab.find? s.red.channels ch

/-- A channel's run-time state. -/
def State.chanRun (s : State) (ch : Nat) : ChanRun := Tab.get ChanRun.idle s.red.runs ch

/-- Stores a channel's run-time state. -/
def State.setChanRun (s : State) (ch : Nat) (r : ChanRun) : State := { s with red := { s.red with runs := Tab.set ChanRun.idle s.red.runs ch r } }

/-- RED_CHAN_STATE of a channel (R315). -/
def Channel.stateReg (c : Channel) (ch : Nat) : Reg := .redChanState c.half (Fin.ofNat 256 ch)

/-- Cells in a bucket tile (R290). -/
def Channel.perTile (c : Channel) : Nat := if c.iqw then 342 else 128

/-- Whether a step is a reduction step of the channel (R293). -/
def Channel.reduces (c : Channel) (step : Nat) : Bool := step % max 1 c.accumN + 1 == c.accumN

/-- The bucket tile of a cell, its first element there and its element count (R290). -/
def Channel.cellSpan (c : Channel) (cell : Nat) : Nat × Nat × Nat :=
  let pos := cell % c.perTile
  if c.iqw then (cell / c.perTile, 48 * pos, min 48 (16384 - 48 * pos)) else (cell / c.perTile, 128 * pos, 128)

/-- Whether a channel is ARMED or DONE; a thermal trip stops every engine of the reduction (R421). -/
def State.armedNow (s : State) (c : Channel) (ch : Nat) : Bool := s.fld (c.stateReg ch) 1 1 == 1 && !s.tripped
def State.doneNow (s : State) (c : Channel) (ch : Nat) : Bool := s.fld (c.stateReg ch) 2 2 == 1

/-- The step number. -/
def State.stepNo (s : State) : Nat := (s.reg .stepNumber).toNat

/-- The leaf exponent of a cell's elements (R303). -/
def leafExp (xs : List Val) : Nat :=
  if xs.any Val.nonfinite then 0xFF
  else
    let amax := xs.foldl (fun a x => if a.lt x.abs then x.abs else a) (.fin false 0 0)
    if amax.isZero then 0 else (max (min amax.floorLog2 127) (-126) + 127).toNat

/-- The residue of a cell's values (R308). -/
def residueOf (vs : List Int) : Nat := (vs.foldl (fun a v => a + v) 0 % 65535).toNat

/-! ### RCONTRIB (R295, R296) -/

/-- The fields of RCONTRIB as a strand issues it. -/
structure ContribArgs where
  channel : Nat
  b       : Nat
  src     : W64
  st      : Nat
  t       : Nat
  acc     : Nat
  deriving DecidableEq, Repr

/-- Whether a bucket tile is staged in this step, or on its way. -/
def State.stagedTile (s : State) (ch tile : Nat) : Bool :=
  let marks (e : Effect) : Bool := match e with
    | .staged c t => c == ch && t == tile
    | _ => false
  (s.chanRun ch).staged.contains tile || s.ops.any fun o => o.effects.any marks

/-- The cases of R296 that rest on the channel. -/
def State.contribBad (s : State) (a : ContribArgs) : Bool :=
  match s.channel a.channel with
  | none => true
  | some c =>
    !c.enabled || !c.contributes || decide (c.tiles < a.b + a.t) || (List.range a.t).any (fun n => s.stagedTile a.channel (a.b + n)) ||
      !c.reduces s.stepNo || s.armedNow c a.channel

/-- A source value: a position beyond the edges reads as +0 and is not counted. -/
def Work.contribRead (w : Work) (v : View) (p : List Int) : Val × Bool × Work :=
  if v.inside p then
    let r := w.read v p
    (r.1.val, r.1.pois, r.2)
  else (.fin false 0 0, false, w)

/-- One contribution tile: its values in the order of the tile image, written to the STAGE tile, with its leaf exponents for IQW. -/
def Work.contribTile (w : Work) (c : Channel) (stage v : View) (acc : Option View) (a : ContribArgs) (n : Nat) : Work :=
  let one (x : List WElem × Work) (k : Nat × Nat) : List WElem × Work :=
    let p := x.2.contribRead v (posAt (tileOrigin v.ext (a.st + n)) k.1 k.2)
    match acc with
    | none => ({ r := k.1, q := k.2, val := p.1, nz := p.1.nz, pois := p.2.1, raw := none } :: x.1, p.2.2)
    | some av =>
      let q := p.2.2.contribRead av (posAt (tileOrigin av.ext (a.st + n)) k.1 k.2)
      let z := fp32 (p.1.add q.1)
      ({ r := k.1, q := k.2, val := z, nz := z.nz, pois := p.2.1 || q.2.1, raw := none } :: x.1, q.2.2)
  let r := (cells 128 128).foldl one ([], w)
  let es := r.1.reverse
  let w := r.2.writeTile stage (a.b + n) es
  if c.iqw then
    let exps := (List.range 342).map fun i => BitVec.ofNat 8 (leafExp (((es.drop (48 * i)).take 48).map fun e => e.val))
    w.putBytes (stage.man.allocBase + 0x10000 * c.tiles + 512 * (a.b + n)) (exps ++ List.replicate 170 0)
  else w

/-- Issues an RCONTRIB that is not a no-op: through the palette's instruction pipe, rated under R196 plus 16 steps a tile. -/
def State.contrib (s : State) (key : Nat) (w : Word0) (a : ContribArgs) : Issued :=
  let core := coreOf key
  if s.contribBad a then s.faultIssue key 0x18
  else
    match s.channel a.channel with
    | none => s.faultIssue key 0x18
    | some c =>
      match s.operandNo core c.stage .writes, s.operand core a.src .reads, (if a.acc = 0 then .ok none else (s.operandNo core a.acc .reads).map some) with
      | .error e, _, _ => s.faultOp key e 0 [c.stage]
      | _, .error e, _ => s.faultOp key e 0 [a.src.toNat]
      | _, _, .error e => s.faultOp key e 0 [a.acc]
      | .ok stage, .ok v, .ok acc =>
        let srcs := v :: acc.toList
        if v.man.empty then s.noopIssue key 2
        else if srcs.any (fun x => !x.plainF32) then s.faultIssue key 0x18
        else if !srcs.all (fun x => x.tilesHeld a.st a.t false) then s.faultOp key 0x13 0 [v.num, a.st]
        else if !s.fabReady key w.tagOf || !s.pipeIdle core 1 then s.waitHere key 0
        else
          let x := s.runWork core fun k => (List.range a.t).foldl (fun k n => k.contribTile c stage v acc a n) k
          let rd := srcs.foldl (fun m y => max m (s.readSide core y.man.allocBase x.2)) 0
          let wr := s.writeSide core stage.man.allocBase x.2
          s.launchTransfer x.1 key
            { opcode := 0x48, words := 2, engine := .fabric, tag := w.tagOf, steps := max rd wr, extra := 16 * a.t, clips := true,
              holds := [.pipe (2 * core + 1)] } x.2
            ((List.range a.t).map fun n => .staged a.channel (a.b + n)) (fun vis s => s.holdPipe core 1 vis)

/-- RCONTRIB (R295). -/
def fxRcontrib (w : Word0) (w1 : W64) (key : Nat) (s : State) : Issued :=
  let st := s.strand key
  let a : ContribArgs := { channel := (st.x w.a).toNat, b := (st.x w.b).toNat, src := st.x w.c, st := (st.x w.d).toNat, t := w.f 28 12,
                           acc := fieldOf w1 63 40 }
  if st.blocked [w.a, w.b, w.c, w.d] then s.waitHere key 0 else if a.t = 0 then s.noopIssue key 2 else s.contrib key w a

def execRcontrib (st : StrandRef) (w : Word0) (w1 : W64) (s : State) : Host.Outcome State Fault Refusal := runRow st (fxRcontrib w w1) s

/-- A bucket tile's staging becomes visible; the bucket is full when all are staged (R295). -/
def State.stageTile (s : State) (ch tile : Nat) : State :=
  match s.channel ch with
  | none => s
  | some c =>
    let run := s.chanRun ch
    let staged := Marks.insert run.staged tile
    let s := s.setChanRun ch { run with staged := staged }
    if c.tiles ≤ staged.length then s.setFld (c.stateReg ch) 0 0 1 else s

/-! ### Node entries (R298, R299) -/

/-- A node entry by its key, 4096 × half + entry. -/
def State.node (s : State) (key : Nat) : Option Node := Tab.find? s.red.nodes key

/-- The keys of a channel's entries on this chip. -/
def State.chanNodes (s : State) (ch : Nat) : List (Nat × Node) := s.red.nodes.filter fun e => e.2.channel == ch

/-- The first bucket cell of an entry's shard and the number of its cells. -/
def Node.first (n : Node) (c : Channel) : Nat := n.shardFirst * c.perTile
def Node.count (n : Node) (c : Channel) : Nat := n.shardTiles * c.perTile

/-- Input 0 or 1 of an entry. -/
def Node.input (n : Node) (right : Bool) : NodeIn := if right then n.in1 else n.in0

/-- LO of the node or leaf that an input carries (R298). -/
def Node.inputLo (n : Node) (right : Bool) : Nat := if right then n.lo + 2 ^ (n.level - 1) else n.lo

/-- LO of the parent of a node: an odd last element of a level passes up unchanged (R298); at most `fuel` levels. -/
def parentLo (g : Nat) : Nat → Nat → Nat → Nat
  | 0, _, lo => lo
  | fuel + 1, level, lo =>
    let i := lo / 2 ^ level
    let n := ceilDiv g (2 ^ level)
    if i % 2 = 0 ∧ i + 1 = n then parentLo g fuel (level + 1) lo else i / 2 * 2 ^ (level + 1)

/-- The local entry that consumes an entry's output, with its input (false left). -/
def State.consumer (s : State) (key : Nat) (ch : Nat) : Option (Nat × Bool) :=
  (s.chanNodes ch).findSome? fun e =>
    if nodeHalf e.1 ≠ nodeHalf key ∨ e.2.level = 0 then none
    else if !e.2.in0.remote && e.2.in0.src == key % 4096 then some (e.1, false)
    else if !e.2.in1.remote && e.2.in1.src == key % 4096 then some (e.1, true)
    else none

/-- Starts the step flags of a half's unit: both read 1 until a root cell or a check of the step clears them (R313). -/
def State.redBegin (s : State) (h : Half) : State :=
  let r := Reg.redStepStatus h
  if s.fld r 63 32 = s.stepLow then s else s.setReg r (withField (withField (s.reg r) 63 32 s.stepLow) 1 0 3)

/-- Clears a step flag of a half: 0 FINITE, 1 INTEGRITY. -/
def State.redClear (s : State) (h : Half) (bit : Nat) : State := (s.redBegin h).setFld (.redStepStatus h) bit bit 0

/-! ### Sending cells (R305) -/

/-- The bytes of a value in a cell's payload: 0 SUM, 1 EXP_UP, 2 EXP_DOWN. -/
def Channel.valueBytes (c : Channel) (phase level : Nat) : Nat :=
  if phase ≠ 0 then 1 else if !c.iqw then 2 else if level = 0 then 3 else 5

/-- ARG of a REDUCE cell. -/
def redArg (c : Channel) (n : Node) (phase residue step : Nat) (finite : Bool) : W64 :=
  BitVec.ofNat 64 (residue % 65536 + n.lo % 65536 * 2 ^ 16 + n.level % 32 * 2 ^ 32 + (if finite then 2 ^ 37 else 0) +
    (if c.backupRole && n.level == 0 then 2 ^ 38 else 0) + phase * 2 ^ 39 + step % 65536 * 2 ^ 48)

/-- Queues a REDUCE cell on a SEND context, with POISON where it comes from poisoned data (R258); an armed 0x0010 adds one to its residue (R432). -/
def State.sendRed (s : State) (ch : Nat) (c : Channel) (n : Node) (flow phase cell : Nat) (values : List Int) (residue : Nat) (finite poison : Bool) : State :=
  let h := c.half.index
  let bad := s.armed 0x10 h
  let s := if bad then s.disarm 0x10 h else s
  let w := c.valueBytes phase n.level
  let payload := values.flatMap fun v => leBytes w (unsignedOf (8 * w) v)
  s.sendCellOf ((s.chanRun ch).armAt.getD s.now) flow 0x0B (if poison then 1 else 0) (cell % 2 ^ 32 + ch * 2 ^ 32) (redArg c n phase (if bad then (residue + 1) % 65535 else residue) s.stepNo finite) payload s.nowPs

/-! ### Leaves (R302–R304) -/

/-- An element of a staged bucket tile; positions beyond STAGE's edges read as +0. -/
def State.stageVal (s : State) (v : View) (tile e : Nat) : Val :=
  let p := posAt (tileOrigin v.ext tile) (e / 128) (e % 128)
  if v.inside p then Val.ofF32 (BitVec.ofNat 32 (leNat (s.readBytes ((v.bitAt (v.loc p)).toNat / 8) 4))) else .fin false 0 0

/-- The elements of a staged cell. -/
def State.stageCell (s : State) (c : Channel) (cell : Nat) : List Val :=
  let sp := c.cellSpan cell
  match s.view c.proxy c.stage with
  | none => List.replicate sp.2.2 (.fin false 0 0)
  | some v => (List.range sp.2.2).map fun i => s.stageVal v sp.1 (sp.2.1 + i)

/-- Whether a staged cell holds poisoned data (R217). -/
def State.stagePoison (s : State) (c : Channel) (cell : Nat) : Bool :=
  let sp := c.cellSpan cell
  match s.view c.proxy c.stage with
  | none => false
  | some v => s.poisonedRange (v.man.allocBase + 0x10000 * sp.1 + 4 * sp.2.1) (4 * sp.2.2)

/-- The staged leaf exponent of a cell. -/
def State.stageExp (s : State) (c : Channel) (cell : Nat) : Nat :=
  match s.view c.proxy c.stage with
  | none => 0
  | some v => (s.readByte (v.man.allocBase + 0x10000 * c.tiles + 512 * (cell / 342) + cell % 342)).toNat

/-- narrow: the conversion to F16W_FMT (R72), and whether the value stays finite and unsaturated. -/
def Channel.narrow (c : Channel) (v : Val) : Int × Bool :=
  let f := if c.fp16 then fmtF16 else fmtBf16
  let r := f.convert v
  ((r.1 : Int), r.2 == .none && !v.nonfinite)

/-- widen: the exact conversion to FP32. -/
def Channel.widen (c : Channel) (v : Int) : Val := (if c.fp16 then fmtF16 else fmtBf16).decode v.toNat

/-- A leaf field of IQW, and whether it was clamped (R304). -/
def iqwField (e : Nat) (x : Val) : Int × Bool :=
  if e = 0 ∨ e = 0xFF then (0, false)
  else match x with
    | .fin neg m k =>
      let t := k + 149 - (e : Int)
      let i := if 0 ≤ t then m * 2 ^ t.toNat else rne m (-t).toNat
      let j := min i (2 ^ 23 - 1)
      (if neg then -(j : Int) else j, decide (j ≠ i))
    | _ => (0, false)

/-- A cell as a unit holds it. -/
def redCell (entry input phase cell : Nat) (values : List Int) (residue : Nat) (finite : Bool) (chip : Nat) : RedCell :=
  { entry := entry, input := input, backup := false, phase := phase, cell := cell, values := values, residue := residue, finite := finite,
    srcChip := chip, doneAt := 0 }

/-- The key of an entry's agreed exponent for a cell. -/
def expKey (key cell : Nat) : Nat := 2 ^ 20 * key + cell

/-- A leaf's sum cell. -/
def State.leafSum (s : State) (c : Channel) (run : ChanRun) (key cell : Nat) : RedCell :=
  let xs := s.stageCell c cell
  if c.iqw then
    let e := Tab.get 0 run.exps (expKey key cell)
    let vs := xs.map fun x => (iqwField e x).1
    { redCell key 0 0 cell vs (residueOf vs) (e != 0xFF) s.fab.chip with poison := s.stagePoison c cell }
  else
    let r := xs.map c.narrow
    let vs := r.map fun x => x.1
    { redCell key 0 0 cell vs (residueOf vs) (r.all fun x => x.2) s.fab.chip with poison := s.stagePoison c cell }

/-- The cells of the exponent group that starts at `cell`: up to 256 of the shard. -/
def Node.group (n : Node) (c : Channel) (cell : Nat) : Nat := min 256 (n.first c + n.count c - cell)

/-- A leaf's exponent cell. -/
def State.leafExps (s : State) (c : Channel) (n : Node) (key cell : Nat) : RedCell :=
  let vs := (List.range (n.group c cell)).map fun i => ((s.stageExp c (cell + i) : Nat) : Int)
  { redCell key 0 1 cell vs (residueOf vs) true s.fab.chip with poison := (List.range (n.group c cell)).any fun i => s.stagePoison c (cell + i) }

/-- What a local leaf gives its consumer: its F16W cells and exponents from the arm instant on, its IQW cells once it has started them. -/
def State.leafOutput (s : State) (ch : Nat) (c : Channel) (n : Node) (key phase cell : Nat) : Option RedCell :=
  let run := s.chanRun ch
  if !s.armedNow c ch then none
  else if phase = 1 then some (s.leafExps c n key cell)
  else if c.iqw && !run.started.contains (key, 0, cell) then none
  else some (s.leafSum c run key cell)

/-! ### Completion of a channel (R297) -/

/-- The cells of a phase that an entry has finished, or started. -/
def countOf (l : List (Nat × Nat × Nat)) (key phase : Nat) : Nat := (l.filter fun x => x.1 == key && x.2.1 == phase).length

/-- Whether an entry has finished every cell; an F16W leaf has from the arm instant on. -/
def Node.finished (n : Node) (c : Channel) (run : ChanRun) (key : Nat) : Bool :=
  (n.level == 0 && !c.iqw) || decide (n.count c ≤ countOf run.finished key 0)

/-- Whether the mirror's signal of a channel has been sent: it waits no longer on MIRROR_FLOW (R297, R311). -/
def State.mirrorSent (s : State) (c : Channel) (run : ChanRun) : Bool :=
  run.mirrored && (c.mirrorFlow == 0xFFFF || !(s.flow c.mirrorFlow).queue.any fun q => q.cell.kind == 6 && q.cell.seq == run.mirrorSeq)

/-- An armed channel whose entries have finished every cell and, with the root, whose mirror signal has been sent is complete. What it has started is kept
until it arms again: a copy that comes late is unused (R307). -/
def State.chanComplete (s : State) (ch : Nat) : State :=
  match s.channel ch with
  | none => s
  | some c =>
    let run := s.chanRun ch
    let nodes := s.chanNodes ch
    let ok := nodes.all fun e => e.2.finished c run e.1 && (!e.2.root || s.mirrorSent c run)
    if s.armedNow c ch && ok then
      let s := s.setFld (c.stateReg ch) 2 1 2
      let r := Reg.redStepStatus c.half
      let s := s.setFld r 31 16 (s.fld r 31 16 - 1)
      let s := s.trace 5 2 c.half.index [ch, s.stepNo]
      s.setChanRun ch { run with armAt := none, exps := [], finished := [], settled := [], written := [], mirrored := false }
    else s

/-- Adds finished cells to CELLS_DONE. -/
def State.cellsDone (s : State) (c : Channel) (ch n : Nat) : State :=
  let r := c.stateReg ch
  s.setFld r 63 32 (s.fld r 63 32 + n)

/-! ### Arming (R297) -/

/-- Whether a channel arms at the present boundary: none does after a thermal trip (R421). -/
def State.mayArm (s : State) (ch : Nat) (c : Channel) : Bool :=
  let opened := (s.chanRun ch).lockOpen
  !s.tripped && c.enabled && c.reduces s.stepNo && !s.armedNow c ch && !s.doneNow c ch &&
    (if c.contributes then s.fld (c.stateReg ch) 0 0 == 1 && (c.express || opened) else opened)

/-- The starts of the exponent groups of a shard. -/
def Node.groups (n : Node) (c : Channel) : List Nat := (List.range (ceilDiv (n.count c) 256)).map fun i => n.first c + 256 * i

/-- A leaf of a channel that arms sends its narrowed cells (F16W) or its exponents (IQW) (R302, R303). -/
def State.leafArm (s : State) (ch : Nat) (c : Channel) (key : Nat) (n : Node) : State :=
  if n.level ≠ 0 then s
  else if c.iqw then
    if n.outFlow = 0xFFFF then s
    else (n.groups c).foldl (fun s k =>
      let x := s.leafExps c n key k
      s.sendRed ch c n n.outFlow 1 k x.values x.residue true x.poison) s
  else
    let s := s.cellsDone c ch (n.count c)
    if n.outFlow = 0xFFFF then s
    else (List.range (n.count c)).foldl (fun s i =>
      let x := s.leafSum c (s.chanRun ch) key (n.first c + i)
      s.sendRed ch c n n.outFlow 0 (n.first c + i) x.values x.residue x.finite x.poison) s

/-- What the chip's leaves of a channel read passes its decoders: their STAGE tiles, and the leaf exponents of IQW (R216, R232, R295). -/
def State.senseStage (s : State) (ch : Nat) (c : Channel) : State :=
  match s.view c.proxy c.stage with
  | none => s
  | some v =>
    let tile (s : State) (i : Nat) : State :=
      let base := v.man.allocBase
      let s := (s.sense (base + 0x10000 * i) 0x10000).senseLines (base + 0x10000 * i) 0x10000 0 c.proxy
      let e := base + 0x10000 * c.tiles + 512 * i
      if c.iqw then (s.sense e 512).senseLines e 512 0 c.proxy else s
    let leaf (s : State) (e : Nat × Node) : State :=
      if e.2.level = 0 then (List.range e.2.shardTiles).foldl (fun s i => tile s (e.2.shardFirst + i)) s else s
    (s.chanNodes ch).foldl leaf s

/-- Arms a channel at the present boundary. Agreed exponents that have come before stay (R303). The STAGE tiles of the chip's leaves pass their decoders
(R216, R232). -/
def State.channelArm (s : State) (ch : Nat) : State :=
  match s.channel ch with
  | none => s
  | some c =>
    if s.mayArm ch c then
      let s := s.redBegin c.half
      let run := s.chanRun ch
      let s := s.setChanRun ch { run with armAt := some s.boundary, lockOpen := false, started := [], finished := [],
                                          settled := [], written := [], mirrored := false }
      let s := s.setFld (c.stateReg ch) 1 1 1
      let r := Reg.redStepStatus c.half
      let s := s.setFld r 31 16 (s.fld r 31 16 + 1)
      let s := (s.trace 5 0 c.half.index [ch, s.stepNo]).senseStage ch c
      ((s.chanNodes ch).foldl (fun s e => s.leafArm ch c e.1 e.2) s).chanComplete ch
    else s

/-- CHANNEL_ARM (R297). -/
def execChannelArm (channel : Fin 256) (s : State) : Host.Outcome State Fault Refusal := .next (s.channelArm channel.val)

/-! ### Leaf sums (R303, R304) -/

/-- A leaf that holds a cell's agreed exponent starts the cell's sum phase. -/
def State.leafSumStart (s : State) (key cell : Nat) : State :=
  match s.node key with
  | none => s
  | some n =>
    match s.channel n.channel with
    | none => s
    | some c =>
      let ch := n.channel
      let run := s.chanRun ch
      let known := (Tab.find? run.exps (expKey key cell)).isSome
      if c.iqw ∧ n.level = 0 ∧ s.armedNow c ch ∧ known ∧ !run.started.contains (key, 0, cell) then
        let e := Tab.get 0 run.exps (expKey key cell)
        let clamps := ((s.stageCell c cell).filter fun x => (iqwField e x).2).length
        let x := s.leafSum c run key cell
        let s := s.setChanRun ch { run with started := run.started ++ [(key, 0, cell)], finished := run.finished ++ [(key, 0, cell)] }
        let s := s.count (.redCount c.half) 31 16 clamps
        let s := s.cellsDone c ch 1
        let s := if n.outFlow = 0xFFFF then s else s.sendRed ch c n n.outFlow 0 cell x.values x.residue x.finite x.poison
        s.chanComplete ch
      else s

/-- The key of a node entry of a half. -/
def nodeKey (h : Half) (entry : Fin 4096) : Nat := 4096 * h.index + entry.val

/-- LEAF_SUM_START (R303). -/
def execLeafSumStart (h : Half) (entry : Fin 4096) (cell : Nat) (s : State) : Host.Outcome State Fault Refusal :=
  .next (s.leafSumStart (nodeKey h entry) cell)

/-! ### Inputs of a formed node (R301, R310) -/

/-- The copies of an input cell that the store holds. -/
def State.copies (s : State) (key input phase cell : Nat) : List RedCell :=
  s.red.store.filter fun x => x.entry == key && x.input == input && x.phase == phase && x.cell == cell

/-- How its deadline settled a backed-up input (R310). -/
def ChanRun.settledAs (r : ChanRun) (key input phase cell : Nat) : Option Nat :=
  (r.settled.find? fun x => x.1 == 2 * key + input && x.2.1 == phase && x.2.2.1 == cell).map fun x => x.2.2.2

/-- The cell that an input presents to its node now: what a local entry gives, the copy of an input without backup once it is present, and
the copy that its deadline has settled of an input with one. -/
def State.inputCell (s : State) (ch : Nat) (c : Channel) (key : Nat) (n : Node) (right : Bool) (phase cell : Nat) : Option RedCell :=
  let i := n.input right
  let idx := if right then 1 else 0
  let here := s.copies key idx phase cell
  if !i.remote then
    match s.node (key / 4096 * 4096 + i.src) with
    | none => none
    | some m => if m.level = 0 then s.leafOutput ch c m (key / 4096 * 4096 + i.src) phase cell else here.head?
  else if i.backup = 0xFFFF then here.head?
  else match (s.chanRun ch).settledAs key idx phase cell with
    | some 0 => here.find? fun x => !x.backup
    | some 1 => here.find? fun x => x.backup
    | some _ => here.head?
    | none => none

/-! ### Combining (R301–R304, R308) -/

/-- A residue mismatch (R309). -/
def State.residueBad (s : State) (ch : Nat) (c : Channel) (n : Node) (x : RedCell) : State :=
  let s := s.raise (causeAlarm 10 (.redCause c.half) 2 (srcChannel ch) [ch, x.cell, n.lo, n.level, x.srcChip])
  s.redClear c.half 1

/-- The check that a node makes of an input: of every F16W and exponent cell (R308). -/
def State.residueCheck (s : State) (ch : Nat) (c : Channel) (n : Node) (x : RedCell) : State :=
  if (c.iqw && x.phase == 0) || x.residue == residueOf x.values then s else s.residueBad ch c n x

/-- The output of a formed node from its inputs: values, residue, FINITE. The left input stands first, so a result depends on the contributions, the format
and the group alone, not on the order in which they come (R298, R314). -/
def Channel.combine (c : Channel) (n : Node) (l r : RedCell) : List Int × Nat × Bool :=
  let pairs := l.values.zip r.values
  if l.phase ≠ 0 then
    let vs := pairs.map fun p => max p.1 p.2
    (vs, residueOf vs, true)
  else if c.iqw then
    let vs := pairs.map fun p => p.1 + p.2
    (vs, (l.residue + r.residue) % 65535, l.finite && r.finite)
  else
    let sums := pairs.map fun p => f32 ((c.widen p.1).add (c.widen p.2))
    if n.root then
      let vs := sums.map fun x => ((x.toNat : Nat) : Int)
      (vs, residueOf vs, l.finite && r.finite && sums.all fun x => !(Val.ofF32 x).nonfinite)
    else
      let ns := sums.map fun x => c.narrow (Val.ofF32 x)
      let vs := ns.map fun x => x.1
      (vs, residueOf vs, l.finite && r.finite && ns.all fun x => x.2)

/-- The root's FP32 result of an IQW sum, and whether its magnitude is in range (R304). -/
def iqwResult (e : Nat) (v : Int) : Int × Bool :=
  let r := fmtF32.convert (.fin (decide (v < 0)) v.natAbs ((e : Int) - 149))
  ((r.1 : Int), r.2 == .none)

/-- The phase and inputs with which a node can combine a cell now: it takes its cells in increasing order (R301). -/
def State.ready (s : State) (ch : Nat) (c : Channel) (key : Nat) (n : Node) (cell : Nat) : Option (Nat × RedCell × RedCell) :=
  let run := s.chanRun ch
  let both (phase : Nat) : Option (Nat × RedCell × RedCell) :=
    match s.inputCell ch c key n false phase cell, s.inputCell ch c key n true phase cell with
    | some l, some r => some (phase, l, r)
    | _, _ => none
  let sumNext := n.first c + countOf run.started key 0
  let expNext := n.first c + 256 * countOf run.started key 1
  let agreed := !c.iqw || (Tab.find? run.exps (expKey key cell)).isSome || !n.root
  match (if cell = sumNext ∧ cell < n.first c + n.count c ∧ agreed then both 0 else none) with
  | some x => some x
  | none => if c.iqw ∧ cell = expNext ∧ cell < n.first c + n.count c then both 1 else none

/-- Takes the copies of an input cell out of the store; those beside the one used are discarded and counted (R307). -/
def State.consume (s : State) (c : Channel) (key input phase cell : Nat) : State :=
  let n := (s.copies key input phase cell).length
  let keep (x : RedCell) : Bool := !(x.entry == key && x.input == input && x.phase == phase && x.cell == cell)
  let s := { s with red := { s.red with store := s.red.store.filter keep } }
  s.count (.redCount c.half) 15 0 (n - 1)

/-- A formed node combines a cell; its output is complete 12 ns later (R301). -/
def State.nodeCombine (s : State) (key cell : Nat) : State :=
  match s.node key with
  | none => s
  | some n =>
    match s.channel n.channel with
    | none => s
    | some c =>
      let ch := n.channel
      if n.level = 0 ∨ !s.armedNow c ch then s
      else match s.ready ch c key n cell with
        | none => s
        | some (phase, l, r) =>
          let s := (s.residueCheck ch c n l).residueCheck ch c n r
          let run := s.chanRun ch
          let e := Tab.get 0 run.exps (expKey key cell)
          let o := c.combine n l r
          let s := if n.root && c.iqw && phase == 0 && o.2.1 != residueOf o.1 then s.residueBad ch c n (redCell key 0 0 cell [] 0 true s.fab.chip) else s
          let res := if n.root && c.iqw && phase == 0 then o.1.map (iqwResult e) else o.1.map fun v => (v, true)
          let out := { redCell key 0 phase cell (res.map fun x => x.1) o.2.1 (o.2.2 && res.all fun x => x.2) s.fab.chip with
            doneAt := s.nowPs + 12000, poison := l.poison || r.poison }
          let s := (s.consume c key 0 phase cell).consume c key 1 phase cell
          let s := s.setChanRun ch { s.chanRun ch with started := (s.chanRun ch).started ++ [(key, phase, cell)] }
          { s with red := { s.red with outputs := s.red.outputs ++ [out] } }

/-- NODE_COMBINE (R301). -/
def execNodeCombine (h : Half) (entry : Fin 4096) (cell : Nat) (s : State) : Host.Outcome State Fault Refusal :=
  .next (s.nodeCombine (nodeKey h entry) cell)

/-! ### Agreed exponents (R303) -/

/-- Sends agreed exponents on a SEND context, if there is one. -/
def State.sendDown (s : State) (ch : Nat) (c : Channel) (n : Node) (flow cell : Nat) (es : List Nat) : State :=
  let vs := es.map fun e => ((e : Nat) : Int)
  if flow = 0xFFFF then s else s.sendRed ch c n flow 2 cell vs (residueOf vs) true false

/-- An entry holds agreed exponents from `cell` on, and passes them to its inputs: local entries take them at once (at most `fuel` levels). -/
def State.agree : Nat → State → Nat → Nat → List Nat → State
  | 0, s, _, _, _ => s
  | fuel + 1, s, key, cell, es =>
    match s.node key with
    | none => s
    | some n =>
      match s.channel n.channel with
      | none => s
      | some c =>
        let ch := n.channel
        let run := s.chanRun ch
        let put (t : Tab Nat) (i : Nat) : Tab Nat := Tab.put t (expKey key (cell + i)) (es.getD i 0)
        let s := s.setChanRun ch { run with exps := (List.range es.length).foldl put run.exps }
        if n.level = 0 then s
        else
          let pass (s : State) (i : NodeIn) : State :=
            if i.remote then (s.sendDown ch c n i.down cell es).sendDown ch c n i.downB cell es
            else State.agree fuel s (key / 4096 * 4096 + i.src) cell es
          pass (pass s n.in0) n.in1

/-! ### Outputs (R301, R311, R313) -/

/-- The owner of an operation that no strand issued, on the paths of a core: a number beyond every strand key. -/
def rootOwner (core : Nat) : Nat := 2048 * 128 + core

/-- Whether an effect is a fault of a strand. -/
def Effect.faults : Effect → Bool
  | .fault _ _ _ => true
  | _ => false

/-- The root writes a result cell through the paths of PROXY_CORE at their ratings; positions beyond RESULT's edges are not written. -/
def State.rootWrite (s : State) (ch : Nat) (c : Channel) (n : Node) (x : RedCell) : State :=
  let sp := c.cellSpan x.cell
  let core := c.proxy
  let launch (s : State) (vis ps : Nat) (effects : List Effect) : State :=
    let s := s.book s.nextOp core 0 .fabric s.boundary ps [] [] effects
    let o : InFlight :=
      { id := s.nextOp, strand := rootOwner core, core := core, pc := 0, engine := .lock, kind := .plain, tag := none, regs := [],
        issue := s.boundary, start := s.boundary, vis := vis, late := false, later := none, effects := (effects.filter fun e => !e.faults) ++ [.rootCell ch x.cell],
        remote := .none }
    { s with ops := s.ops ++ [o], nextOp := s.nextOp + 1 }
  match s.view core c.result with
  | none => launch s (s.visibleAt s.boundary 1) 0 []
  | some v =>
    let tile := sp.1 - n.shardFirst
    let o := tileOrigin v.ext tile
    let elem (i : Nat) : WElem :=
      { r := (sp.2.1 + i) / 128, q := (sp.2.1 + i) % 128, val := Val.ofF32 (BitVec.ofNat 32 (x.values.getD i 0).toNat), nz := true, pois := x.poison,
        raw := some ((x.values.getD i 0).toNat, 0) }
    let es := ((List.range x.values.length).map elem).filter fun e => v.inside (posAt o e.r e.q)
    let w := (Work.start s core).writeTile v tile es
    let steps := s.writeSide core v.man.allocBase w
    match s.rate s.nextOp core s.boundary steps 0 [] w.writeUses with
    | none => launch s (s.visibleAt s.boundary (s.stepsPs steps)) (s.stepsPs steps) (w.effects (rootOwner core) 0 false)
    | some r => launch r.2 (r.2.visibleAt r.2.boundary r.1) r.1 (w.effects (rootOwner core) 0 false)

/-- A completed output leaves on OUT_FLOW, is consumed by a local entry, agrees exponents, or is a result. -/
def State.deliver (s : State) (key : Nat) (n : Node) (c : Channel) (x : RedCell) : State :=
  let ch := n.channel
  if n.root then
    if x.phase = 1 then State.agree 18 s key x.cell (x.values.map Int.toNat)
    else
      let s := s.redBegin c.half
      let s := if x.finite then s else (s.redClear c.half 0).raise (causeEvent 10 (.redCause c.half) 1 (srcChannel ch) [ch, x.cell])
      s.rootWrite ch c n x
  else if n.outFlow = 0xFFFF then
    match s.consumer key ch with
    | none => s
    | some (k, right) => { s with red := { s.red with store := s.red.store ++ [{ x with entry := k, input := if right then 1 else 0 }] } }
  else s.sendRed ch c n n.outFlow x.phase x.cell x.values x.residue x.finite x.poison

/-- An output cell whose 12 ns have passed is complete (R301). -/
def State.nodeOutput (s : State) (key cell : Nat) : State :=
  let mine (x : RedCell) : Bool := x.entry == key && x.cell == cell && decide (x.doneAt ≤ s.nowPs)
  match s.node key, s.red.outputs.find? mine with
  | some n, some x =>
    match s.channel n.channel with
    | none => s
    | some c =>
      let ch := n.channel
      let s := { s with red := { s.red with outputs := s.red.outputs.erase x } }
      let run := s.chanRun ch
      let s := s.setChanRun ch { run with finished := run.finished ++ [(key, x.phase, cell)] }
      let s := if x.phase = 0 then s.cellsDone c ch 1 else s
      (s.deliver key n c x).chanComplete ch
  | _, _ => s

/-- NODE_OUTPUT_COMPLETE (R301); a thermal trip has stopped the node (R421). -/
def execNodeOutputComplete (h : Half) (entry : Fin 4096) (cell : Nat) (s : State) : Host.Outcome State Fault Refusal :=
  .next (if s.tripped then s else s.nodeOutput (nodeKey h entry) cell)

/-! ### The root's shard (R311) -/

/-- A result cell is visible. -/
def State.rootCell (s : State) (ch cell : Nat) : State :=
  let run := s.chanRun ch
  s.setChanRun ch { run with written := Marks.insert run.written cell }

/-- The image of a tile of RESULT: FP32 elements in the order of R95; positions beyond the edges are zero. -/
def State.resultImage (s : State) (v : View) (tile : Nat) : List Byte :=
  (List.range 16384).flatMap fun e =>
    let p := posAt (tileOrigin v.ext tile) (e / 128) (e % 128)
    if v.inside p then s.readBytes ((v.bitAt (v.loc p)).toNat / 8) 4 else [0, 0, 0, 0]

/-- Sends the shard's tiles and the signal that covers them to the mirror (R311). -/
def State.mirror (s : State) (c : Channel) (n : Node) : State :=
  let from_ := (s.chanRun n.channel).armAt.getD s.now
  if c.mirrorFlow = 0xFFFF then s
  else match s.view c.proxy c.result with
    | none => s
    | some v =>
      let tile (s : State) (i : Nat) : State :=
        let a := v.man.allocBase + 0x10000 * i
        let s := (s.sense a 0x10000).senseLines a 0x10000 0 c.proxy
        let img := s.resultImage v i
        (List.range 256).foldl (fun s k => s.sendCellOf from_ c.mirrorFlow 0x01 (if s.poisonedRange (a + 256 * k) 256 then 1 else 0) (c.mirrorBase + 0x10000 * i + 256 * k) 0 (sliceBytes img (256 * k) 256) s.nowPs) s
      let s := (List.range n.shardTiles).foldl tile s
      s.sendCellOf from_ c.mirrorFlow 0x06 0 (c.mirrorCore * 2 ^ 42) (signalArg c.mirrorSignal (s.lastSeq c.mirrorFlow) (s.flow c.mirrorFlow).peerFlow)
        (leBytes 8 1) s.nowPs

/-- Adds to a signal counter (R162). -/
def State.addSignal (s : State) (key : Nat) (v : W64) : State := { s with signals := Tab.set 0 s.signals key (Tab.get 0 s.signals key + v) }

/-- Every cell of the root's shard is visible: the mirror copy, its signal, and DONE_COUNTER. -/
def State.rootShardDone (s : State) (key : Nat) : State :=
  match s.node key with
  | none => s
  | some n =>
    match s.channel n.channel with
    | none => s
    | some c =>
      let ch := n.channel
      let run := s.chanRun ch
      let all := (List.range (n.count c)).all fun i => run.written.contains (n.first c + i)
      if n.root ∧ s.armedNow c ch ∧ all ∧ !run.mirrored then
        let s := s.mirror c n
        let s := s.addSignal (1024 * c.proxy + c.doneCounter) 1
        let s := s.setChanRun ch { s.chanRun ch with mirrored := true, mirrorSeq := s.lastSeq c.mirrorFlow }
        s.chanComplete ch
      else s

/-- ROOT_SHARD_DONE (R311). -/
def execRootShardDone (h : Half) (entry : Fin 4096) (s : State) : Host.Outcome State Fault Refusal := .next (s.rootShardDone (nodeKey h entry))

/-! ### Backups (R310) -/

/-- Settles one backed-up input cell at its deadline. -/
def State.settleInput (s : State) (ch : Nat) (c : Channel) (key : Nat) (n : Node) (right : Bool) (phase cell : Nat) : State :=
  let idx := if right then 1 else 0
  let run := s.chanRun ch
  if (run.settledAs key idx phase cell).isSome || run.started.contains (key, phase, cell) then s
  else
    let here := s.copies key idx phase cell
    let note (s : State) (how : Nat) : State :=
      s.setChanRun ch { s.chanRun ch with settled := (s.chanRun ch).settled ++ [(2 * key + idx, phase, cell, how)] }
    match here.find? (fun x => !x.backup), here.find? (fun x => x.backup) with
    | some p, some b =>
      let inj := s.armed 0x11 c.half.index
      let s := if inj then s.disarm 0x11 c.half.index else s
      let s := if inj || p.values != b.values then
          (s.raise { causeAlarm 10 (.redCause c.half) 5 (srcChannel ch) [ch, cell, n.lo, n.level] with injected := inj }).det 9
        else s
      note s 0
    | some _, none => note s 0
    | none, some _ =>
      let s := ((s.count (.redCount c.half) 63 48 1).det 6).trace 5 1 c.half.index [ch, cell]
      let s := if run.takenStep = some s.stepNo then s.setBitAt (Reg.redCause c.half).offset 4
        else s.raise (causeEvent 10 (.redCause c.half) 4 (srcChannel ch) [ch, cell])
      let s := s.setChanRun ch { s.chanRun ch with takenStep := some s.stepNo }
      note s 1
    | none, none =>
      let s := s.count (.redCount c.half) 47 32 1
      let s := s.raise (causeEvent 10 (.redCause c.half) 3 (srcChannel ch) [ch, cell, n.lo, n.level])
      note s 2

/-- The deadline of shard cell `cell` of an input that has a backup. -/
def State.backupDeadline (s : State) (key : Nat) (right : Bool) (cell : Nat) : State :=
  match s.node key with
  | none => s
  | some n =>
    match s.channel n.channel with
    | none => s
    | some c =>
      let ch := n.channel
      let i := n.input right
      let k := cell - n.first c
      match (s.chanRun ch).armAt with
      | none => s
      | some t =>
        let due := decide (t * 1000 + n.deadline * 1000 + k * c.cellPitch * 100 ≤ s.nowPs)
        let mine := n.level ≠ 0 ∧ i.remote ∧ i.backup ≠ 0xFFFF ∧ n.first c ≤ cell ∧ cell < n.first c + n.count c
        if due ∧ mine then
          let s := if c.iqw ∧ k % 256 = 0 then s.settleInput ch c key n right 1 cell else s
          s.settleInput ch c key n right 0 cell
        else s

/-- BACKUP_DEADLINE (R310). -/
def execBackupDeadline (h : Half) (entry : Fin 4096) (right : Bool) (cell : Nat) (s : State) : Host.Outcome State Fault Refusal :=
  .next (if s.tripped then s else s.backupDeadline (nodeKey h entry) right cell)

/-! ### Received cells (R306, R307) -/

/-- Where a receive context leads: an entry, its input (0, 1, or 2 for agreed exponents from the parent), and whether it is the backup's. -/
structure RedPort where
  key    : Nat
  input  : Nat
  backup : Bool
  deriving DecidableEq, Repr

/-- The ports that a receive context of a half feeds. -/
def State.redPorts (s : State) (h : Half) (flow : Nat) : List RedPort :=
  s.red.nodes.flatMap fun e =>
    let n := e.2
    let port (i : NodeIn) (idx : Nat) : List RedPort :=
      if !i.remote then []
      else if i.src = flow then [{ key := e.1, input := idx, backup := false }]
      else if i.backup = flow ∧ flow ≠ 0xFFFF then [{ key := e.1, input := idx, backup := true }]
      else []
    if nodeHalf e.1 ≠ h then []
    else (if n.level = 0 then [] else port n.in0 0 ++ port n.in1 1) ++ (if n.upDown = flow ∧ flow ≠ 0xFFFF then [{ key := e.1, input := 2, backup := false }] else [])

/-- Whether a REDUCE cell is what a port expects (R307): channel, phase, step, NODE_LO and shard. -/
def State.redFits (s : State) (h : Half) (x : Cell) (p : RedPort) : Bool :=
  match s.node p.key with
  | none => false
  | some n =>
    match s.channel n.channel with
    | none => false
    | some c =>
      let cell := bitsOf x.addr 31 0
      let phase := fieldOf x.arg 40 39
      let lo := fieldOf x.arg 31 16
      let span := if phase = 0 then 1 else x.len
      bitsOf x.addr 39 32 == n.channel && c.enabled && c.half == h && fieldOf x.arg 63 48 == s.stepNo % 65536 &&
        decide (n.first c ≤ cell) && decide (cell + span ≤ n.first c + n.count c) &&
        (if p.input = 2 then phase == 2 && c.iqw && lo == parentLo c.groupSize 17 n.level n.lo % 65536
         else (phase == 0 || (phase == 1 && c.iqw)) && lo == n.inputLo (p.input == 1) % 65536)

/-- The values of a payload of `w`-byte fields. -/
def redValues (w : Nat) (signed : Bool) : Nat → List Byte → List Int
  | 0, _ => []
  | fuel + 1, bs =>
    match bs with
    | [] => []
    | bs =>
      let v := leNat (bs.take w)
      (if signed then signedOf (8 * w) v else (v : Int)) :: redValues w signed fuel (bs.drop w)

/-- A REDUCE cell commits into the input store of a half's unit, and is matched to its input (R306, R307). -/
def State.redCommit (s : State) (h : Half) (flow : Nat) (x : Cell) : State :=
  let ch := bitsOf x.addr 39 32
  let discard (s : State) : State := s.count (.redCount h) 15 0 1
  match (s.redPorts h flow).find? (fun p => s.redFits h x p) with
  | none => (discard s).raise (causeEvent 10 (.redCause h) 6 (srcChannel ch) [ch, bitsOf x.addr 31 0, x.srcChip])
  | some p =>
    match s.node p.key, s.channel ch with
    | some n, some c =>
      let phase := fieldOf x.arg 40 39
      let cell := bitsOf x.addr 31 0
      let level := fieldOf x.arg 36 32
      let w := c.valueBytes phase level
      let vs := redValues w (c.iqw && phase == 0) x.payload.length x.payload
      let y : RedCell :=
        { entry := p.key, input := p.input, backup := p.backup, phase := phase, cell := cell, values := vs, residue := fieldOf x.arg 15 0,
          finite := fieldOf x.arg 37 37 == 1, srcChip := x.srcChip, doneAt := 0, poison := x.flags % 2 == 1 }
      if p.input = 2 then
        let s := s.residueCheck ch c n y
        State.agree 18 s p.key cell (vs.map Int.toNat)
      else if (s.armedNow c ch || s.doneNow c ch) && (s.chanRun ch).started.contains (p.key, phase, cell) then discard s
      else if 8192 ≤ (s.red.store.filter fun z => nodeHalf z.entry == h && z.srcChip != s.fab.chip).length then
        (discard s).raise (causeAlarm 10 (.redCause h) 7 (srcChannel ch) [ch, cell])
      else { s with red := { s.red with store := s.red.store ++ [y] } }
    | _, _ => discard s

end Sys2Proof.Machine
end

