-- ==== Sys2Proof/Machine/Cells.lean ====
section
/-! DEFINITION. Cells as bytes (R258), slots and plan cycles (R253, R287), and the parts of a quay. -/

namespace Sys2Proof.Machine

/-! ### Cells as bytes (R258) -/

/-- The link part of a cell. -/
structure LinkPart where
  seq     : Nat
  nakSeq  : Nat
  flags   : Nat
  txStamp : Nat
  echoTx  : Nat
  echoRx  : Nat
  deriving DecidableEq, Repr

/-- Bytes 0x00–0x1F of a cell. -/
def Cell.head (c : Cell) : List Byte :=
  leBytes 1 c.kind ++ leBytes 1 c.flags ++ leBytes 2 c.len ++ leBytes 2 c.srcChip ++ leBytes 2 c.dstChip ++ leBytes 2 c.rxFlow ++
    leBytes 2 c.planCycle ++ leBytes 4 c.seq ++ leBytes 8 c.addr ++ leBytes 8 c.arg.toNat

/-- The 256 bytes of a cell's payload field; bytes at LEN and beyond are zero. -/
def Cell.body (c : Cell) : List Byte := sliceBytes c.payload 0 256

/-- The end-to-end part of a cell, with E2E_CHECK; `bad` inverts it. -/
def Cell.endToEnd (c : Cell) (bad : Bool) : List Byte :=
  let check := crc32c (c.head ++ c.body)
  c.head ++ leBytes 4 (if bad then 0xFFFFFFFF - check else check)

/-- Bytes 0x24–0x3B of a cell. -/
def LinkPart.bytes (l : LinkPart) : List Byte :=
  leBytes 2 l.seq ++ leBytes 2 l.nakSeq ++ leBytes 1 l.flags ++ [0] ++ leBytes 6 l.txStamp ++ leBytes 6 l.echoTx ++ leBytes 6 l.echoRx

/-- A cell on the fibre: an end-to-end part and a payload under a new link part (R258, R260). -/
def linkCell (endToEnd payload : List Byte) (l : LinkPart) (bad : Bool) : List Byte :=
  let front := endToEnd ++ l.bytes
  let check := crc32c (front ++ payload)
  front ++ leBytes 4 (if bad then 0xFFFFFFFF - check else check) ++ payload

/-- The end-to-end part and the payload of a cell on the fibre. -/
def e2ePart (bs : List Byte) : List Byte := bs.take 36
def payloadPart (bs : List Byte) : List Byte := sliceBytes bs 64 256

/-- A cell on the fibre with a new link part. -/
def relink (bs : List Byte) (l : LinkPart) (bad : Bool) : List Byte := linkCell (e2ePart bs) (payloadPart bs) l bad

/-- Whether E2E_CHECK holds. -/
def e2eOk (bs : List Byte) : Bool := fieldAt bs 0x20 4 == crc32c (bs.take 32 ++ payloadPart bs)

/-- Whether LINK_CHECK holds. -/
def linkOk (bs : List Byte) : Bool := fieldAt bs 0x3C 4 == crc32c (bs.take 0x3C ++ payloadPart bs)

/-- The link part of received bytes. -/
def linkOf (bs : List Byte) : LinkPart :=
  { seq := fieldAt bs 0x24 2, nakSeq := fieldAt bs 0x26 2, flags := fieldAt bs 0x28 1, txStamp := fieldAt bs 0x2A 6,
    echoTx := fieldAt bs 0x30 6, echoRx := fieldAt bs 0x36 6 }

/-- The cell of received bytes. -/
def cellOfBytes (bs : List Byte) : Cell :=
  let len := fieldAt bs 2 2
  { kind := fieldAt bs 0 1, flags := fieldAt bs 1 1, len := len, srcChip := fieldAt bs 4 2, dstChip := fieldAt bs 6 2, rxFlow := fieldAt bs 8 2,
    planCycle := fieldAt bs 0x0A 2, seq := fieldAt bs 0x0C 4, addr := fieldAt bs 0x10 8, arg := BitVec.ofNat 64 (fieldAt bs 0x18 8),
    payload := (payloadPart bs).take (min len 256) }

/-- An IDLE cell from this chip to a peer in a plan cycle (R259). -/
def idleCell (src dst cycle : Nat) : Cell :=
  { kind := 0, flags := 0, len := 0, srcChip := src, dstChip := dst, rxFlow := 0, planCycle := cycle, seq := 0, addr := 0, arg := 0, payload := [] }

/-! ### Stamps and slots -/

/-- A stamp of R258: the low 32 bits of the count and 16 bits of fraction. A departure is rounded up to the stamp's unit, so that rounding down
to the slot grid gives its slot back (R257). -/
def stampOf (ps : Nat) : Nat := ps / 1000 % 2 ^ 32 * 65536 + ceilDiv (ps % 1000 * 65536) 1000

/-- The time from one stamp to a later one, signed, in picoseconds. -/
def stampDiff (later earlier : Nat) : Int :=
  let d := signedOf 48 ((later + 2 ^ 48 - earlier % 2 ^ 48) % 2 ^ 48)
  d * 1000 / 65536

/-- The tide-table cycle C (R253). -/
def State.cycleNs (s : State) : Nat := s.dev.chart.fabricCycle

/-- The slots of a cycle: 5C/16. -/
def State.slotCount (s : State) : Nat := 5 * s.cycleNs / 16

/-- The start of slot `n` of the present cycle, in picoseconds. -/
def State.slotPs (s : State) (n : Nat) : Nat := s.now / max 1 s.cycleNs * s.cycleNs * 1000 + 3200 * n

/-- The plan cycle of cycle number `k` (R287). -/
def State.planCycle (s : State) (k : Nat) : Nat := (((k : Int) - s.fab.origin - s.fab.shiftSum) % 65536).toNat

/-! ### Quays -/

/-- The parts of a quay that its registers do not show. -/
def State.quay (s : State) (q : Nat) : Quay := Tab.get Quay.reset s.fab.quays q

/-- Stores those parts. -/
def State.setQuay (s : State) (q : Nat) (x : Quay) : State := { s with fab := { s.fab with quays := Tab.set Quay.reset s.fab.quays q x } }

/-- A quay number as a register index. -/
def quayFin (q : Nat) : Fin 48 := Fin.ofNat 48 q

/-- STATE of QUAY_STATUS (R288). -/
def State.quayState (s : State) (q : Nat) : Nat := s.fld (.quayStatus (quayFin q)) 2 0

/-- Whether a quay is IN_SERVICE. -/
def State.inService (s : State) (q : Nat) : Bool := s.quayState q == 5

/-- F: QUAY_DELAY rounded up to a whole 100 ps (R279). -/
def State.fibrePs (s : State) (q : Nat) : Nat := ceilDiv (s.fld (.quayDelay (quayFin q)) 19 0) 100 * 100

/-- An occurrence of a bit of QUAY_CAUSE. -/
def quayEvent (q bit : Nat) (items : List Nat) : Event := causeEvent 8 (.quayCause (quayFin q)) bit (srcQuay q) items

/-- An occurrence of a bit of FABRIC_CAUSE. -/
def fabricEvent (q bit : Nat) (items : List Nat) : Event := causeEvent 9 .fabricCause bit (srcQuay q) items

/-- The kind of a tide-table entry: 0 EMPTY, 1 FLOW, 2 REPAIR, 3 RELAY (R254). -/
def entryKind (e : W32) : Nat := bitsOf e.toNat 31 29

/-- The quay, and the flow or slot, of a tide-table entry. -/
def entryQuay (e : W32) : Nat := bitsOf e.toNat 21 16
def entryFlow (e : W32) : Nat := bitsOf e.toNat 15 0

/-- The transmit and the receive entry of a slot; while no plan is loaded every entry is EMPTY (R254). -/
def State.txEntry (s : State) (q n : Nat) : W32 := if s.plan.isSome then Tab.get 0 (s.quay q).txTable n else 0
def State.rxEntry (s : State) (q n : Nat) : W32 := if s.plan.isSome then Tab.get 0 (s.quay q).rxTable n else 0

/-- LINK_FLAGS: the stratum and state of the tide, and NAK_VALID (R258). -/
def State.linkFlags (s : State) (nak : Bool) : Nat :=
  let st := match s.tide.state with
    | .acquiring => 0
    | .locked => 1
    | .holdover => 2
    | .freeRun => 3
  s.tide.stratum % 16 + 16 * st + if nak then 64 else 0

/-! ### TRAIN cells (R249) -/

/-- The first 32 payload bytes of the TRAIN cells that a quay sends in EXCHANGE. The lowest protocol offered is 1 (R250). -/
def State.trainPayload (s : State) (q : Nat) : List Byte :=
  let x := s.quay q
  [1, BitVec.ofNat 8 s.dev.chart.fabricProtoMax] ++ leBytes 2 x.ownChip ++ [BitVec.ofNat 8 q, 0] ++ leBytes 2 x.trainChip ++
    [BitVec.ofNat 8 x.trainQuay, BitVec.ofNat 8 s.period] ++ leBytes 4 s.cycleNs ++ [BitVec.ofNat 8 (s.linkFlags false)] ++ List.replicate 17 0

/-- The TRAIN cell of a quay. -/
def State.trainCell (s : State) (q cycle : Nat) : Cell :=
  { kind := 0x0C, flags := 0, len := 32, srcChip := (s.quay q).ownChip, dstChip := (s.quay q).trainChip, rxFlow := 0, planCycle := cycle, seq := 0, addr := 0,
    arg := 0, payload := s.trainPayload q }

/-! ### Leaving service (R284) -/

/-- A quay leaves service with a cause of QUAY_STATUS; the cells that it held are lost (R284). -/
def State.quayFail (s : State) (q cause : Nat) : State :=
  let r := Reg.quayStatus (quayFin q)
  let s := s.setReg r (withField (withField (s.reg r) 7 4 cause) 2 0 6)
  let x := s.quay q
  s.setQuay q { x with history := [], resend := [], naks := [], requests := [], checkFails := [], relayed := [], awaiting := [],
                       arrived := [], heldCells := [] }

/-- LINK_DOWN (R284): an alarm. -/
def State.linkDown (s : State) (q : Nat) (items : List Nat) : State :=
  ((s.quayFail q 9).raise { quayEvent q 5 items with alarm := true }).det 4

end Sys2Proof.Machine
end

