-- ==== Sys2Proof/Machine/Quay.lean ====
section
/-! DEFINITION. The quays' slots: what a transmitter sends, what a receiver does with an arriving cell, resends, relays (R255–R260, R264, R279,
R280, R283–R285), and the loss of a link or a laser input. -/

namespace Sys2Proof.Machine

/-! ### The transmitter (R255, R264, R277) -/

/-- Whether the present stop lets a cell leave that belongs to something that happened at tide `t`: only from before the stop boundary (step 5 of R56). -/
def State.beforeStop (s : State) (t : Nat) : Bool :=
  match s.run.stopFrom with
  | some b => decide (t < b)
  | none => true

/-- Whether the present stop lets a queued cell leave: a REDUCE cell's operation is the arming of its channel (R310). -/
def State.maySend (s : State) (q : Queued) : Bool := s.beforeStop q.issued

/-- The RECV contexts whose ack is due and travels on a flow. An ack that fell due from the stop boundary on is of no operation issued before it (log entry
76). -/
def State.acksDue (s : State) (flow : Nat) : List (Nat × Flow) :=
  s.fab.flows.filter fun e => e.2.role == 2 && e.2.returnFlow == flow && e.2.ackDue.any fun t => s.beforeStop (t / 1000)

/-- An ACK entry (R277). -/
def ackEntry (f : Flow) : List Byte := leBytes 2 f.peerFlow ++ leBytes 2 (min f.acked 65535) ++ leBytes 4 f.seq

/-- Forms the ACK cell of a flow: up to 32 entries that are due; POPS is zeroed. -/
def State.takeAcks (s : State) (flow : Nat) : Cell × State :=
  let due := (s.acksDue flow).take 32
  let c := s.cellOf (s.flow flow) 8 0 0 0 (due.flatMap fun e => ackEntry e.2)
  let clear (s : State) (e : Nat × Flow) : State := s.setFlow e.1 { e.2 with ackDue := none, acked := e.2.acked - min e.2.acked 65535 }
  (c, due.foldl clear s)

/-- The queued cell that is ready first; an earlier place wins a tie. -/
def firstReady : List Queued → Option Queued
  | [] => none
  | q :: rest => match firstReady rest with
    | some r => if r.ready < q.ready then some r else some q
    | none => some q


/-- The next cell of a flow for a slot that begins at `at_` picoseconds, and the state without it (R264). -/
def State.takeFlow (s : State) (flow at_ : Nat) : Option (Cell × State) :=
  let f := s.flow flow
  let ready (t : Nat) : Bool := decide (t + 2000 ≤ at_)
  let take (x : Queued) : Option (Cell × State) :=
    if ready x.ready && s.maySend x then some (x.cell, s.setFlow flow { f with queue := f.queue.erase x }) else none
  if f.ackCarrier then
    let due := (s.acksDue flow).filterMap fun e => e.2.ackDue
    let ack : Option Nat := match due with
      | [] => none
      | t :: ts => some (ts.foldl min t)
    match firstReady f.queue, ack with
    | some x, some t => if t < x.ready then (if ready t then some (s.takeAcks flow) else none) else take x
    | some x, none => take x
    | none, some t => if ready t then some (s.takeAcks flow) else none
    | none, none => none
  else match f.queue with
    | x :: _ => take x
    | [] => none

/-- The home chip opens its round from the slot in which the first RELEASE of the round leaves (R282). -/
def State.releaseLeft (s : State) (c : Cell) (at_ : Nat) : State :=
  if c.kind = 0x0A then
    let key := 64 * fieldOf c.arg 22 16 + fieldOf c.arg 5 0
    let x := s.lockx_ key
    if x.due.isNone ∧ s.lockRound key = fieldOf c.arg 63 32 then
      s.setLockx key { x with due := some (s.boundaryAt (ceilDiv at_ 1000), BitVec.ofNat 64 (leNat c.payload)) }
    else s
  else s

/-- The signal of a mirror copy has left: its channel may be complete (R297). -/
def State.mirrorLeft (s : State) (flow : Nat) (c : Cell) : State :=
  if c.kind = 6 then (s.red.channels.filter fun e => e.2.mirrorFlow == flow).foldl (fun s e => s.chanComplete e.1) s else s

/-- What a slot carries: bytes and payload of its end-to-end part, whether it is IDLE, and how often the cell was requested. -/
structure Outgoing where
  e2e   : List Byte
  body  : List Byte
  idle  : Bool
  asked : Nat
  deriving DecidableEq, Repr

/-- A cell of this chip for the slot. -/
def State.outgoing (s : State) (q : Nat) (c : Cell) : Outgoing × State :=
  let idle := c.kind == 0
  let bad := !idle && s.armed 0x0E q
  let s := if bad then s.disarm 0x0E q else s
  ({ e2e := c.endToEnd bad, body := c.body, idle := idle, asked := 0 }, s)

/-- An IDLE slot. -/
def State.sendIdle (s : State) (q cycle : Nat) : Outgoing × State := s.outgoing q (idleCell s.fab.chip (s.fld (.quayStatus (quayFin q)) 31 16) cycle)

/-- A relay slot goes empty (R280). -/
def State.relayMissed (s : State) (q n : Nat) (injected : Bool) : State :=
  (((s.count (.quayCount (quayFin q)) 15 0 1).raise { quayEvent q 2 [n] with injected := injected }).det 5).traceQuay 2 q [n]

/-- A cell already on its way, from its bytes. -/
def passOn (bs : List Byte) (asked : Nat) : Outgoing := { e2e := e2ePart bs, body := payloadPart bs, idle := fieldAt bs 0 1 == 0, asked := asked }

/-- The key under which a RECOVER_COPY waits for its responses: no strand's. -/
def copyKey : Nat := 262144

/-- A LOAD_REQ has left: a running RECOVER_COPY counts its 10 ms from the last of its requests (R381). -/
def State.requestLeft (s : State) (c : Cell) (at_ : Nat) : State :=
  if c.kind = 2 then { s with ops := s.ops.map fun o => if o.strand == copyKey then { o with issue := ceilDiv at_ 1000 } else o } else s

/-- What the entry of slot `n` of quay `q` sends (R255). -/
def State.slotCell (s : State) (q n at_ : Nat) : Outgoing × State :=
  let e := s.txEntry q n
  let cycle := s.planCycle (at_ / 1000 / max 1 s.cycleNs)
  match entryKind e with
  | 1 =>
    match s.takeFlow (entryFlow e) at_ with
    | some (c, s) =>
      let c := { c with planCycle := cycle }
      (((s.releaseLeft c at_).mirrorLeft (entryFlow e) c).requestLeft c at_).outgoing q c
    | none => s.sendIdle q cycle
  | 2 =>
    let x := s.quay q
    match x.resend with
    | (k, bs) :: rest =>
      let s := (s.setQuay q { x with resend := rest }).count (.quayCount (quayFin q)) 47 32 1
      let s : State := { s with totals := { s.totals with resent := s.totals.resent + 1 } }
      (passOn bs k, (s.det 5).traceQuay 1 q [n])
    | [] => s.sendIdle q cycle
  | 3 =>
    let from_ := entryQuay e
    let x := s.quay from_
    let inj := s.armed 0x0F q
    match (if inj then none else Tab.find? x.relayed (entryFlow e)) with
    | some bs => (passOn bs 0, s.setQuay from_ { x with relayed := Tab.erase x.relayed (entryFlow e) })
    | none =>
      let s := if inj then s.disarm 0x0F q else s
      (s.relayMissed q n inj).sendIdle q cycle
  | _ => s.sendIdle q cycle

/-- A slot of a quay in EXCHANGE carries a TRAIN cell (R248, R249); training counts no slots of the link. -/
def State.transmitTrain (s : State) (q n : Nat) : State :=
  let at_ := s.slotPs n
  let x := s.quay q
  let c := s.trainCell q (s.planCycle (at_ / 1000 / max 1 s.cycleNs))
  let l : LinkPart := { seq := x.txSeq, nakSeq := 0, flags := s.linkFlags false, txStamp := stampOf at_, echoTx := x.echoTx, echoRx := x.echoRx }
  s.setQuay q { x with trainTx := linkCell (c.endToEnd false) c.body l false }

/-- Slot `n` of the present cycle leaves a quay in service: the cell goes on the fibre under a new link part, and is kept (R258, R283). -/
def State.transmit (s : State) (q n : Nat) : State :=
  if s.inService q ∧ n < s.slotCount then
    let at_ := s.slotPs n
    let o := s.slotCell q n at_
    let s := o.2
    let x := s.quay q
    let bad := s.armed 0x0D q
    let s := if bad then s.disarm 0x0D q else s
    let l : LinkPart :=
      { seq := x.txSeq, nakSeq := x.naks.headD 0, flags := s.linkFlags (!x.naks.isEmpty), txStamp := stampOf at_, echoTx := x.echoTx, echoRx := x.echoRx }
    let bs := linkCell o.1.e2e o.1.body l bad
    let s := if x.naks.isEmpty then s else s.count (.quayCount (quayFin q)) 63 48 1
    let hist := x.history ++ [(x.txSeq, bs)]
    let kept := hist.drop (hist.length - 512)
    let req := (if o.1.asked = 0 then x.requests else Tab.put x.requests x.txSeq o.1.asked).filter fun e => kept.any fun h => h.1 == e.1
    let s := s.setQuay q { x with txSeq := (x.txSeq + 1) % 65536, naks := x.naks.drop 1, history := kept, requests := req }
    if o.1.idle then s else { s with totals := { s.totals with cellsSent := s.totals.cellsSent + 1 } }
  else if s.quayState q = 3 ∧ n < s.slotCount then s.transmitTrain q n
  else s

/-- CELL_TRANSMIT (R255). -/
def execCellTransmit (quay : Fin 48) (slot : Nat) (s : State) : Host.Outcome State Fault Refusal := .next (s.transmit quay.val slot)

/-! ### The receiver: link checks (R257, R260, R283) -/

/-- Asks for a cell to be resent that left in a cycle; the cycles of the last 512 are kept (R283, R287). -/
def State.nak (s : State) (q seq cycle : Nat) : State :=
  let x := s.quay q
  ((s.setQuay q { x with naks := x.naks ++ [seq % 65536], nakCycles := (cycle :: x.nakCycles).take 512 }).raise (quayEvent q 1 [seq % 65536])).traceQuay 0 q [seq % 65536]

/-- The cell of a receive slot is lost; that of a relay slot, once resent, goes to its outgoing quay (R280). -/
def State.relayLost (s : State) (q slot : Nat) : State :=
  let e := s.rxEntry q slot
  let x := s.quay q
  if entryKind e = 3 then s.setQuay q { x with awaiting := x.awaiting ++ [entryQuay e] } else s

/-- A cell failed LINK_CHECK: it is asked for again; a relay slot's outgoing quay is noted; too many failures within 1 ms end the link. -/
def State.checkFail (s : State) (q at_ : Nat) : State :=
  let x := s.quay q
  let fails := (x.checkFails.filter fun t => decide (at_ < t + 1000000000)) ++ [at_]
  let left := at_ - 13000 - s.fibrePs q
  let slot := left % (max 1 s.cycleNs * 1000) / 3200
  let s := (s.setQuay q { x with checkFails := fails, rxSeq := (x.rxSeq + 1) % 65536 }).relayLost q slot
  let s := s.nak q x.rxSeq (left / (max 1 s.cycleNs * 1000))
  if 1024 < fails.length then s.linkDown q [fails.length] else s

/-- The cells that a gap in LINK_SEQ has lost are asked for (R283): they left in the slots before slot `n` of cycle `k`, in which the present cell left. -/
def State.linkSeq (s : State) (q seq n k : Nat) : State :=
  let x := s.quay q
  let gap := (seq + 65536 - x.rxSeq) % 65536
  let slots := max 1 s.slotCount
  let one (s : State) (i : Nat) : State := (s.relayLost q ((n + slots - (gap - i) % slots) % slots)).nak q (x.rxSeq + i) ((k * slots + n - (gap - i)) / slots)
  let s := if gap < 32768 then (List.range gap).foldl one s else s
  s.setQuay q { s.quay q with rxSeq := (seq + 1) % 65536 }

/-- A peer's request (R283, R284). -/
def State.requested (s : State) (q seq : Nat) : State :=
  let x := s.quay q
  match x.history.find? fun h => h.1 == seq with
  | none => s.linkDown q [seq]
  | some h =>
    if fieldAt h.2 0 1 = 0 then s
    else
      let n := Tab.get 0 x.requests seq + 1
      if 4 ≤ n then s.linkDown q [seq]
      else s.setQuay q { x with requests := Tab.put x.requests seq n, resend := x.resend ++ [(n, h.2)] }

/-- The stamps of a valid cell: what is echoed next, the peer's tide, and the offset of R41. -/
def State.exchange (s : State) (q : Nat) (l : LinkPart) (arrival : Nat) : State :=
  let x := s.quay q
  let a := signedOf 32 x.asym
  let theta2 := stampDiff arrival l.txStamp - stampDiff l.echoRx l.echoTx + a
  let measured := l.echoTx != 0
  s.setQuay q { x with echoTx := l.txStamp, echoRx := arrival, peerTide := l.flags % 64,
                       offsetSum := if measured then x.offsetSum + theta2 else x.offsetSum,
                       offsetNum := if measured then x.offsetNum + 1 else x.offsetNum }

/-! ### Loss of a link or a laser input (R247, R284) -/

/-- LINK_DOWN: a lane lost lock for more than 1 µs. -/
def execLinkDown (quay : Fin 48) (s : State) : Host.Outcome State Fault Refusal :=
  .next (if s.inService quay.val then s.linkDown quay.val [] else s)

/-- The engine's laser threshold, in quarter dBm: +15 dBm (R425). -/
def laserFloor : Int := 60

/-- A laser input is read: one that falls below the threshold raises LASER_LOSS on the engine's enabled quays, and those in service or in training fail with it
(R247, R425); an armed 0x001A reads it low. -/
def State.laserRead (s : State) (engine : Nat) (level : Int) : State :=
  if s.dev.state = .off then s else
  let was := match Tab.find? s.env.lasers engine with
    | some l => decide (l < laserFloor)
    | none => false
  let inj := s.armed 0x1A engine
  let s := if inj then s.disarm 0x1A engine else s
  let level := if inj then 59 else level
  let s : State := { s with env := { s.env with lasers := Tab.put s.env.lasers engine level } }
  let low := decide (level < laserFloor)
  let one (s : State) (i : Nat) : State :=
    let q := 4 * engine + i
    let e := { quayEvent q 4 [engine] with alarm := true, injected := inj }
    if !low || !bitOf s.dev.chart.quayEnable q then s
    else if s.inService q then ((s.quayFail q 10).raise e).det 4
    else if 2 ≤ s.quayState q ∧ s.quayState q ≤ 4 then (s.quayFail q 10).raise e
    else if was then s else s.raise e
  (List.range 4).foldl one s

/-- LASER_LOSS (R247). -/
def execLaserLoss (engine : Fin 12) (quarterDbm : Int) (s : State) : Host.Outcome State Fault Refusal :=
  .next (s.laserRead engine.val quarterDbm)

end Sys2Proof.Machine
end

