-- ==== Sys2Proof/Machine/Sums.lean ====
section
/-! DEFINITION. Sum windows (R208–R214) and the scrub of on-die memories (R216–R218). -/

namespace Sys2Proof.Machine

/-! ### The tree sum (R211) -/

/-- add(x, y) of R211. -/
def sumAdd (x y : W32) : W32 := f32 ((Val.ofF32 x).add (Val.ofF32 y))

/-- One level of the tree: an absent operand passes the other through, an odd last one stays. -/
def sumLevel : List (Option W32) → List (Option W32)
  | a :: b :: rest =>
    (match a, b with
     | none, r => r
     | l, none => l
     | some l, some r => some (sumAdd l r)) :: sumLevel rest
  | l => l

/-- The root of the tree over leaves in leaf order; 16 levels reduce any number of leaves that LEAVES can give. -/
def treeSum (v : List (Option W32)) : Option W32 := ((List.range 16).foldl (fun l _ => sumLevel l) v).headD none

/-! ### Windows -/

/-- A used sum descriptor (R208). -/
structure SumWin where
  slice  : Nat
  no     : Nat
  leaves : Nat
  tiles  : Nat
  accum  : Bool
  base   : Nat
  first  : Nat
  deriving DecidableEq, Repr

/-- The descriptor whose window holds a 64 KiB tile of a slice. -/
def State.sumWin (s : State) (slice tile : Nat) : Option SumWin :=
  match s.sumWindow (sliceBase slice + 0x10000 * tile) with
  | none => none
  | some (_, d, _, _) =>
    let r := Reg.sumCfg (Fin.ofNat 128 slice) (Fin.ofNat 16 d)
    some { slice := slice, no := d, leaves := s.fld r 63 48, tiles := s.fld r 47 40, accum := s.fld r 39 39 == 1, base := s.fld r 38 33,
           first := s.fld r 28 19 }

/-- SUM_STATE of a descriptor. -/
def SumWin.state (w : SumWin) : Reg := .sumState (Fin.ofNat 128 w.slice) (Fin.ofNat 16 w.no)

/-- The (CORE, ORDINAL) pairs of a descriptor's leaves, in leaf order. -/
def State.sumLeaves (s : State) (w : SumWin) : List (Nat × Nat) :=
  (List.range w.leaves).map fun i =>
    let r := Reg.sumLeaf (Fin.ofNat 128 w.slice) (Fin.ofNat 528 (w.first + i))
    (s.fld r 6 0, s.fld r 15 8)

/-- The window tiles of a descriptor, by their tile number in the slice. -/
def SumWin.tileNos (w : SumWin) : List Nat := (List.range w.tiles).map fun i => w.base + i

/-- Whether a tile of a window is complete in the current round. -/
def State.tileDone (s : State) (w : SumWin) (tile : Nat) : Bool := s.onDie.leafDone.contains (w.slice, w.no, tile)

/-- The key of a core's contribution count to a tile. -/
def ordinalKey (slice tile core : Nat) : Nat := (64 * slice + tile) * 128 + core

/-- A contribution that no leaf names (R213). -/
def State.sumStray (s : State) (w : SumWin) (tile source : Nat) : State := s.strayIn source w.slice w.no (tile - w.base)

/-- A contribution's values: element of the tile, FP32 value, and whether it comes from poisoned data (R217). -/
abbrev SumVals := List (Nat × W32 × Bool)

/-- The value that a leaf wrote at element `e`. -/
def leafValue (vs : SumVals) (e : Nat) : Option W32 := (List.find? (fun x => x.1 == e) vs).map fun x => x.2.1

/-- Whether the value that a leaf wrote at element `e` comes from poisoned data. -/
def leafBad (vs : SumVals) (e : Nat) : Bool := vs.any fun x => x.1 == e && x.2.2

/-- One position of a window tile as the round leaves it: its element, its value, and whether a poisoned leaf or, in ACCUMULATE, a poisoned code word
enters it (R211, R217); `none` where every leaf is absent. -/
def State.sumPosition (s : State) (w : SumWin) (tile : Nat) (leaf : Nat → SumVals) (e : Nat) : Option (Nat × W32 × Bool) :=
  match treeSum ((List.range w.leaves).map fun i => leafValue (leaf i) e) with
  | none => none
  | some root =>
    let a := sliceBase w.slice + 0x10000 * tile + 4 * e
    let bad := (List.range w.leaves).any fun i => leafBad (leaf i) e
    if w.accum then some (e, sumAdd (BitVec.ofNat 32 (leNat (s.readBytes a 4))) root, bad || s.poisoned a) else some (e, root, bad)

/-- Stores the positions of one code word of a window tile, eight elements from `e0` on: those with values, as one write of the code word where it has all
(R215, R217). -/
def State.sumWord (s : State) (base e0 : Nat) (vs : SumVals) : State :=
  let here := vs.filter fun v => decide (v.1 / 8 = e0 / 8)
  let put (s : State) (v : Nat × W32 × Bool) : State := s.memWrite (base + 4 * v.1) (leBytes 4 v.2.1.toNat)
  let s := if here.length = 8 then s.memWrite (base + 4 * (e0 / 8 * 8)) (here.flatMap fun v => leBytes 4 v.2.1.toNat) else here.foldl put s
  if here.any fun v => v.2.2 then s.markPoison (base + 4 * e0) 1 else s

/-- The slots of the partial-sum store that a window tile uses, LEAVES − 1 of them, those of lower descriptors and tiles first (R209; their order is the
model's choice, log entry 74). -/
def State.sumSlots (s : State) (w : SumWin) (tile : Nat) : List Nat :=
  let need (d : Nat) : Nat :=
    let r := Reg.sumCfg (Fin.ofNat 128 w.slice) (Fin.ofNat 16 d)
    (s.fld r 63 48 - 1) * s.fld r 47 40
  let first := (List.range w.no).foldl (fun n d => n + need d) 0 + (w.leaves - 1) * (tile - w.base)
  (List.range (w.leaves - 1)).map fun i => first + i

/-- Values whose partial sums lie in poisoned code words are poisoned (R217). -/
def State.sumMarked (s : State) (slice : Nat) (slots : List Nat) (vs : SumVals) : SumVals :=
  vs.map fun v => (v.1, v.2.1, v.2.2 || slots.any fun i => s.poisoned (sumSlot slice i + 4 * v.1))

/-- A window tile completes: every position that a leaf wrote takes the tree sum (R211, R212). Its partial sums and, in ACCUMULATE, the tile's code words
pass the decoder (R216). -/
def State.sumTile (s : State) (w : SumWin) (tile : Nat) : State :=
  let base := sliceBase w.slice + 0x10000 * tile
  let slots := s.sumSlots w tile
  let s := slots.foldl (fun s i => s.sense (sumSlot w.slice i) 65536) s
  let held := s.onDie.sumHeld.filter fun h => h.slice == w.slice && h.tile == tile
  let leaf (i : Nat) : SumVals := match List.find? (fun h => h.leaf == i) held with
    | some h => h.values
    | none => []
  let elems := held.foldl (fun es h => h.values.foldl (fun es v => Marks.insert es v.1) es) []
  let s := if w.accum then elems.foldl (fun s e => s.sense (base + 4 * e) 4) s else s
  let vs := s.sumMarked w.slice slots (elems.filterMap (s.sumPosition w tile leaf))
  let s := slots.foldl (fun s i => s.cleanUnits (sumSlot w.slice i) 65536) s
  let words := elems.foldl (fun ws e => Marks.insert ws (e / 8)) []
  let s := words.foldl (fun s k => s.sumWord base (8 * k) vs) s
  { s with onDie := { s.onDie with sumHeld := s.onDie.sumHeld.filter (fun h => !(h.slice == w.slice && h.tile == tile)),
                                   leafDone := s.onDie.leafDone ++ [(w.slice, w.no, tile)] } }

/-- Every window tile has completed: the round ends (R212). -/
def State.sumRound (s : State) (w : SumWin) : State :=
  let r := w.state
  let s := s.setReg r (withField (withField 0 63 32 ((s.fld r 63 32 + 1) % 2 ^ 32)) 31 0 0)
  let mine (k : Nat) : Bool := k / 128 / 64 == w.slice && w.tileNos.contains (k / 128 % 64)
  { s with onDie := { s.onDie with leafDone := s.onDie.leafDone.filter (fun x => !(x.1 == w.slice && x.2.1 == w.no)),
                                   ordinals := s.onDie.ordinals.filter fun e => !mine e.1 } }

/-- A contribution that counts in the current round, or is stray (R209, R212, R213); the flag says that it ended the round. The descriptors and leaves that
it is held against pass the decoder (R215, R216). -/
def State.sumCount (s : State) (w : SumWin) (core tile : Nat) (values : SumVals) : State × Bool :=
  let s := s.sense (sumStore w.slice) (32 * 148)
  let key := ordinalKey w.slice tile core
  let n := Tab.get 0 s.onDie.ordinals key
  let s := { s with onDie := { s.onDie with ordinals := Tab.set 0 s.onDie.ordinals key (n + 1) } }
  match (s.sumLeaves w).findIdx? fun l => l == (core, n) with
  | none => (s.sumStray w tile (srcCore core), false)
  | some i =>
    let s := s.setFld w.state 31 16 (s.fld w.state 31 16 + 1)
    let s := { s with onDie := { s.onDie with sumHeld := s.onDie.sumHeld ++ [{ slice := w.slice, tile := tile, leaf := i, values := values }] } }
    let arrived := (s.onDie.sumHeld.filter fun h => h.slice == w.slice && h.tile == tile).length
    if arrived < w.leaves then (s, false)
    else
      let s := s.sumTile w tile
      let s := s.setFld w.state 15 8 (s.fld w.state 15 8 + 1)
      if s.fld w.state 15 8 < w.tiles then (s, false) else (s.sumRound w, true)

/-- Whether a core's contribution to a tile is held: the tile is complete, or one of the core to the same window is held before it (R213). -/
def State.sumHolds (s : State) (w : SumWin) (core tile : Nat) : Bool :=
  (s.tileDone w tile && (s.sumLeaves w).any fun l => l.1 == core) ||
    s.onDie.sumEarly.any fun h => h.slice == w.slice && w.tileNos.contains h.tile && h.leaf == core

/-- Takes held contributions of a window in order, those of the round that has begun; at most `fuel` of them. -/
def State.sumRelease (s : State) (w : SumWin) : Nat → State
  | 0 => s
  | fuel + 1 =>
    let ofWin (h : SumHeld) : Bool := h.slice == w.slice && w.tileNos.contains h.tile
    let held := s.onDie.sumEarly
    let ready (i : Nat) : Bool := match held[i]? with
      | none => false
      | some h => ofWin h && !s.tileDone w h.tile && !(held.take i).any fun g => ofWin g && g.leaf == h.leaf
    match ((List.range held.length).find? ready).bind fun i => held[i]?.map fun h => (i, h) with
    | none => s
    | some (i, h) =>
      let s := { s with onDie := { s.onDie with sumEarly := held.eraseIdx i } }
      State.sumRelease (s.sumCount w h.leaf h.tile h.values).1 w fuel

/-- A contribution arrives at a window tile (R210–R213). -/
def State.sumArrive (s : State) (core slice tile : Nat) (values : SumVals) : State :=
  match s.sumWin slice tile with
  | none => s
  | some w =>
    if s.sumHolds w core tile then
      let g : Fin 128 := Fin.ofNat 128 slice
      let s := { s with onDie := { s.onDie with sumEarly := s.onDie.sumEarly ++ [{ slice := slice, tile := tile, leaf := core, values := values }] } }
      if !s.tileDone w tile then s
      else if s.strict then s.raise (causeEvent 6 (.galCause g) 4 (srcSlice slice) [core, tile - w.base]) else (s.count (.galCount g) 15 0 1).det 7
    else
      let r := s.sumCount w core tile values
      if r.2 then r.1.sumRelease w r.1.onDie.sumEarly.length else r.1

/-- A write into a sum window from a writer that no leaf can name (R213). -/
def State.sumForeign (s : State) (source slice tile : Nat) : State :=
  match s.sumWin slice tile with
  | none => s
  | some w => s.sumStray w tile source

/-- SUM_CONTRIBUTION: a write into a sum window reaches its sum unit. -/
def execSumContribution (source : SumSource) (slice : Fin 128) (tile : Fin 64) (values : List (Nat × W32)) (s : State) :
    Host.Outcome State Fault Refusal :=
  .next (if s.tripped then s else match source with
    | .core c => s.sumArrive c.val slice.val tile.val (values.map fun v => (v.1, v.2, false))
    | .quay q => s.sumForeign (srcQuay q.val) slice.val tile.val
    | .service => s.sumForeign srcHost slice.val tile.val)

/-! ### Row scrub (R216–R218) -/

/-- Where a scrub cycle works: the scrub key, the number of rows, the code words of a row, the address of row 0, the distance of two rows, and the rows that
share the cells of one physical row, whose code words take turns (R215). -/
structure BankGeom where
  key   : Nat
  rows  : Nat
  words : Nat
  base  : Nat
  pitch : Nat
  share : Nat
  deriving DecidableEq, Repr

/-- The geometry of a pad bank (R198, R200, R208, R215). Four adjacent cells of a row belong to four code words, of which a gallery sector has two: two rows of a
gallery bank share a physical row (DEDUCED, log entry 74). -/
def padGeom (core bank : Nat) : BankGeom :=
  { key := 16 * core + bank, rows := 1024, words := 4, base := padBase core + 128 * bank, pitch := 2048, share := 1 }
/-- The geometry of a gallery bank. -/
def sliceGeom (slice bank : Nat) : BankGeom :=
  { key := 2048 + 32 * slice + bank, rows := 2048, words := 2, base := sliceBase slice + 64 * bank, pitch := 2048, share := 2 }
/-- The geometry of a slice's sum store. -/
def sumsGeom (slice : Nat) : BankGeom :=
  { key := 6144 + slice, rows := 2048, words := sumRowWords, base := sumStore slice, pitch := 32 * sumRowWords, share := 1 }

/-- The address of word `w` of the physical row that holds a row. -/
def BankGeom.wordAt (g : BankGeom) (row w : Nat) : Nat := g.base + g.pitch * (row / g.share * g.share + w / g.words) + 32 * (w % g.words)

/-- The code words of a row that an upset puts in error, each with its bits in error: a cell, of cells that turn through four code words, with whether a
second bit of its code word is in error; or, where another row is decoded, every code word of the row, whose check bits alone then disagree (R215). Bits 256
and 257 name check bits. -/
def BankGeom.struck (g : BankGeom) (row : Nat) : RowUpset → List (Nat × List Nat)
  | .bits c two =>
    let b := c % 1024 / 4
    [(g.wordAt row (c / 1024 * 4 + c % 4), if two then [b, b ^^^ 1] else [b])]
  | .row => (List.range g.words).map fun i => (g.base + g.pitch * row + 32 * i, [256, 257])

/-- An upset joins the bits in error of the code words that it strikes. -/
def State.addUpset (s : State) (g : BankGeom) (row : Nat) (u : RowUpset) : State :=
  (g.struck row u).foldl (fun s e =>
    if (Tab.find? s.onDie.rowErrs e.1).isSome then s
    else { s with onDie := { s.onDie with rowErrs := Tab.put s.onDie.rowErrs e.1 e.2 } }) s

/-- Whether an upset's cell lies within a physical row of a bank. -/
def BankGeom.holds (g : BankGeom) : RowUpset → Bool
  | .bits c _ => decide (c < 256 * g.words * g.share)
  | .row => true

/-- Scrubs one code word: one bit in error is corrected and written back; more are marked with the poison pattern (R217, R218). -/
def State.scrubUnit (s : State) (unit : Nat) : State :=
  match Tab.find? s.onDie.rowErrs unit, s.rowHome unit with
  | some [b], some (cause, cnt, u, src) =>
    let s := s.count cnt 63 48 1
    let inj := s.onDie.rowInj.contains unit
    let s := { s with totals := { s.totals with corrected := s.totals.corrected + 1 },
                      onDie := { s.onDie with rowErrs := Tab.erase s.onDie.rowErrs unit, rowInj := Marks.erase s.onDie.rowInj unit } }
    s.raise { causeEvent u cause 1 src (s.wordItems unit ++ [b]) with line := unit, injected := inj }
  | some _, _ => s.senseUnit unit
  | none, _ => s

/-- One scrub cycle of a bank (R218), which takes the read and the write slot of its bank while a plan is loaded. -/
def State.scrubCycle (s : State) (g : BankGeom) (upsets : List RowUpset) : State :=
  let q := Tab.get [] s.onDie.rowQueue g.key
  let next := Tab.get 0 s.onDie.rowSweep g.key
  let row := match q with
    | r :: _ => r
    | [] => next
  let d : OnDie := match q with
    | _ :: rest => { s.onDie with rowQueue := Tab.set [] s.onDie.rowQueue g.key rest }
    | [] => { s.onDie with rowSweep := Tab.set 0 s.onDie.rowSweep g.key ((next + 1) % g.rows) }
  let at_ := g.base + g.pitch * row
  let s : State := { s with onDie := d }
  let s := if s.plan.isSome then s.bookAt .scrub s.nowPs [(at_, 32 * g.words)] [(at_, 32 * g.words)] else s
  let s := (upsets.filter g.holds).foldl (fun s u => s.addUpset g row u) s
  (List.range g.words).foldl (fun s i => s.scrubUnit (at_ + 32 * i)) s

/-- The geometry of a core's feed buffers, and of its accumulator banks, as code words of their names, in rows of four (R429; the spec gives them no
rows: log entry 74). -/
def feedGeom (core : Nat) : BankGeom :=
  { key := 8192 + core, rows := 8192, words := 4, base := feedStore + 2 ^ 20 * core, pitch := 128, share := 1 }
def accGeom (core : Nat) : BankGeom :=
  { key := 8320 + core, rows := 4096, words := 4, base := accStore + 2 ^ 19 * core, pitch := 128, share := 1 }

/-- A read finds a code word of a row-coded structure beside pads and gallery in error (R431): with one bit it is corrected, with more it is uncorrectable,
which is an alarm (R217). The record names code word and bit, and the structure. Of the structures whose contents no operation carries on as data, the
spec names no moment at which they are read and no scrub: these are upsets that a read meets at once (DESIGN CHOICE, log entry 74). -/
def State.structUpset (s : State) (home : Reg × Reg × Nat × Nat) (structNo : Nat) (w : Nat × List Nat) : State :=
  let two := decide (1 < w.2.length)
  let e := { causeEvent home.2.2.1 home.1 (if two then 2 else 1) home.2.2.2 (if two then [w.1] else w.1 :: w.2) with structNo := structNo, line := w.1 }
  if two then ((s.count home.2.1 47 32 1).det 4).raise { e with alarm := true }
  else
    let s := s.count home.2.1 63 48 1
    ({ s with totals := { s.totals with corrected := s.totals.corrected + 1 } } : State).raise e

/-- The code words of a row of such a structure that an upset strikes, by their number. -/
def structWords (row : Nat) : RowUpset → List (Nat × List Nat)
  | .bits c two => [(4 * row + c % 4, if two then [c / 4, (c / 4) ^^^ 1] else [c / 4])]
  | .row => (List.range 4).map fun i => (4 * row + i, [256, 257])

/-- An uncorrectable word of an input store poisons the cell that it holds: row n is taken to hold the n-th cell that waits in the half (DESIGN CHOICE, log
entry 74). -/
def State.storePoison (s : State) (h : Half) (row : Nat) (w : Nat × List Nat) : State :=
  if w.2.length < 2 then s
  else match (s.red.store.filter fun z => nodeHalf z.entry == h)[row]? with
    | none => s
    | some x => { s with red := { s.red with store := s.red.store.map fun z => if z = x then { z with poison := true } else z } }

/-- Whether the scrubs run: from the entry to READY on (R393), in FAULT too where they ran before it (DESIGN CHOICE, log entry 74: R404 does not stop them). -/
def State.scrubs (s : State) : Bool :=
  let ran (d : DevState) : Bool := d != .off && d != .boot && d != .verify && d != .gesso && d != .fault
  ran s.dev.state || (s.dev.state == .fault && ran s.dev.faultFrom)

/-- Whether a bank or structure exists and is powered. -/
def State.bankOn (s : State) : RowBank → Bool
  | .pad c _ => s.coreOn c.val
  | .coreStore c _ _ => s.coreOn c.val
  | .slice sl _ => s.halfOn (sliceHalf sl.val) && s.sliceOn sl.val
  | .sums sl => s.halfOn (sliceHalf sl.val) && s.sliceOn sl.val
  | .halfStore h _ _ => s.halfOn h

/-- The first slice of a half (R198). -/
def halfSlice (h : Half) : Nat := if h = .west then 0 else 64

/-- SRAM_SCRUB: one scrub cycle of a bank (R218), or upsets in a structure of R431: those of feed buffers and accumulator banks are found when an
operation reads the word. -/
def State.sramScrub (s : State) (bank : RowBank) (upsets : List RowUpset) : State :=
  match bank with
  | .pad c b => s.scrubCycle (padGeom c.val b.val) upsets
  | .slice sl b => s.scrubCycle (sliceGeom sl.val b.val) upsets
  | .sums sl => s.scrubCycle (sumsGeom sl.val) upsets
  | .coreStore c no row =>
    if no.val = 0 then if row < 8192 then upsets.foldl (fun s u => s.addUpset (feedGeom c.val) row u) s else s
    else if no.val = 1 then if row < 4096 then upsets.foldl (fun s u => s.addUpset (accGeom c.val) row u) s else s
    else (upsets.flatMap (structWords row)).foldl (fun s w => s.structUpset (padHome c.val) (1 + no.val) w) s
  | .halfStore h no row =>
    let s' := (upsets.flatMap (structWords row)).foldl (fun s w => s.structUpset (sliceHome (halfSlice h)) (6 + no.val) w) s
    if no.val = 3 then (upsets.flatMap (structWords row)).foldl (fun s w => s.storePoison h row w) s' else s'

def execSramScrub (bank : RowBank) (upsets : List RowUpset) (s : State) : Host.Outcome State Fault Refusal :=
  .next (if s.scrubs && s.bankOn bank then s.sramScrub bank upsets else s)

end Sys2Proof.Machine
end

