-- ==== Sys2Proof/Machine/CellCommit.lean ====
section
/-! DEFINITION. What received cells do when they commit (R160, R161, R265, R269, R270, R275–R278, R282, R285, R286), and signals and load
responses that wait. -/

namespace Sys2Proof.Machine

/-! ### Sequence numbers (R263, R265, R275) -/

/-- Whether `a` is at or before `b`, modulo 2^32 (R263). -/
def seqLe (a b : Nat) : Bool := decide ((b + 2 ^ 32 - a % 2 ^ 32) % 2 ^ 32 < 2 ^ 31)

/-- Whether the chip has committed every cell of a flow up to a sequence number. -/
def State.committedTo (s : State) (flow seq : Nat) : Bool := seqLe seq (s.flow flow).seq

/-- The highest number up to which every cell has committed, given those committed above it; at most `fuel` more. -/
def advanceSeq : Nat → Nat → List Nat → Nat × List Nat
  | 0, c, above => (c, above)
  | fuel + 1, c, above =>
    let n := (c + 1) % 2 ^ 32
    if above.contains n then advanceSeq fuel n (above.filter fun x => x != n) else (c, above)

/-- A cell of a flow has committed: COMMITTED advances over it (R265). -/
def State.commitQuiet (s : State) (flow seq : Nat) : State :=
  let f := s.flow flow
  let r := advanceSeq (f.above.length + 1) f.seq (if f.above.contains seq then f.above else f.above ++ [seq])
  s.setFlow flow { f with seq := r.1, above := r.2 }

/-- As `commitQuiet`; where COMMITTED has changed, an ack falls due (R277). Responses are never acknowledged (R269). -/
def State.commitSeq (s : State) (flow seq : Nat) : State :=
  let t := s.commitQuiet flow seq
  if (t.flow flow).seq = (s.flow flow).seq then t else t.ackDue flow

/-- A cell that R285 discards counts as committed on the RECV context that it names (R265). -/
def State.discard (s : State) (c : Cell) : State :=
  if (s.flow c.rxFlow).role ≠ 2 ∨ !sequenced c.kind then s
  else if c.kind = 3 ∨ c.kind = 5 then s.commitQuiet c.rxFlow c.seq
  else s.commitSeq c.rxFlow c.seq

/-! ### The effects of the kinds (R259, R285) -/

/-- Whether `n` bytes at an address lie in a flow's window (R262). -/
def Flow.inWindow (f : Flow) (addr n : Nat) : Bool := decide (f.winBase ≤ addr) && decide (addr + n ≤ f.winBase + f.winSize)

/-- The request entries of a LOAD_REQ: source, length, destination (R269). -/
def loadEntries (bs : List Byte) : List (Nat × Nat × Nat) :=
  (List.range (bs.length / 16)).map fun i =>
    (bitsOf (fieldAt bs (16 * i) 8) 41 0, bitsOf (fieldAt bs (16 * i) 8) 49 42 + 1, bitsOf (fieldAt bs (16 * i + 8) 8) 41 0)

/-- Whether every byte that a cell addresses lies in its flow's window (R285). -/
def Flow.allows (f : Flow) (c : Cell) : Bool :=
  let a := c.addr % 2 ^ 42
  match c.kind with
  | 1 => c.len == 0 || f.inWindow a c.len
  | 3 => c.len == 0 || f.inWindow a c.len
  | 4 => f.inWindow a 8
  | 2 => (loadEntries c.payload).all fun e => f.inWindow e.1 e.2.1
  | _ => true

/-- Committed bytes become visible, in commit order (R35, R278). -/
def State.landOne (s : State) (l : Landing) : State :=
  if l.poison then s.memWritePoison l.core l.addr l.bytes else s.memWriteFrom 1 l.core l.addr l.bytes

/-- Whether committed bytes reach a range. -/
def Landing.hits (l : Landing) (a n : Nat) : Bool := decide (l.addr < a + n) && decide (a < l.addr + l.bytes.length)

/-- Bytes as a later cell finds them: with those that have committed and are not yet visible (R270, R278). -/
def State.committedBytes (s : State) (a n : Nat) : List Byte :=
  let at_ (i : Nat) : Byte :=
    s.fab.landing.foldl (fun b l => if l.hits (a + i) 1 ∧ s.mapped (a + i) = .ok then l.bytes.getD (a + i - l.addr) 0 else b) (s.readByte (a + i))
  (List.range n).map at_

/-- Committed bytes of main memory stand from their slot on (R229, R278); those of a pad or the gallery from the next boundary on. -/
def State.landLater (s : State) (l : Landing) : State :=
  match s.region l.addr with
  | .main _ => s.landOne l
  | _ => { s with fab := { s.fab with landing := s.fab.landing ++ [l] } }

/-- The bytes of a store or a load response: visible at the next boundary with their poison marks; those in a sum window are stray (R213, R217, R233, R278,
R285). The receiver takes slots of the banks that it writes (R204, R206). -/
def State.cellStore (s : State) (q : Nat) (c : Cell) : State :=
  let a := c.addr % 2 ^ 42
  match c.payload with
  | [] => s
  | bs =>
    let s := s.logBad (srcQuay q) (s.badRanges a bs.length)
    let x := s.windowStray (srcQuay q) a (bs.map some)
    let one (s : State) (r : Nat × List Byte) : State :=
      let s := s.bookAt (.quay q) s.nowPs [] [(r.1, r.2.length)]
      s.landLater { addr := r.1, bytes := r.2, poison := c.flags % 2 == 1, core := (s.flow c.rxFlow).proxy }
    (runsFrom a x.1).foldl one x.2

/-- Books what PROXY_CORE's paths read for a request, from its commit on (R204, R206). -/
def State.bookProxy (s : State) (core a n : Nat) : State :=
  let c := ceilDiv s.nowPs s.stepPs
  let r := s.sideReqs (some s.nextOp) core (.core core .fabric 0) false c c [(a, n)] []
  { s with onDie := { s.onDie with reqs := s.onDie.reqs ++ r }, nextOp := s.nextOp + 1 }

/-- A LOAD_REQ: each entry is read through PROXY_CORE's paths at their ratings, from the commit on (R269). -/
def State.serveLoads (s : State) (flow : Nat) (c : Cell) : State :=
  let core := (s.flow flow).proxy
  let one (s : State) (e : Nat × Nat × Nat) : State :=
    let lines := if e.1 < 0x10000000000 then [(e.1 / 256, 1)] else []
    let s := s.bookProxy core e.1 e.2.1
    let from_ := if lines.isEmpty then s.nowPs else 1000 * ceilDiv s.nowPs 1000
    let r := match s.rateFor none core (ceilDiv s.nowPs 1000) (s.readSteps core e.1 e.2.1 (s.acrossSeam core e.1)) 0 lines [] with
      | some r => r
      | none => (0, s)
    let l : LoadServe := { id := r.2.fab.nextId, flow := flow, src := e.1, dst := e.2.2, len := e.2.1, ready := from_ + r.1 }
    { r.2 with fab := { r.2.fab with loads := r.2.fab.loads ++ [l], nextId := r.2.fab.nextId + 1 } }
  (loadEntries c.payload).foldl one s

/-- A LOAD_RESP also settles the first FLD or RECOVER_COPY that waits for its address (R273, R381); `poison`: the cell has POISON. -/
def State.loadArrived (s : State) (poison : Bool) (addr : Nat) : State :=
  let waits (o : InFlight) : Bool := match o.remote with
    | .loads as => as.contains addr
    | _ => false
  match s.ops.find? waits with
  | none => s
  | some o =>
    let one (p : InFlight) : InFlight := match p.remote with
      | .loads as => if p.id = o.id then { p with remote := .loads (as.erase addr) } else p
      | _ => p
    { s with ops := s.ops.map one, run := { s.run with copyPoison := s.run.copyPoison || (poison && o.strand == copyKey) } }

/-- An ATOMIC_REQ acts when it commits, on what the cells before it have committed, and its response is queued; what it writes is visible as every committed
cell's bytes are. Its poison, and that of the word, go with the data (R217, R270, R278, R285). -/
def State.serveAtomic (s : State) (q flow : Nat) (c : Cell) : State :=
  let a := c.addr % 2 ^ 42
  let core := (s.flow flow).proxy
  let s := (s.logBad (srcQuay q) (s.badRanges a 8)).bookAt (.quay q) s.nowPs [(a, 8)] [(a, 8)]
  let op := fieldOf c.arg 3 0
  let operand := BitVec.ofNat 64 (fieldAt c.payload 0 8)
  let cmp := BitVec.ofNat 64 (fieldAt c.payload 8 8)
  let answer (s : State) (old : W64) (bad : Bool) : State :=
    s.sendCell (s.flow flow).returnFlow 5 (if bad then 1 else 0) 0 c.arg (leBytes 8 old.toNat) s.nowPs
  match s.region a, s.sumWindow a with
  | .main _, _ =>
    let r := s.atomic (srcQuay q) core a op operand cmp
    let bad := r.2.poisonedRange a 8
    answer (if c.flags % 2 = 1 then r.2.markPoison a 8 else r.2) r.1 bad
  | _, some _ =>
    let r := s.atomic (srcQuay q) core a op operand cmp
    answer r.2 r.1 (r.2.poisonedRange a 8)
  | _, none =>
    let s := s.sense a 8
    let old := BitVec.ofNat 64 (leNat (s.committedBytes a 8))
    let bad := s.poisonedRange a 8 || s.fab.landing.any fun l => l.poison && l.hits a 8
    let l : Landing := { addr := a, bytes := leBytes 8 (atomicNew op old operand cmp).toNat, poison := c.flags % 2 == 1, core := core }
    answer ((s.encodeWords a 8).landLater l) old bad

/-- An ATOMIC_RESP gives the old value, and DATA_POISON with poisoned data, to its FATOM (R217, R270, R273). -/
def State.atomicArrived (s : State) (c : Cell) : State :=
  let key := 2048 * fieldOf c.arg 10 4 + fieldOf c.arg 21 11
  let r := fieldOf c.arg 26 22
  let mine (o : InFlight) : Bool := o.strand == key && o.remote == .atomic r
  match s.ops.find? mine with
  | none => s
  | some o =>
    let done (x : InFlight) : InFlight :=
      if x.id = o.id then
        { x with remote := .none
                 effects := x.effects ++ (.reg key r (BitVec.ofNat 64 (leNat c.payload)) :: poisonFault (c.flags % 2 == 1) key x.pc) }
      else x
    { s with ops := s.ops.map done }

/-- A remote push takes effect at the boundary after its commit (R159–R161): into the berth that the flow feeds, if it is open to it and not full. The reads
of the descriptor pass the decoder; a poisoned value is stored with its mark (R216, R217, R285). -/
def State.pushOne (s : State) (p : RemotePush) : State :=
  let f := s.flow p.flow
  let core := f.proxy
  let s := s.sense (s.berthAddr core f.berth) 16
  let d := s.berth core f.berth
  let r := Reg.seqCause (Fin.ofNat 128 core)
  let items := [f.berth, p.srcChip, p.flow]
  if !f.berthEn || berthDepth d == 0 || !berthRemoteOk d then s.raise (causeEvent 3 r 4 (srcCore core) items)
  else if berthOcc d = berthDepth d then (s.setBerth core f.berth (withBits d 48 48 1)).raise (causeEvent 3 r 3 (srcCore core) items)
  else
    let a := berthEntry core d (berthPushed d)
    let s := s.setBerth core f.berth (withBits d 127 96 ((berthPushed d + 1) % 2 ^ 32))
    if p.poison then s.memWritePoison core a p.value else s.memWriteFrom 1 core a p.value

/-- A PUSH commits: its receiver takes slots of the banks of the descriptor and the entry, behind the pushes that wait for the boundary with it (R160, R204,
R206). -/
def State.remotePush (s : State) (q flow : Nat) (c : Cell) : State :=
  let f := s.flow flow
  let at_ := (s.berthAddr f.proxy f.berth, 16)
  let d := s.berth f.proxy f.berth
  let ahead := (s.fab.pushes.filter fun p => (s.flow p.flow).proxy == f.proxy && (s.flow p.flow).berth == f.berth).length
  let entry := if berthDepth d = 0 then [] else [(berthEntry f.proxy d (berthPushed d + ahead), 8)]
  let s := s.bookAt (.quay q) s.nowPs [at_] (at_ :: entry)
  { s with fab := { s.fab with pushes := s.fab.pushes ++
      [{ flow := flow, srcChip := c.srcChip, value := sliceBytes c.payload 0 8, poison := c.flags % 2 == 1 }] } }

/-- What the cells that have committed wrote and pushed takes effect, at a stroke boundary (R35, R159, R278). -/
def State.land (s : State) : State :=
  let t := s.fab.landing.foldl State.landOne s
  let t := { t with fab := { t.fab with landing := [] } }
  let u := t.fab.pushes.foldl State.pushOne t
  { u with fab := { u.fab with pushes := [] } }

/-- The entries of an ACK at the sender (R277). -/
def State.acked (s : State) (c : Cell) : State :=
  let one (s : State) (i : Nat) : State :=
    let k := fieldAt c.payload (8 * i) 2
    let f := s.flow k
    let n := fieldAt c.payload (8 * i + 4) 4
    s.setFlow k { f with acked := if seqLe f.acked n then n else f.acked, credits := f.credits + fieldAt c.payload (8 * i + 2) 2 }
  (List.range (c.payload.length / 8)).foldl one s

/-- A VOTE (R282): held for the collecting round or the one after it, at this home. A VOTE for another round is counted in INVALID_DISCARDS (DESIGN CHOICE, log
entry 52: R282 names no counter). -/
def State.voteArrived (s : State) (q : Nat) (c : Cell) : State :=
  let key := 64 * fieldOf c.arg 22 16 + fieldOf c.arg 5 0
  let round := fieldOf c.arg 63 32
  let n := s.lockRound key
  if round = n ∨ round = (n + 1) % 2 ^ 32 then
    let x := s.lockx_ key
    (s.setLockx key { x with votes := x.votes ++ [(round, c.srcChip, BitVec.ofNat 64 (leNat c.payload))] }).settle key
  else (s.count .fabricCount 31 16 1).raise (fabricEvent q 5 [key, round, c.srcChip])

/-- A RELEASE (R282): the participant opens the round at the first boundary from now on. -/
def State.releaseArrived (s : State) (c : Cell) : State :=
  let key := 64 * fieldOf c.arg 22 16 + fieldOf c.arg 5 0
  let x := s.lockx_ key
  if s.lockRound key = fieldOf c.arg 63 32 then
    s.setLockx key { x with due := some (s.boundary, BitVec.ofNat 64 (leNat c.payload)) }
  else s

/-! ### Signals (R276, R286) -/

/-- Whether a waiting signal has committed: its cover and every earlier cell of its own flow have (R265, R276). -/
def State.signalDone (s : State) (w : WaitSignal) : Bool := s.committedTo w.cover w.covers && s.committedTo w.flow w.seq

/-- Whether a waiting signal can commit now. -/
def State.signalReady (s : State) (w : WaitSignal) : Bool :=
  s.committedTo w.cover w.covers && s.committedTo w.flow ((w.seq + 2 ^ 32 - 1) % 2 ^ 32) && !s.committedTo w.flow w.seq

/-- A SIGNAL arrives: it waits for its cover, or is discarded, which counts as committed (R276, R286). -/
def State.signalArrived (s : State) (q flow : Nat) (c : Cell) : State :=
  let cover := fieldOf c.arg 63 48
  let f := s.flow cover
  if f.role ≠ 2 ∨ f.peerChip ≠ c.srcChip then
    ((s.count .fabricCount 31 16 1).raise (fabricEvent q 4 [c.srcChip, flow, cover])).commitSeq flow c.seq
  else if 1024 ≤ s.fab.signals.length then
    ((s.count .fabricCount 31 16 1).raise { fabricEvent q 3 [c.srcChip, flow] with alarm := true }).commitSeq flow c.seq
  else
    let w : WaitSignal :=
      { id := s.fab.nextId, counter := 1024 * bitsOf c.addr 48 42 + fieldOf c.arg 9 0, count := BitVec.ofNat 64 (leNat c.payload), cover := cover,
        covers := fieldOf c.arg 47 16, flow := flow, seq := c.seq }
    { s with fab := { s.fab with signals := s.fab.signals ++ [w], nextId := s.fab.nextId + 1 } }

/-- At a stroke boundary, adds the count of a signal that has committed, and lets it go (R162, R276). -/
def State.signalApply (s : State) (id : Nat) : State :=
  match s.fab.signals.find? fun w => w.id == id with
  | none => s
  | some w =>
    if s.atBoundary && s.signalDone w then
      let s : State := { s with fab := { s.fab with signals := s.fab.signals.filter fun x => x.id != id } }
      s.addSignal w.counter w.count
    else s

/-- SIGNAL_APPLY (R276): at a stroke boundary. -/
def execSignalApply (id : Nat) (s : State) : Host.Outcome State Fault Refusal := .next (s.signalApply id)

/-! ### Commit (R275, R278, R285) -/

/-- A cell takes effect in its turn. A SIGNAL commits later, with its cover; every other kind commits now. -/
def State.takeEffect (s : State) (q : Nat) (c : Cell) : State :=
  let flow := c.rxFlow
  let f := s.flow flow
  if !f.allows c then
    let s := (s.count .fabricCount 47 32 1).raise (fabricEvent q 1 [c.srcChip, flow, c.addr % 2 ^ 42])
    if c.kind = 3 then s.commitQuiet flow c.seq else s.commitSeq flow c.seq
  else match c.kind with
    | 1 => (s.cellStore q c).commitSeq flow c.seq
    | 2 => (s.serveLoads flow c).commitSeq flow c.seq
    | 3 => ((s.cellStore q c).loadArrived (c.flags % 2 == 1) (c.addr % 2 ^ 42)).commitQuiet flow c.seq
    | 4 => (s.serveAtomic q flow c).commitSeq flow c.seq
    | 5 => (s.atomicArrived c).commitQuiet flow c.seq
    | 6 => s.signalArrived q flow c
    | 7 => (s.remotePush q flow c).commitSeq flow c.seq
    | 9 => (s.voteArrived q c).commitSeq flow c.seq
    | 10 => (s.releaseArrived c).commitSeq flow c.seq
    | 11 => (s.redCommit (quayHalf q) flow c).commitSeq flow c.seq
    | _ => s.commitSeq flow c.seq

/-- Whether a signal of the flow waits with a sequence number. -/
def State.signalWaits (s : State) (flow seq : Nat) : Bool := s.fab.signals.any fun w => w.flow == flow && w.seq == seq

/-- Whether the cell of a flow with a sequence number has committed, or waits as a signal: a further one is a DUPLICATE (R285). -/
def State.seqTaken (s : State) (flow seq : Nat) : Bool :=
  s.committedTo flow seq || (s.flow flow).above.contains seq || s.signalWaits flow seq

/-- A cell in its turn, or held behind a gap; a receiver holds up to 512 cells (R275). -/
def State.inTurn (s : State) (q : Nat) (c : Cell) (arrival : Nat) : State :=
  let f := s.flow c.rxFlow
  if s.seqTaken c.rxFlow c.seq then s.count .fabricCount 15 0 1
  else if (s.strict || f.ordered) && c.seq != (f.seq + 1) % 2 ^ 32 then
    let x := s.quay q
    if x.heldCells.length < 512 then s.setQuay q { x with heldCells := x.heldCells ++ [{ cell := c, arrival := arrival, due := none }] } else s
  else s.takeEffect q c

/-- The cell that a quay holds and whose turn has come, or that another copy has overtaken. -/
def State.heldTurn (s : State) (q : Nat) : Option RxCell :=
  (s.quay q).heldCells.find? fun x => x.cell.seq == ((s.flow x.cell.rxFlow).seq + 1) % 2 ^ 32 || s.seqTaken x.cell.rxFlow x.cell.seq

/-- Signals whose cover is complete commit, and held cells whose turn has come take effect, until none remains; at most `fuel` of them. -/
def State.settleFlows : Nat → State → State
  | 0, s => s
  | fuel + 1, s =>
    match s.fab.signals.find? fun w => s.signalReady w with
    | some w => State.settleFlows fuel (s.commitSeq w.flow w.seq)
    | none =>
      match (List.range 48).findSome? fun q => (s.heldTurn q).map fun x => (q, x) with
      | some (q, x) =>
        let y := s.quay q
        State.settleFlows fuel ((s.setQuay q { y with heldCells := y.heldCells.erase x }).inTurn q x.cell x.arrival)
      | none => s

/-- The cells and signals that may settle. -/
def State.settleFuel (s : State) : Nat :=
  s.fab.signals.length + (s.fab.quays.foldl (fun n e => n + e.2.heldCells.length) 0) * 2 + 2

/-- The half in which a cell takes effect, where it has one: that of its address, of PROXY_CORE, of the core that an atomic answers, that a signal counts on,
or that holds a vote's or a release's lock. A REDUCE cell goes into the input store of the receiving half (R306). -/
def State.cellHalf (s : State) (c : Cell) : Option Half :=
  match c.kind with
  | 2 => some (s.coreHalf (s.flow c.rxFlow).proxy)
  | 5 => some (s.coreHalf (fieldOf c.arg 10 4))
  | 7 => some (s.coreHalf (s.flow c.rxFlow).proxy)
  | 6 => some (s.coreHalf (bitsOf c.addr 48 42))
  | 9 => some (s.coreHalf (fieldOf c.arg 22 16))
  | 10 => some (s.coreHalf (fieldOf c.arg 22 16))
  | k =>
    if k = 1 ∨ k = 3 ∨ k = 4 then
      match s.region (c.addr % 2 ^ 42) with
      | .gallery sl => some (sliceHalf sl)
      | .pad core => some (s.coreHalf core)
      | .main h => some h
      | _ => none
    else none

/-- The picoseconds from a cell's arrival to its commit in a pad or the gallery: 8 ns, and 4 steps more across the seam (R278). -/
def State.commitDelay (s : State) (q : Nat) (c : Cell) : Nat :=
  8000 + match s.cellHalf c with
    | some h => if h = quayHalf q then 0 else s.stepsPs 4
    | none => 0

/-- The bytes of main memory that a cell writes: address and length. -/
def Cell.mainBytes (c : Cell) : Option (Nat × Nat) :=
  let a := c.addr % 2 ^ 42
  if 0x10000000000 ≤ a then none
  else if (c.kind = 1 ∨ c.kind = 3) ∧ c.payload ≠ [] then some (a, c.payload.length)
  else if c.kind = 4 then some (a, 8)
  else none

/-- An accepted cell waits for its commit: in PROXY_CORE's queue where it goes to main memory, else 8 ns (R278). -/
def State.awaitCommit (s : State) (q : Nat) (c : Cell) (arrival : Nat) : State :=
  let r : Option Nat × State := match c.mainBytes with
    | some m => s.cellSlots (s.flow c.rxFlow).proxy m.1 m.2 arrival
    | none => (none, s)
  let x := r.2.quay q
  r.2.setQuay q { x with arrived := x.arrived ++ [{ cell := c, arrival := arrival, due := r.1 }] }

/-- The instant at which a cell commits. One whose slot lies in a frame that extra refresh has taken since takes the same slot two frames later (R240). -/
def State.commitAt (s : State) (q : Nat) (x : RxCell) : Nat :=
  match x.due, x.cell.mainBytes with
  | some t, some m => if s.refreshing (if m.1 < 0x8000000000 then .west else .east) ((t - 1) / 160000) then t + 320000 else t
  | some t, none => t
  | none, _ => x.arrival + s.commitDelay q x.cell

/-- One cell of a quay commits. A cell that arrived before its context became BROKEN is none of its later cells (R285). -/
def State.commitCell (s : State) (q : Nat) (x : RxCell) : State :=
  let c := x.cell
  if c.kind = 8 then s.acked c
  else if sequenced c.kind then
    let s := s.inTurn q c x.arrival
    s.settleFlows s.settleFuel
  else s

/-- The cell of a quay that commits first, if its instant has come. -/
def State.firstDue (s : State) (q : Nat) : Option RxCell :=
  let due := (s.quay q).arrived.filter fun x => decide (s.commitAt q x ≤ s.nowPs)
  (due.foldl (fun l x => insertBy (fun a b => decide (s.commitAt q a < s.commitAt q b)) x l) []).head?

/-- That cell commits. -/
def State.commitFirst (s : State) (q : Nat) : State :=
  match s.firstDue q with
  | none => s
  | some x =>
    let y := s.quay q
    (s.setQuay q { y with arrived := y.arrived.erase x }).commitCell q x

/-- CELL_COMMIT: the next cell of a quay commits. Cells that commit at the same instant on quays with lower numbers take effect before it (R278). -/
def State.cellCommit (s : State) (q : Nat) : State :=
  match s.firstDue q with
  | none => s
  | some x =>
    let t := s.commitAt q x
    let before (s : State) (p : Nat) : State := match s.firstDue p with
      | some y => if s.commitAt p y = t then s.commitFirst p else s
      | none => s
    ((List.range q).foldl before s).commitFirst q

/-! ### The receiver: the slot's entry (R257, R279, R285, R287) -/

/-- A cell is discarded; cells that waited behind it go on. -/
def State.dropCell (s : State) (c : Cell) : State :=
  let s := s.discard c
  s.settleFlows s.settleFuel

/-- A cell disagrees with its slot (R285). -/
def State.slotViolation (s : State) (q n : Nat) (c : Cell) : State :=
  (((s.count (.quayCount (quayFin q)) 31 16 1).raise (quayEvent q 3 [n, c.srcChip, c.rxFlow, c.planCycle])).traceQuay 3 q [n]).dropCell c

/-- E2E_CHECK failed (R285): the receive context becomes BROKEN. -/
def State.e2eFail (s : State) (q : Nat) (c : Cell) : State :=
  let f := s.flow c.rxFlow
  let s := if f.role = 2 then s.setFlow c.rxFlow { f with broken := true } else s
  let s := s.count .fabricCount 63 48 1
  ((s.raise { fabricEvent q 2 [c.srcChip, c.rxFlow] with alarm := true }).det 4).dropCell c

/-- A later cell of a BROKEN context is discarded and logged under the cause that broke it; the alarm was the first cell's (R265, R285; log entry 36). -/
def State.brokenDrop (s : State) (q : Nat) (c : Cell) : State := (s.raise (fabricEvent q 2 [c.srcChip, c.rxFlow])).dropCell c

/-- Whether PLAN_CYCLE disagrees (R287) for a cell whose last hop left in cycle `k`. That is the source slot of a cell of the peer itself in its own slot; a
cell that the peer resends in a REPAIR slot left its source slot in a cycle whose cell was asked for again. A cell of another chip left its source no later
than its last hop, how much earlier only its route and its resends say: whether its cycle agrees is then a free value (log entry 36). -/
def State.cycleWrong (s : State) (q k : Nat) (repair : Bool) (c : Cell) : Bool × State :=
  let own := c.srcChip == s.fld (.quayStatus (quayFin q)) 31 16
  if s.dev.state != .running then (false, s)
  else if own && !repair then (c.planCycle != s.planCycle k, s)
  else if own then (!(s.quay q).nakCycles.any fun i => c.planCycle == s.planCycle i, s)
  else if decide ((s.planCycle k + 65536 - c.planCycle) % 65536 < 32768) then
    let f := s.takeFree
    (f.1.getLsbD 0, f.2)
  else (true, s)

/-- Whether a receive entry disagrees with a cell (R257). -/
def State.entryWrong (s : State) (e : W32) (c : Cell) : Bool :=
  match entryKind e with
  | 1 => entryFlow e != c.rxFlow
  | 2 => (s.flow c.rxFlow).role != 2
  | _ => true

/-- The checks of R285 that precede a cell's commit, in their order; `pass` goes on with a cell that none of them discards. -/
def State.checked (s : State) (q n k : Nat) (e : W32) (bs : List Byte) (pass : State → Cell → State) : State :=
  let c := cellOfBytes bs
  let f := s.flow c.rxFlow
  if !e2eOk bs then s.e2eFail q c
  else if c.kind = 0 then s
  else if f.role = 2 && f.broken then s.brokenDrop q c
  else if s.entryWrong e c then s.slotViolation q n c
  else
    let w := s.cycleWrong q k (entryKind e == 2) c
    if w.1 then w.2.slotViolation q n c
    else if f.role ≠ 2 ∨ f.peerChip ≠ c.srcChip then
      ((w.2.count .fabricCount 31 16 1).raise (fabricEvent q 0 [c.srcChip, c.rxFlow])).dropCell c
    else pass w.2 c

/-- The slot and the cycle in which an arriving cell left its last hop (R257). -/
def State.leftSlot (s : State) (at_ stamp : Nat) (l : LinkPart) : Nat × Nat :=
  let left := at_ - (stampDiff stamp l.txStamp).toNat
  (left % (max 1 s.cycleNs * 1000) / 3200, left / (max 1 s.cycleNs * 1000))

/-- The outgoing quays of the relay slots of a receive table. -/
def State.relayOuts (s : State) (q : Nat) : List Nat :=
  (((s.quay q).rxTable.map fun e => e.2).filterMap fun e => if entryKind e = 3 then some (entryQuay e) else none).eraseDups

/-- A resent cell on its way to another chip goes to the first REPAIR slot of an outgoing quay (R280): that of the relay slot whose cell failed here, or, where
none did, of a relay slot that an earlier hop left empty. Where that leaves several quays, which one is a free value: a resent cell does not name its slot,
and cells asked for again that were IDLE never come (log entry 79). Those asked for before it were such. -/
def State.relayRepair (s : State) (q : Nat) (bs : List Byte) : State :=
  let x := s.quay q
  let cands := if x.awaiting.isEmpty then s.relayOuts q else x.awaiting
  let put (s : State) (i : Nat) : State :=
    let s := s.setQuay q { s.quay q with awaiting := x.awaiting.drop (i + 1) }
    let out := cands.getD i 0
    let y := s.quay out
    s.setQuay out { y with resend := y.resend ++ [(0, bs)] }
  match cands with
  | [] => s
  | [_] => put s 0
  | _ =>
    let f := s.takeFree
    put f.2 (f.1.toNat % cands.length)

/-- An arriving cell whose link checks hold. An intact IDLE cell of a relay slot goes on as any other (R280). -/
def State.received (s : State) (q : Nat) (bs : List Byte) (at_ stamp : Nat) : State :=
  let l := linkOf bs
  let x := s.leftSlot at_ stamp l
  let s := (s.exchange q l stamp).linkSeq q l.seq x.1 x.2
  let s := if l.flags / 64 % 2 = 1 then s.requested q l.nakSeq else s
  if !s.inService q then s
  else
    let e := s.rxEntry q x.1
    if entryKind e = 3 then
      let y := s.quay q
      s.setQuay q { y with relayed := Tab.put y.relayed x.1 bs }
    else if entryKind e = 2 ∧ fieldAt bs 0 1 ≠ 0 ∧ fieldAt bs 6 2 ≠ s.fab.chip then s.relayRepair q bs
    else s.checked q x.1 x.2 e bs fun s c => s.awaitCommit q c at_

/-- CELL_RECEIVE (R257): a cell arrives at a quay in service, at a tide count and fraction. -/
def execCellReceive (quay : Fin 48) (cell : List Byte) (arrivalNs : Nat) (arrivalFrac : W16) (s : State) : Host.Outcome State Fault Refusal :=
  let q := quay.val
  let at_ := arrivalNs * 1000 + arrivalFrac.toNat * 1000 / 65536
  let stamp := arrivalNs % 2 ^ 32 * 65536 + arrivalFrac.toNat
  if cell.length ≠ 320 then .fault .cellSize
  else .next (if !s.inService q then s else if linkOk cell then s.received q cell at_ stamp else s.checkFail q at_)

/-- A REDUCE cell commits (R306), with the checks of R285 but those of the window and the address. -/
def State.reduceCellCommit (s : State) (q : Nat) (cell : List Byte) : State :=
  if fieldAt cell 0 1 ≠ 0x0B then s
  else
    let x := s.leftSlot s.nowPs (stampOf s.nowPs) (linkOf cell)
    s.checked q x.1 x.2 (s.rxEntry q x.1) cell fun s c => s.commitCell q { cell := c, arrival := s.nowPs, due := none }

/-! ### Load responses (R264, R269) -/

/-- The data of a load entry has been read: its response is ready on RETURN_FLOW. -/
def State.loadReady (s : State) (id : Nat) : State :=
  match s.fab.loads.find? fun l => l.id == id with
  | none => s
  | some l =>
    if l.ready ≤ s.nowPs then
      let s : State := { s with fab := { s.fab with loads := s.fab.loads.filter fun x => x.id != id } }
      let s := s.sense l.src l.len
      let s := if l.src < 0x10000000000 then s.readLineAt (l.src / 256) 0 (s.flow l.flow).proxy else s
      let bad := s.badRanges l.src l.len
      let s := s.logBad (srcCore (s.flow l.flow).proxy) bad
      let flags := if s.poisonedRange l.src l.len then 1 else 0
      s.sendCell (s.flow l.flow).returnFlow 3 flags l.dst 0 (s.readBytes l.src l.len) s.nowPs
    else s

/-- LOAD_RESPONSE_READY (R264). -/
def execLoadResponseReady (id : Nat) (s : State) : Host.Outcome State Fault Refusal := .next (s.loadReady id)

end Sys2Proof.Machine
end

