-- ==== Sys2Proof/Machine/MainMemory.lean ====
section
/-! DEFINITION. Main memory over time (R225–R242): frames and refresh, slot uses, the scrubber, packages taken out of service. -/

namespace Sys2Proof.Machine

/-- The states in which main memory is trained and filled (R241). -/
def State.memUp (s : State) : Bool :=
  match s.dev.state with
  | .ready => true
  | .loaded => true
  | .running => true
  | .held => true
  | .draining => true
  | .recovery => true
  | _ => false

/-- The memory frame of now (R225). -/
def State.frameNow (s : State) : Nat := s.now / 160

/-- The plan frames from one scrub slot pair of a lane to the next (R238). -/
def State.scrubEvery (s : State) : Nat := s.dev.chart.dramScrub * 22 * 1000000000 / (2 ^ 27 * 160 * 24)

/-- An operation consumes poisoned data: what it writes is poisoned, and its strand faults at its visibility boundary (R217). -/
def State.poisonOp (s : State) (id : Nat) : State :=
  let one (o : InFlight) : InFlight :=
    if o.id = id then
      { o with effects := o.effects ++ poisonMarks true o.effects ++ [.fault o.strand o.pc 0x16] }
    else o
  { s with ops := s.ops.map one }

/-- The lines of a group that reads under way have still to read. -/
def State.readsUnderWay (s : State) (group : Nat) : List LineUse :=
  s.main.uses.filter fun u => !u.done && !u.write && (linePos u.line).group == group

/-- Reads under way read those lines with the new marking (R236). -/
def State.readMarked (s : State) (us : List LineUse) : State :=
  let one (s : State) (u : LineUse) : State :=
    let r := s.readLine u.line [] 0 u.core
    match r.1, u.op with
    | .failed, some id => r.2.poisonOp id
    | _, _ => r.2
  us.foldl one s

/-- A package is marked DEAD, or a MEM_ERASE entry is written, at a frame boundary (R234, R236). -/
def State.applyMark (s : State) (m : Nat × Nat × Nat) : State :=
  if m.1 = 0 then
    let us := s.readsUnderWay (m.2.1 / 9)
    let s : State := { s with main := { s.main with dead := Marks.insert s.main.dead m.2.1 } }
    (s.updatePkgState (if m.2.1 < 18 then .west else .east)).readMarked us
  else
    let h : Half := if m.2.1 = 0 then .west else .east
    let us := s.readsUnderWay (bitsOf m.2.2 21 16 / 9)
    match List.find? (fun i => !bitOf (s.eraseEntry h i) 31) (List.range 8) with
    | none => s
    | some i => ((s.setReg (.memErase h (Fin.ofNat 8 i)) (BitVec.ofNat 64 m.2.2)).updatePkgState h).readMarked us

/-- The packages of a group that marks still to take effect will erase. -/
def State.markedPackages (s : State) (group : Nat) : List Nat :=
  (s.main.marks.map fun m => if m.1 = 0 then m.2.1 else bitsOf m.2.2 21 16).filter fun p => p / 9 == group

/-- Takes a package out of service from the next frame: PACKAGE_LOST, and GROUP_LOST where another package of its group holds erasures or is about to
(R234, R235). Their records concern no line: LINE_ADDR, GROUP_LANE, BANK and ROW_COL name line 0 of lane 0 of the group (DESIGN CHOICE, log entry 81). -/
def State.losePackage (s : State) (package : Nat) (injected : Bool) : State :=
  let g := package / 9
  let other := (s.erasedPackages g ++ s.markedPackages g).any fun p => p != package
  let h : Half := if package < 18 then .west else .east
  let line := lineOf g 0 0
  let s : State := { s with main := { s.main with marks := s.main.marks ++ [(0, package, 0)] } }
  let ev (s : State) (bit kind : Nat) : State :=
    s.raise { causeAlarm 7 (.memCause h) bit (srcPackage package) (memItems line kind package [] 0 0xFF) with line := package, injected := injected }
  let s := ev s 4 0x06
  if other then ev s 5 0x07 else s

/-- One package's temperature as its MR4 read shows it; an armed 0x0019 makes it 86 °C (R240, R432). -/
def State.packageTemp (s : State) (package : Nat) (t : Int) : State :=
  let inj := s.armed 0x19 package
  let s := if inj then s.disarm 0x19 package else s
  let t := if inj then 86 else t
  let h : Half := if package < 18 then .west else .east
  let s := { s with main := { s.main with temps := Tab.put s.main.temps package t } }
  let s := if 80 < t then
      { s with main := { s.main with hot := listSet s.main.hot h.index true } }.slip (2 + h.index) (srcHalf h) [h.index] inj
    else s
  if 85 < t then s.raise { causeAlarm 7 (.memCause h) 8 (srcPackage package) [package, t.toNat] with line := package, injected := inj } else s

/-- A half is hot exactly while one of its packages is above 80 °C (R240). -/
def State.updateHot (s : State) : State :=
  let hot (h : Half) : Bool := (List.range 18).any fun i => decide (80 < Tab.get 0 s.main.temps (18 * h.index + i))
  { s with main := { s.main with hot := [hot .west, hot .east] } }

/-- MEMORY_FRAME: a frame begins; marks take effect, and the first refresh frame of a cycle reads the temperatures (R225, R226, R234, R240). -/
def State.memoryFrame (s : State) (temperatures : List Int) : State :=
  let f := s.frameNow
  let s := s.main.marks.foldl State.applyMark s
  let s : State := { s with main := { s.main with marks := [] } }
  if f % 24 = 22 then
    (((List.range 36).zip temperatures).foldl (fun s e => if s.halfOn (if e.1 < 18 then .west else .east) then s.packageTemp e.1 e.2 else s) s).updateHot
  else s

/-- A frame begins at every tide instant whose count is a multiple of 160 (R225). -/
def State.frameStart (s : State) : Bool := s.tide.running && decide (s.now % 160 = 0) && s.tide.frac == 0

def execMemoryFrame (temperatures : List Int) (s : State) : Host.Outcome State Fault Refusal :=
  .next (if s.memUp && s.frameStart then s.memoryFrame temperatures else s)

/-- The errors that a slot shows, as positions of its nine bursts. -/
def shownErrors (errors : List BurstError) : List (Nat × Nat × Byte) := errors.map fun e => (e.slot.val, e.pos.val, e.diff)

/-! ### Slots (R225, R227, R238) -/

/-- The key of a lane: 8 × group + lane. -/
def laneKey (line : Nat) : Nat := 8 * (linePos line).group + (linePos line).lane

/-- Whether a lane of a half serves a slot now: its memory is trained, the frame is no refresh frame, and the lane has not served this slot. -/
def State.laneServes (s : State) (h : Half) (lane : Nat) : Bool :=
  s.memUp && s.halfOn h && s.tide.running && !s.refreshing h s.frameNow && decide (Tab.get 0 s.main.lastSlot lane ≠ s.slotNow + 1)

/-- Whether the present slot is a scrub read slot of a half (R225, R238, R239): slot 92 of the plan frames that the loader reserves; with no plan loaded the
even plan slots of the same frames too, each with the odd one behind it for the write. -/
def State.scrubSlot (s : State) (h : Half) : Bool :=
  let k := s.slotNow % 96
  decide (planIndex (s.extraRefresh h) s.frameNow % max 1 s.scrubEvery = 0) && (decide (k = 92) || (s.plan.isNone && decide (k < 92) && decide (k % 2 = 0)))

/-- The start of the present slot. -/
def State.slotBegan (s : State) : Nat := slotStart (s.slotNow / 96) (s.slotNow % 96)

/-- Whether the present slot is the scrub write slot of a line that is to be written back (R239). -/
def State.backSlot (s : State) (line : Nat) : Bool := s.main.backs.contains (line, s.slotBegan)

/-- Whether the present slot is a service slot: 94 for a read, 95 for a write (R24, R225). -/
def State.serviceNow (s : State) (write : Bool) : Bool := decide (s.slotNow % 96 = if write then 95 else 94)

/-- The line that a lane's scrubber reads next: the oldest of the lane in its group's queue, or otherwise the next of its sweep (R239). -/
def State.scrubNext (s : State) (group lane : Nat) : Nat :=
  match List.find? (fun l => (linePos l).lane == lane) (Tab.get [] s.main.scrubQueue group) with
  | some line => line
  | none => lineOf group lane (Tab.get 0 s.main.sweep (8 * group + lane))

/-- Whether the present slot of a half is a plan slot of a core (R227). -/
def State.planSlot (s : State) (h : Half) (core : Nat) : Bool := (s.slotTable h).getD (s.slotNow % 96) none == some core

/-- Whether the present slot of a half may be used so for a line. -/
def State.slotFor (s : State) (use : SlotUse) (h : Half) (core line : Nat) : Bool :=
  match use with
  | .scrub => s.backSlot line || (s.scrubSlot h && s.scrubNext (linePos line).group (linePos line).lane == line)
  | .service => s.serviceNow false || s.serviceNow true
  | .read => s.planSlot h core
  | .write => s.planSlot h core
  | .partialWrite => s.planSlot h core
  | .writePoison => s.planSlot h core
  | .partialPoison => s.planSlot h core

/-- A lane serves the present slot. -/
def State.serveLane (s : State) (lane : Nat) : State :=
  { s with main := { s.main with lastSlot := Tab.put s.main.lastSlot lane (s.slotNow + 1) } }

/-- A scrub read slot: the line leaves the queue, or the sweep goes on; it is read, and the scrub write slot behind is to write it back, clean where it was
corrected or rebuilt, with the poison pattern where it was found uncorrectable; a line that reads as POISON stays as it is (R232, R239). -/
def State.scrubRead (s : State) (group lane : Nat) (shown : List (Nat × Nat × Byte)) : State :=
  let line := s.scrubNext group lane
  let key := 8 * group + lane
  let unqueue (s : State) : State :=
    { s with main := { s.main with scrubQueue := Tab.set [] s.main.scrubQueue group ((Tab.get [] s.main.scrubQueue group).filter fun l => l != line) } }
  let s := if (Tab.get [] s.main.scrubQueue group).contains line then unqueue s
    else { s with main := { s.main with sweep := Tab.set 0 s.main.sweep key ((Tab.get 0 s.main.sweep key + 1) % 2 ^ 27) } }
  let back (s : State) : State :=
    let s := unqueue s
    { s with main := { s.main with backs := s.main.backs ++ [(line, s.slotBegan + 5)] } }
  let r := s.readLine line shown 2 0xFF
  match r.1 with
  | .repaired => back r.2
  | .failed => back r.2
  | _ => r.2

/-- A scrub write slot: the line is written back. -/
def State.writeBack (s : State) (e : Nat × Nat) : State :=
  let s := s.writeLine e.1
  { s with main := { s.main with backs := s.main.backs.erase e } }

/-- The scrub write slots that begin before boundary `b`. -/
def State.writeBacks (s : State) (b : Nat) : State := (s.main.backs.filter fun e => decide (e.2 < 3 * b)).foldl State.writeBack s

/-- Stores the bytes that a slot writes into a line. -/
def State.lineBytes (s : State) (line : Nat) (data : List (Nat × Byte)) : State :=
  (data.filter fun d => decide (d.1 < 256)).foldl (fun s d => s.writeByte (line * 256 + d.1) d.2) s

/-- A plan slot that meets a write of a transfer that is not yet visible (R229). -/
def State.slotCollide (s : State) (core : Nat) (line : Nat) : State :=
  let h := (linePos line).half
  let s := match s.unfinished none line s.nowThirds with
    | [] => s
    | w :: _ => s.slotMeets h line core w.core false
  s.memCollide core h [line]

/-- A whole line is written: with the poison pattern where its data is poisoned, else clean (R233). -/
def State.slotWrite (s : State) (line : Nat) (data : List (Nat × Byte)) (poisoned : Bool) : State :=
  let s := (s.writeLine line).lineBytes line data
  { s with poison := if poisoned then Marks.insert s.poison (line * 256) else Marks.erase s.poison (line * 256) }

/-- One of the two slots of a partial write: the first reads the line, the second merges the data and writes it; poison of the line or of the data stays
(R233). -/
def State.slotMerge (s : State) (core line : Nat) (data : List (Nat × Byte)) (shown : List (Nat × Nat × Byte)) (poisoned : Bool) : State :=
  if s.main.merging.contains (core, line) then
    let s := (s.writeLine line).lineBytes line data
    let s := { s with main := { s.main with merging := s.main.merging.erase (core, line) } }
    if poisoned then { s with poison := Marks.insert s.poison (line * 256) } else s
  else
    let s := (s.readLine line shown 1 core).2
    { s with main := { s.main with merging := s.main.merging ++ [(core, line)] } }

/-- A plan slot reads a line: the transfer whose slot it is consumes what an uncorrectable line delivers (R217, R232). -/
def State.slotRead (s : State) (core line : Nat) (shown : List (Nat × Nat × Byte)) : State :=
  let r := s.readLine line shown 0 core
  let mine := s.main.uses.find? fun u => u.core == core && u.line == line && !u.write && u.slot == s.slotBegan
  match r.1, mine.bind fun u => u.op with
  | .failed, some id => r.2.poisonOp id
  | _, _ => r.2

/-- A service slot of a line: a read in slot 94; a write in slot 95, which merges into what slot 94 has read unless it is whole (R24, R225, R233). -/
def State.slotService (s : State) (line : Nat) (data : List (Nat × Byte)) (shown : List (Nat × Nat × Byte)) : State :=
  if s.serviceNow false then (s.readLine line shown 3 0xFF).2
  else
    let s := (s.writeLine line).lineBytes line data
    if 256 ≤ data.length then { s with poison := Marks.erase s.poison (line * 256) } else s

/-- MEMORY_SLOT: one use of a lane's slot (R225, R229, R232, R233); plan slots join the totals (R455). -/
def State.memorySlot (s : State) (use : SlotUse) (core line : Nat) (data : List (Nat × Byte)) (shown : List (Nat × Nat × Byte)) : State :=
  let s := s.serveLane (laneKey line)
  let plan : State := { s with totals := { s.totals with memSlots := s.totals.memSlots + 1 } }
  match use with
  | .read => (plan.slotCollide core line).slotRead core line shown
  | .service => s.slotService line data shown
  | .scrub => if s.backSlot line then s.writeBack (line, s.slotBegan) else s.scrubRead (linePos line).group (linePos line).lane shown
  | .write => (plan.slotCollide core line).slotWrite line data false
  | .writePoison => (plan.slotCollide core line).slotWrite line data true
  | .partialWrite => (plan.slotCollide core line).slotMerge core line data shown false
  | .partialPoison => (plan.slotCollide core line).slotMerge core line data shown true

def execMemorySlot (use : SlotUse) (core : Fin 128) (line : Nat) (data : List (Nat × Byte)) (errors : List BurstError) (s : State) :
    Host.Outcome State Fault Refusal :=
  let h := (linePos line).half
  .next (if s.laneServes h (laneKey line) && decide (line < 2 ^ 32) && s.slotFor use h core.val line then
      s.memorySlot use core.val line data (shownErrors errors)
    else s)

/-- Captures the frames of a half that a transfer's slots use (R445). -/
def State.traceFrames (s : State) (op : Nat) (h : Half) : State :=
  let us := s.main.uses.filter fun u => u.op == some op && (linePos u.line).half == h
  match us with
  | [] => s
  | u :: _ => s.trace 3 0 h.index [u.core, (us.map fun u => u.slot / 480).eraseDups.length]

/-- MEM_QUEUE_START: an operation begins to use its core's queues at its first eligible frame; its slot uses join the totals (R228, R455). -/
def execMemQueueStart (op : Nat) (s : State) : Host.Outcome State Fault Refusal :=
  .next (match List.find? (fun w => w.1 == op) s.main.waiting with
    | some w =>
      if w.2.1 ≤ s.frameNow then
        { s with main := { s.main with waiting := s.main.waiting.filter fun x => x.1 != op },
                 totals := { s.totals with memSlots := s.totals.memSlots + w.2.2 } } |>.traceFrames op .west |>.traceFrames op .east
      else s
    | none => s)

/-- DRAM_SCRUB: a scrub slot pair of a lane begins; its write slot follows by itself (R239). -/
def State.dramScrub (s : State) (group lane : Nat) (shown : List (Nat × Nat × Byte)) : State := s.scrubRead group lane shown

/-- Whether a lane has served a scrub slot in the present frame. -/
def State.scrubbed (s : State) (lane : Nat) : Bool :=
  let n := Tab.get 0 s.main.lastSlot lane
  decide (96 * s.frameNow + 92 < n ∧ n ≤ 96 * s.frameNow + 94)

def execDramScrub (group : Fin 4) (lane : Fin 8) (errors : List BurstError) (s : State) : Host.Outcome State Fault Refusal :=
  let h : Half := if group.val < 2 then .west else .east
  let key := 8 * group.val + lane.val
  .next (if s.laneServes h key && s.scrubSlot h && !s.scrubbed key then (s.serveLane key).dramScrub group.val lane.val (shownErrors errors) else s)

/-- PACKAGE_LOST: 256 bursts of a package were BAD within 1 ms (R234). -/
def execPackageLost (package : Fin 36) (s : State) : Host.Outcome State Fault Refusal :=
  let recent := (Tab.get [] s.main.badTimes package.val).filter fun t => decide (s.now < t + 1000000)
  let injected := s.main.badInj.any fun e => e.1 == package.val && decide (s.now < e.2 + 1000000)
  .next (if s.memUp && decide (256 ≤ recent.length) && !s.main.dead.contains package.val && !s.main.marks.contains (0, package.val, 0) then
    s.losePackage package.val injected else s)

end Sys2Proof.Machine
end

