-- ==== Sys2Proof/Machine/Scalar.lean ====
section
/-! DEFINITION. Classes S and C of SSI-2 (R147–R150): scalar arithmetic, LD and ST, branches, SPAWN, END, WAITT and TWAIT. -/

namespace Sys2Proof.Machine

/-- A scalar instruction: it reads xB and xC, writes xA and completes within its group (R139, R140). -/
def scalarOp (w : Word0) (reads : List Nat) (val : W64 → W64 → W64) (key : Nat) (s : State) : Issued :=
  let st := s.strand key
  if st.blocked reads || st.tagFull w.tagOf then s.waitHere key 0
  else s.goOn key ((st.setX w.a (val (st.x w.b) (st.x w.c))).past 1)

/-- The shift amount (xC + IMM) mod 64 (R147). -/
def shiftBy (w : Word0) (c : W64) : Nat := (c + w.zimm).toNat % 64

def fxNop (key : Nat) (s : State) : Issued := s.endGroup key ((s.strand key).past 1)
def fxAdd (w : Word0) : Nat → State → Issued := scalarOp w w.bc fun b c => b + c + w.simm
def fxSub (w : Word0) : Nat → State → Issued := scalarOp w w.bc fun b c => b - c + w.simm
def fxAnd (w : Word0) : Nat → State → Issued := scalarOp w w.bc fun b c => b &&& (c ||| w.zimm)
def fxOr (w : Word0) : Nat → State → Issued := scalarOp w w.bc fun b c => b ||| c ||| w.zimm
def fxXor (w : Word0) : Nat → State → Issued := scalarOp w w.bc fun b c => b ^^^ c ^^^ w.zimm
def fxShl (w : Word0) : Nat → State → Issued := scalarOp w w.bc fun b c => b <<< shiftBy w c
def fxShr (w : Word0) : Nat → State → Issued := scalarOp w w.bc fun b c => b >>> shiftBy w c
def fxSra (w : Word0) : Nat → State → Issued := scalarOp w w.bc fun b c => b.sshiftRight (shiftBy w c)
def fxMul (w : Word0) : Nat → State → Issued := scalarOp w w.bc fun b c => b * c
def fxMins (w : Word0) : Nat → State → Issued := scalarOp w w.bc fun b c => if b.slt c then b else c
def fxMaxs (w : Word0) : Nat → State → Issued := scalarOp w w.bc fun b c => if b.slt c then c else b
def fxSlt (w : Word0) : Nat → State → Issued := scalarOp w w.bc fun b c => if b.slt c then 1 else 0
def fxSltu (w : Word0) : Nat → State → Issued := scalarOp w w.bc fun b c => if b.ult c then 1 else 0
def fxLi (w : Word0) : Nat → State → Issued := scalarOp w [] fun _ _ => w.simm

/-- LI64: xA := word 1 (R147). -/
def fxLi64 (w : Word0) (w1 : W64) (key : Nat) (s : State) : Issued :=
  if (s.strand key).tagFull w.tagOf then s.holdHere key else s.goOn key (((s.strand key).setX w.a w1).past 2)

/-- The system values of R150; `none` for a reserved selector. -/
def State.sysValue (s : State) (key sel : Nat) : Option W64 :=
  match sel with
  | 0 => some (BitVec.ofNat 64 s.boundary)
  | 1 => some (BitVec.ofNat 64 (coreOf key))
  | 2 => some (BitVec.ofNat 64 (ctxOf key))
  | 3 => some (BitVec.ofNat 64 (2 * s.perHalf))
  | 4 => some (s.reg .stepNumber)
  | 5 => some (BitVec.ofNat 64 s.fab.chip)
  | _ => none

/-- SYSRD (R150). The loader refuses a reserved selector; at run time it faults with RESERVED_ENCODING (R146). -/
def fxSysrd (w : Word0) (key : Nat) (s : State) : Issued :=
  match s.sysValue key (w.f 3 0) with
  | some v => if (s.strand key).tagFull w.tagOf then s.holdHere key else s.goOn key (((s.strand key).setX w.a v).past 1)
  | none => s.faultIssue key 0x01

/-- LD: xA := 8 bytes of the core's own pad at xB + sext(IMM), 5 steps (R147). -/
def fxLd (w : Word0) (key : Nat) (s : State) : Issued :=
  let st := s.strand key
  if st.blocked [w.b] then s.waitHere key 0
  else
    let off := (st.x w.b + w.simm).toNat
    if 0x200000 < off + 8 then s.faultIssue key 0x03
    else if st.tagFull w.tagOf then s.waitHere key 0
    else
      let a := padBase (coreOf key) + off
      let s := s.sense a 8
      let v := BitVec.ofNat 64 (leNat (s.readBytes a 8))
      s.launchSimple key 0x11 1 5 .scalar .plain w.tagOf [w.a]
        (.reg key w.a v :: poisonFault (s.poisonedRange a 8) key st.pc.toNat) [(a, 8)]

/-- ST: 8 bytes of the core's own pad at xB + sext(IMM) := xC, 5 steps (R147). -/
def fxSt (w : Word0) (key : Nat) (s : State) : Issued :=
  let st := s.strand key
  if st.blocked w.bc then s.waitHere key 0
  else
    let off := (st.x w.b + w.simm).toNat
    if 0x200000 < off + 8 then s.faultIssue key 0x03
    else if st.tagFull w.tagOf then s.waitHere key 0
    else
      let a := padBase (coreOf key) + off
      s.launchSimple key 0x12 1 5 .scalar .localWrite w.tagOf [] [.mem a (leBytes 8 (st.x w.c).toNat)]

/-- Whether a code store word is the first word of an instruction of the plan (R136). -/
def State.codeMark (s : State) (core word : Nat) : Bool := Tab.get false s.marks (32768 * core + word)

/-- A branch: taken, it ends the group at its target, or faults with PC_RANGE; not taken, the group goes on (R136, R139). -/
def branchOp (w : Word0) (reads : List Nat) (cond : W64 → W64 → Bool) (key : Nat) (s : State) : Issued :=
  let st := s.strand key
  if st.blocked reads || st.tagFull w.tagOf then s.waitHere key 0
  else if cond (st.x w.b) (st.x w.c) then
    let t := w.f 14 0
    if s.codeMark (coreOf key) t then s.endGroup key { st.past 1 with pc := BitVec.ofNat 15 t } else s.faultIssue key 0x02
  else s.goOn key (st.past 1)

def fxJmp (w : Word0) : Nat → State → Issued := branchOp w [] fun _ _ => true
def fxBeqz (w : Word0) : Nat → State → Issued := branchOp w [w.b] fun b _ => b == 0
def fxBnez (w : Word0) : Nat → State → Issued := branchOp w [w.b] fun b _ => b != 0
def fxBlt (w : Word0) : Nat → State → Issued := branchOp w w.bc fun b c => b.slt c

/-- SPAWN: context xB of the core starts at IMM[14:0] with its x1 := xC, READY from the boundary 2 steps on (R137, R147, R155). Its other registers keep
what the context holds (log entry 33). -/
def fxSpawn (w : Word0) (key : Nat) (s : State) : Issued :=
  let st := s.strand key
  if st.blocked w.bc then s.waitHere key 0
  else
    let n := (st.x w.b).toNat
    let t := w.f 14 0
    if 2048 ≤ n then s.faultIssue key 0x01
    else if !s.codeMark (coreOf key) t then s.faultIssue key 0x02
    else
      let child := 2048 * coreOf key + n
      let c := s.strand child
      if c.status ≠ .free ∧ c.status ≠ .done then s.faultIssue key 0x0B
      else if st.tagFull w.tagOf then s.waitHere key 0
      else
        let vis := s.visibleAt s.boundary (s.stepsPs 2)
        let c' : Strand := { c.setX 1 (st.x w.c) with
                               status := .ready, pc := BitVec.ofNat 15 t, fault := 0, wait := none, notBefore := vis }
        let s := s.setStrand child c'
        s.launchSimple key 0x1C 1 2 .scalar .plain w.tagOf [] []

/-- END: the context becomes DONE (R137). -/
def fxEnd (w : Word0) (key : Nat) (s : State) : Issued :=
  if (s.strand key).tagFull w.tagOf then s.holdHere key else s.endGroup key { (s.strand key).past 1 with status := .done }

/-- A waiting instruction without a result: it completes at the first boundary at which its condition holds, and ends the group
(R143, R147). -/
def waitOp (w : Word0) (holds : Bool) (key : Nat) (s : State) : Issued :=
  if (s.strand key).tagFull w.tagOf then s.holdHere key
  else if holds then s.endGroup key ((s.strand key).past 1) else s.waitHere key w.sched

/-- A tide of the plan's schedule as the resumes of the run have moved it: one that a stop found still to come lies Δ later (R58, R59; log entry 75). -/
def State.movedTide (s : State) (t : Nat) : Nat := s.run.shifts.foldl (fun t r => if r.1 ≤ t ∧ t < r.1 + r.2 then t + r.2 else t) t

/-- The tide that a strand's WAITT waits for: xB + IMM[15:0] as the resumes have moved it. A wait under way keeps its own, which a resume has moved with it. -/
def State.waittTarget (s : State) (w : Word0) (st : Strand) : Nat :=
  match st.wait with
  | some x => if 0 < x.due then x.due else s.movedTide ((st.x w.b).toNat + w.f 15 0)
  | none => s.movedTide ((st.x w.b).toNat + w.f 15 0)

/-- WAITT: waits until the tide is at least xB + IMM[15:0] ns (R147). -/
def fxWaitt (w : Word0) (key : Nat) (s : State) : Issued :=
  let st := s.strand key
  let t := s.waittTarget w st
  if st.blocked [w.b] || st.tagFull w.tagOf then s.holdHere key
  else if t ≤ s.boundary then s.endGroup key (st.past 1) else s.waitUntil key w.sched (some t)

/-- TWAIT: waits until every tag of the mask IMM[15:0] is set (R141). -/
def fxTwait (w : Word0) (key : Nat) (s : State) : Issued :=
  let st := s.strand key
  waitOp w ((List.range 16).all fun t => !bitOf w.imm.toNat t || decide (st.tag t = 0)) key s

/-! ### The rows -/

def execNop (st : StrandRef) (_ : Word0) (s : State) : Host.Outcome State Fault Refusal := runRow st fxNop s
def execAdd (st : StrandRef) (w : Word0) (s : State) : Host.Outcome State Fault Refusal := runRow st (fxAdd w) s
def execSub (st : StrandRef) (w : Word0) (s : State) : Host.Outcome State Fault Refusal := runRow st (fxSub w) s
def execAnd (st : StrandRef) (w : Word0) (s : State) : Host.Outcome State Fault Refusal := runRow st (fxAnd w) s
def execOr (st : StrandRef) (w : Word0) (s : State) : Host.Outcome State Fault Refusal := runRow st (fxOr w) s
def execXor (st : StrandRef) (w : Word0) (s : State) : Host.Outcome State Fault Refusal := runRow st (fxXor w) s
def execShl (st : StrandRef) (w : Word0) (s : State) : Host.Outcome State Fault Refusal := runRow st (fxShl w) s
def execShr (st : StrandRef) (w : Word0) (s : State) : Host.Outcome State Fault Refusal := runRow st (fxShr w) s
def execSra (st : StrandRef) (w : Word0) (s : State) : Host.Outcome State Fault Refusal := runRow st (fxSra w) s
def execMul (st : StrandRef) (w : Word0) (s : State) : Host.Outcome State Fault Refusal := runRow st (fxMul w) s
def execMins (st : StrandRef) (w : Word0) (s : State) : Host.Outcome State Fault Refusal := runRow st (fxMins w) s
def execMaxs (st : StrandRef) (w : Word0) (s : State) : Host.Outcome State Fault Refusal := runRow st (fxMaxs w) s
def execSlt (st : StrandRef) (w : Word0) (s : State) : Host.Outcome State Fault Refusal := runRow st (fxSlt w) s
def execSltu (st : StrandRef) (w : Word0) (s : State) : Host.Outcome State Fault Refusal := runRow st (fxSltu w) s
def execLi (st : StrandRef) (w : Word0) (s : State) : Host.Outcome State Fault Refusal := runRow st (fxLi w) s
def execLi64 (st : StrandRef) (w : Word0) (w1 : W64) (s : State) : Host.Outcome State Fault Refusal := runRow st (fxLi64 w w1) s
def execSysrd (st : StrandRef) (w : Word0) (s : State) : Host.Outcome State Fault Refusal := runRow st (fxSysrd w) s
def execLd (st : StrandRef) (w : Word0) (s : State) : Host.Outcome State Fault Refusal := runRow st (fxLd w) s
def execSt (st : StrandRef) (w : Word0) (s : State) : Host.Outcome State Fault Refusal := runRow st (fxSt w) s
def execJmp (st : StrandRef) (w : Word0) (s : State) : Host.Outcome State Fault Refusal := runRow st (fxJmp w) s
def execBeqz (st : StrandRef) (w : Word0) (s : State) : Host.Outcome State Fault Refusal := runRow st (fxBeqz w) s
def execBnez (st : StrandRef) (w : Word0) (s : State) : Host.Outcome State Fault Refusal := runRow st (fxBnez w) s
def execBlt (st : StrandRef) (w : Word0) (s : State) : Host.Outcome State Fault Refusal := runRow st (fxBlt w) s
def execSpawn (st : StrandRef) (w : Word0) (s : State) : Host.Outcome State Fault Refusal := runRow st (fxSpawn w) s
def execWaitt (st : StrandRef) (w : Word0) (s : State) : Host.Outcome State Fault Refusal := runRow st (fxWaitt w) s
def execTwait (st : StrandRef) (w : Word0) (s : State) : Host.Outcome State Fault Refusal := runRow st (fxTwait w) s

end Sys2Proof.Machine
end

