-- ==== Sys2Proof/Machine/Sketch.lean ====
section
/-! DEFINITION. The sketch of gated layers (R123–R130, R133) and the norm unit (R336). -/

namespace Sys2Proof.Machine

/-! ### Scores and lists -/

/-- The sketch layer descriptor as SKETCH reads it (R123). -/
structure SketchDescr where
  high   : Val
  low    : Val
  blocks : Nat
  rank   : Nat
  shift  : Nat
  main   : Nat
  repair : Nat
  audit  : Nat
  tensor : Nat
  deriving DecidableEq, Repr

/-- The descriptor at a pad address. -/
def State.sketchDescr (s : State) (core at_ : Nat) : SketchDescr :=
  let g := s.descrField core at_
  { high := Val.ofF32 (BitVec.ofNat 32 (g 0x00 4)), low := Val.ofF32 (BitVec.ofNat 32 (g 0x04 4)), blocks := g 0x0C 2, rank := g 0x0E 1,
    shift := g 0x0F 1, main := g 0x10 2, repair := g 0x12 2, audit := g 0x14 2, tensor := g 0x1C 4 }

/-- The value s of row `i` and column `j` (R125). -/
def Work.sketchScore (w : Work) (p q bias : View) (rank i j : Nat) : Val × Work :=
  let b := w.value bias [(j : Int), 0, 0, 0, 0, 0]
  let term (acc : Val × Work) (t : Nat) : Val × Work :=
    let x := acc.2.value p [(t : Int), (i : Int), 0, 0, 0, 0]
    let y := x.2.value q [(j : Int), (t : Int), 0, 0, 0, 0]
    (fp32 (acc.1.add (x.1.mul y.1)), y.2)
  (List.range rank).foldl term (fp32 b.1, b.2)

/-- The score of block `b`: the largest s over its columns within the layer's width and the active rows; a NaN where any is (R125). -/
def Work.sketchBlock (w : Work) (p q bias : View) (rank m width b : Nat) : Val × Work :=
  let cols := (List.range 32).filterMap fun x => if 32 * b + x < width then some (32 * b + x) else none
  let at_ := cols.flatMap fun j => (List.range m).map fun i => (i, j)
  at_.foldl (fun (acc : Val × Work) (c : Nat × Nat) =>
    let x := acc.2.sketchScore p q bias rank c.1 c.2
    (acc.1.maximum x.1, x.2)) (.inf true, w)

/-- The class of a score: 2 ACTIVE, 1 DOUBT, 0 SKIP (R123, R125). -/
def SketchDescr.classOf (d : SketchDescr) (v : Val) : Nat := if v.isNan || !v.lt d.high then 2 else if v.lt d.low then 0 else 1

/-- The order of a priority sequence: decreasing score, a NaN score first, equal scores by block index (R126; log entry 23). -/
def scoreFirst (a b : Nat × Val) : Bool := if a.2.isNan then true else if b.2.isNan then false else !a.2.lt b.2

/-- What SKETCH decides (R126–R128): classes, the three lists, spilled blocks of each class, NaN scores. -/
structure SketchOut where
  classes : List Nat
  main    : List Nat
  repair  : List Nat
  audit   : List Nat
  spillA  : Nat
  spillD  : Nat
  skips   : Nat
  nans    : Nat
  deriving DecidableEq, Repr

/-- Sorts block numbers. -/
def sortNat (l : List Nat) : List Nat := sortBy (fun a b => decide (a ≤ b)) l

/-- The lists of a row tile from its blocks' scores (R126, R127). -/
def sketchLists (d : SketchDescr) (seed : W64) (step tile : Nat) (scores : List Val) : SketchOut :=
  let all := (List.range d.blocks).zip scores
  let classes := scores.map d.classOf
  let of (k : Nat) : List (Nat × Val) := all.filter fun e => d.classOf e.2 == k
  let seq := sortBy scoreFirst (of 2) ++ sortBy scoreFirst (of 1)
  let blocks := seq.map fun e => e.1
  let spilled := blocks.drop (d.main + d.repair)
  let out := (of 0).map (fun e => e.1) ++ spilled
  let n := ceilDiv out.length (2 ^ d.shift)
  let keys := out.map fun b => (b, (rngWord seed 0xFFFFFFFE d.tensor (tile * 65536 + b) step).toNat)
  let ranked := sortBy (fun (a b : Nat × Nat) => decide (a.2 < b.2 ∨ (a.2 = b.2 ∧ a.1 ≤ b.1))) keys
  let act := spilled.filter fun b => classes.getD b 0 == 2
  { classes := classes, main := sortNat (blocks.take d.main), repair := sortNat ((blocks.drop d.main).take d.repair),
    audit := sortNat ((ranked.take n).map fun e => e.1), spillA := act.length, spillD := spilled.length - act.length, skips := out.length,
    nans := (scores.filter Val.isNan).length }

/-- A list of 16-bit entries, unused ones 0xFFFF (R128). -/
def listBytes (n : Nat) (l : List Nat) : List Byte :=
  (List.range n).flatMap fun i => leBytes 2 (l.getD i 0xFFFF)

/-- Packs 2-bit classes into bytes, padded to 32 bytes (R128). -/
def classBytes (classes : List Nat) : List Byte :=
  let n := ceilDiv classes.length 4
  let byte (i : Nat) : Byte := BitVec.ofNat 8 (classes.getD (4 * i) 0 + 4 * classes.getD (4 * i + 1) 0 + 16 * classes.getD (4 * i + 2) 0 +
    64 * classes.getD (4 * i + 3) 0)
  (List.range n).map byte ++ List.replicate (ceilDiv n 32 * 32 - n) 0

/-- The gate record (R128). -/
def gateRecord (d : SketchDescr) (o : SketchOut) : List Byte :=
  let count (k : Nat) : Nat := (o.classes.filter fun c => c == k).length
  ([count 2, count 1, count 0, o.main.length, o.repair.length, o.audit.length, o.spillA, o.spillD, o.nans].flatMap fun n => leBytes 2 n) ++
    List.replicate 14 0 ++ classBytes o.classes ++ listBytes d.main o.main ++ listBytes d.repair o.repair ++ listBytes d.audit o.audit

/-- The stencil entry of output tile column `c` (R129): its OFFSET and group axis stay. -/
def sketchEntry (e : Nat) (listed : List Nat) (c : Nat) : Nat :=
  let present := (List.range 16).foldl (fun a i => if listed.contains (4 * c + i % 4) then a + 2 ^ (96 + i) else a) 0
  e % 2 ^ 48 + (if stencilInner e then 2 ^ 90 else 0) + 2 ^ 91 + present

/-! ### SKETCH -/

/-- The work of a SKETCH and what it decides. -/
def Work.sketch (w : Work) (p q bias : View) (out : Option View) (d : SketchDescr) (m tile : Nat) : SketchOut × Work :=
  let width := match out with
    | some v => v.extent 0
    | none => q.extent 0
  let r := (List.range d.blocks).foldl (fun (acc : List Val × Work) b =>
    let x := acc.2.sketchBlock p q bias d.rank m width b
    (acc.1 ++ [x.1], x.2)) ([], w)
  let o := sketchLists d (w.s.reg .rngSeed) w.s.stepLow tile r.1
  let listed := o.main ++ o.repair ++ o.audit
  match out with
  | none => (o, r.2)
  | some v =>
    if !v.man.stencilled then (o, r.2)
    else
      let t0 := ceilDiv (max 1 (v.extent 0)) 128
      let entry (w : Work) (c : Nat) : Work :=
        let t := tileIndex v.stored (v.loc (tileOrigin v.ext (tile * t0 + c)))
        let e := w.getMany (v.stencilAddr t) 16
        e.2.2.putMany (v.stencilAddr t) (sketchEntry e.1 listed c) (2 ^ 128 - 1) false 16
      (o, (List.range (min t0 (ceilDiv d.blocks 4))).foldl entry r.2)

/-- The effects of a SKETCH beside its stencil entries: the gate record, its counters and causes (R123, R125, R126, R128). -/
def sketchEffects (core descr gate : Nat) (d : SketchDescr) (o : SketchOut) (layer : List Nat) : List Effect :=
  let c : Fin 128 := Fin.ofNat 128 core
  let counter (off n : Nat) : List Effect := if n = 0 then [] else [.padCount (padBase core + descr + off) n]
  let cause (bit n : Nat) : List Effect := if n = 0 then [] else [.event (causeEvent 2 (.sparseCause c) bit (srcCore core) (layer ++ [n]))]
  [.mem (padBase core + gate) (gateRecord d o), .gate (65536 * core + gate / 32) descr] ++ counter 0x28 o.skips ++
    counter 0x2C (o.spillA + o.spillD) ++ counter 0x30 o.nans ++ cause 5 (o.spillA + o.spillD) ++ cause 6 o.nans

/-- Whether the chip holds every tile that a SKETCH reads, and the stencilled tiles whose entries it writes (R189). -/
def sketchHeld (p q b : View) (out : Option View) (blocks tile : Nat) : Bool :=
  let n := ceilDiv blocks 4
  let wide := match out with
    | some v => ceilDiv (max 1 (v.extent 0)) 128
    | none => 1
  p.tilesHeld 0 1 true && q.tilesHeld 0 n true && b.tilesHeld 0 n true && (match out with
    | some v => v.tilesHeld (tile * wide) (min wide n) false
    | none => true)

/-- SKETCH (R125–R130, R152). The descriptor passes the decoder, and poison of it poisons the gate record (R216, R217). -/
def fxSketch (w : Word0) (w1 w2 : W64) (key : Nat) (s : State) : Issued :=
  let st := s.strand key
  let core := coreOf key
  let m := w.f 28 21
  let descr := (st.x w.a).toNat
  let gate := (st.x w.d).toNat
  if st.blocked [w.a, w.b, w.c, w.d] then s.waitHere key 0
  else if m = 0 then s.noopIssue key 3
  else if 128 < m ∨ gate % 32 ≠ 0 then s.faultIssue key 0x01
  else if 0x200000 < descr + 64 then s.faultIssue key 0x06
  else
    let y := s.sense (padBase core + descr) 64
    let d := y.sketchDescr core descr
    let out : Except Nat (Option View) := if w.c = 0 then .ok none else (s.operand core (st.x w.c) .writes).map some
    match s.operandNo core (fieldOf w1 63 40) .reads, s.operandNo core (fieldOf w1 39 16) .reads, s.operandNo core (fieldOf w2 63 40) .reads,
      out with
    | .error c, _, _, _ => s.faultOp key c 0 [fieldOf w1 63 40]
    | _, .error c, _, _ => s.faultOp key c 0 [fieldOf w1 39 16]
    | _, _, .error c, _ => s.faultOp key c 0 [fieldOf w2 63 40]
    | _, _, _, .error c => s.faultOp key c 0 [(st.x w.c).toNat]
    | .ok p, .ok q, .ok b, .ok o =>
      if 0x200000 < gate + 0x20 + ceilDiv (ceilDiv d.blocks 4) 32 * 32 + 2 * (d.main + d.repair + d.audit) then s.faultIssue key 0x06
      else if p.man.empty || q.man.empty || b.man.empty then s.noopIssue key 3
      else if !sketchHeld p q b o d.blocks (st.x w.b).toNat then s.faultOp key 0x13 0 [fieldOf w1 63 40]
      else if st.tagFull w.tagOf || decide (s.outstanding core .sketch ≠ 0) then s.waitHere key 0
      else
        let tile := (st.x w.b).toNat
        let x := y.runWork core fun k => (k.sketch p q b o d m tile).2
        let bad := y.poisonedRange (padBase core + descr) 64
        let r := ((Work.start (x.1.readBase core x.2) core).sketch p q b o d m tile).1
        let out := sketchEffects core descr gate d r [descr, tile]
        let vis := x.1.visibleAt x.1.boundary (x.1.stepsPs (12 + ceilDiv (d.blocks * d.rank) 4))
        if x.2.sumBad then s.faultIssue key 0x15
        else
          x.1.launch key
            { opcode := 0x2C, words := 3, engine := .sketch, kind := .localWrite, tag := w.tagOf, regs := [], start := x.1.boundary, vis := vis,
              later := none, effects := x.2.effects key st.pc.toNat true ++ out ++ poisonMarks (bad || x.2.poisoned) (out.take 1) ++
                poisonFault (bad && (x.2.faultOf true).isNone) key st.pc.toNat, remote := .none,
              reads := (padBase core + descr, 64) :: x.2.readSpans }

def execSketch (st : StrandRef) (w : Word0) (w1 w2 : W64) (s : State) : Host.Outcome State Fault Refusal := runRow st (fxSketch w w1 w2) s

/-! ### SKETCH_COUNTER_READ -/

/-- The service slot of a gated layer: its counters are read and zeroed, and join the present step's (R123, R133). -/
def State.sketchCounters (s : State) (i : Nat) (l : SketchLayer) : State :=
  let at_ := padBase l.core + l.descr
  let s := (s.bookAt .service s.nowPs [(at_ + 0x20, 20)] [(at_ + 0x20, 20)]).sense (at_ + 0x20) 20
  let g (off : Nat) : Nat := s.sketchField l off 4
  let r := s.sketchRun i
  let r' : SketchRun := { r with pendAud := r.pendAud + g 0x20, pendMis := r.pendMis + g 0x24, pendSki := r.pendSki + g 0x28 }
  (s.setSketchRun i r').rewrite (at_ + 0x20) (List.replicate 20 0)

/-- SKETCH_COUNTER_READ of a layer of the loaded plan; other numbers name no layer. -/
def execSketchCounterRead (layer : Nat) (s : State) : Host.Outcome State Fault Refusal :=
  .next (match List.find? (fun e => e.1 == layer) s.sketchLayers with
    | some e => if s.dev.state == .running then s.sketchCounters e.1 e.2 else s
    | none => s)

/-! ### Norm parts (R336) -/

/-- A norm group before its first part of a step. -/
def NormRun.fresh : NormRun := { w2 := 0, g2 := 0, d2 := 0, next := 0, dropped := false }

/-- Stores a norm group. -/
def State.setNorm (s : State) (group : Nat) (r : NormRun) : State := { s with com := { s.com with norms := Tab.put s.com.norms group r } }

/-- The FP64 sum of two FP64 words, rounded once. -/
def addF64 (a b : W64) : W64 := f64 ((Val.ofF64 a).add (Val.ofF64 b))

/-- Adds the parts of a group that wait in part order, at most `fuel` of them. -/
def State.normDrain (s : State) (group : Nat) : Nat → State
  | 0 => s
  | fuel + 1 =>
    let r := (Tab.find? s.com.norms group).getD NormRun.fresh
    match List.find? (fun (x : NormWait) => x.group == group && x.part == r.next) s.com.waiting with
    | none => s
    | some x =>
      let r' : NormRun := { r with w2 := addF64 r.w2 x.w2, g2 := addF64 r.g2 x.g2, d2 := addF64 r.d2 x.d2, next := r.next + 1 }
      let s := { s with com := { s.com with waiting := s.com.waiting.filter fun y => !(y.group == group && y.part == r.next) } }
      State.normDrain (s.setNorm group r') group fuel

/-- A norm part becomes visible: it is added when its predecessors have been, and else waits in the norm store; a full store drops it. -/
def State.normPart (s : State) (group part : Nat) (w2 g2 d2 : W64) : State :=
  let r := (Tab.find? s.com.norms group).getD NormRun.fresh
  let s := s.setNorm group r
  let wait : NormWait := { group := group, part := part, w2 := w2, g2 := g2, d2 := d2 }
  if part = r.next then ({ s with com := { s.com with waiting := wait :: s.com.waiting } }).normDrain group 65
  else if s.com.waiting.length < 1024 then { s with com := { s.com with waiting := s.com.waiting ++ [wait] } }
  else
    (s.setNorm group { r with dropped := true }).raise (causeAlarm 11 .commitCause 6 srcHm [group, part])

/-- NORM_PART_ADD: a part that has become visible (R336). -/
def execNormPartAdd (group : Fin 4096) (part : Fin 64) (w2 g2 d2 : W64) (s : State) : Host.Outcome State Fault Refusal :=
  .next (if s.dev.state == .running then s.normPart group.val part.val w2 g2 d2 else s)

end Sys2Proof.Machine
end

