-- ==== Sys2Proof/Machine/Boundary.lean ====
section
/-! DEFINITION. The stroke boundary (R33–R37, R47, R138–R143): results becoming visible, operations that start behind others, locks and
signals, the slack of the halves, and the issue groups of the strands; late waits and the end of a stop (R55, R56). -/

namespace Sys2Proof.Machine

/-! ### What an operation does at its visibility boundary (R35) -/

/-- Adds to a 32-bit little-endian counter in a core's pad, saturating at all-ones (R123): it is read through the decoder and merged into its row (R199,
R216). -/
def State.padCount (s : State) (a n : Nat) : State :=
  let s := s.sense a 4
  s.rewrite a (leBytes 4 (min 0xFFFFFFFF (leNat (s.bytes a 4) + n)))

/-- A strand faults at the visibility boundary of one of its operations (R153). A context already FAULTED keeps its first cause. -/
def State.faultVisible (s : State) (key pc code : Nat) : State :=
  if (s.strand key).status = .faulted then
    let s := s.raise (causeEvent 3 (.seqCause (coreFin key)) 0 (srcCore (coreOf key)) [ctxOf key, pc, code, s.now])
    if code = 0x16 then (s.setFld .stepFlags 1 1 0).det 4 else s
  else s.strandFault key pc code []

/-- The check of a VFIN becomes visible: a NaN or infinity clears LOCAL_FINITE, and a VFIN after the chip's vote faults its strand
(R320, R323, R340). -/
def State.finiteVisible (s : State) (key pc : Nat) (bad : Bool) : State :=
  let s := if bad then s.setFld .stepFlags 0 0 0 else s
  if s.fld .stepFlags 2 2 = 1 then
    (s.raise (causeEvent 11 .commitCause 4 (srcCore (coreOf key)) [ctxOf key, pc])).faultVisible key pc 0x1B
  else s

/-- Adds to a telemetry total (R455). -/
def State.telemetryAdd (s : State) (which n : Nat) : State :=
  let t := s.totals
  { s with totals :=
    match which with
    | 0 => { t with easelSteps := t.easelSteps + n }
    | 1 => { t with sectors := t.sectors + n }
    | 2 => { t with memSlots := t.memSlots + n }
    | 3 => { t with cellsSent := t.cellsSent + n }
    | 4 => { t with resent := t.resent + n }
    | _ => { t with corrected := t.corrected + n } }

/-- ST and the core DMA leave the counts of a berth whose descriptor or ring they write open (R156). -/
def State.spoiled (o : InFlight) (a n : Nat) (s : State) : State :=
  if o.engine = .scalar ∨ o.engine = .dma then
    match s.region a with
    | .pad c => s.spoilBerths c a n
    | _ => s
  else s

/-- One effect of a visible operation. -/
def State.applyEffect (o : InFlight) (s : State) (e : Effect) : State :=
  match e with
  | .mem a bs => (s.memWriteFrom 1 o.core a bs).spoiled o a bs.length
  | .memBits a _ _ => (s.storeEffect o.core e).spoiled o a 1
  | .poison _ _ => s.storeEffect o.core e
  | .acc k vs =>
    let t := s.storeWords (accStore + 4 * k) (4 * vs.length)
    { t with acc := Tab.setMany 0 t.acc k vs }
  | .feed k bs => (s.storeWords (feedStore + k) bs.length).feedWrite k bs
  | .reg key r v => s.setStrand key ((s.strand key).setX r v)
  | .signal k v => s.addSignal k v
  | .berthEntry _ a v => s.memWriteFrom 1 o.core a (leBytes 8 v.toNat)
  | .event ev => s.raise ev
  | .count off hi lo n => s.countAt off hi lo n
  | .wrapCount off n => s.setRegAt off (s.regAt off + BitVec.ofNat 64 n)
  | .padCount a n => s.padCount a n
  | .gate k d => { s with com := { s.com with gates := Tab.put s.com.gates k d } }
  | .fault key pc code => s.faultVisible key pc code
  | .det bit => s.det bit
  | .sum core slice tile vs => s.sumArrive core slice tile vs
  | .finite key pc bad => s.finiteVisible key pc bad
  | .setReg off v => s.setRegAt off v
  | .field off hi lo x => s.setRegAt off (withField (s.regAt off) hi lo x)
  | .poisonVote => s.setFld .stepFlags 1 1 0
  | .normPart g p w2 g2 d2 => s.normPart g p w2 g2 d2
  | .staged ch tile => s.stageTile ch tile
  | .rootCell ch cell => s.rootCell ch cell
  | .telemetry which n => s.telemetryAdd which n
  | .disarm id scope => s.disarm id scope
  | .stepTag a => (s.memWriteFrom 1 o.core a (leBytes 8 (s.reg .stepNumber).toNat)).spoiled o a 8
  | .atomic key r a op x cmp =>
    let s := s.logBad (srcCore o.core) (s.badRanges a 8)
    let y := s.atomic o.core o.core a op x cmp
    let t := y.2.setStrand key ((y.2.strand key).setX r y.1)
    if y.2.poisonedRange a 8 then t.faultVisible key o.pc 0x16 else t

/-- Whether what an operation waits for on the fabric has come (R273). -/
def State.remoteDone (s : State) : RemoteWait → Bool
  | .none => true
  | .ack flow seq => seqLe seq (s.flow flow).acked
  | .loads as => as.isEmpty
  | .atomic _ => false

/-- Whether an operation may become visible at boundary `b`. -/
def State.opReady (s : State) (b : Nat) (o : InFlight) : Bool := decide (o.vis ≤ b) && (o.later.isNone && s.remoteDone o.remote)

/-- The strand of a visible operation: its tag counts down, and a destination register that no other outstanding operation will write
is pending no more (R140, R141). -/
def State.releaseStrand (s : State) (o : InFlight) : State :=
  let st := s.strand o.strand
  let busy (r : Nat) : Bool := s.ops.any fun p => p.strand == o.strand && p.regs.contains r
  let st := match o.tag with
    | some t => { st with tags := Tab.set 0 st.tags t (st.tag t - 1) }
    | none => st
  s.setStrand o.strand ((o.regs.filter fun r => !busy r).foldl Strand.clearPending st)

/-- An operation becomes visible at the present boundary. -/
def State.release (s : State) (o : InFlight) : State :=
  let s : State := { s with ops := s.ops.filter fun p => p.id != o.id }
  let s := s.releaseStrand o
  let s := (s.finalEffects o).foldl (fun s e => s.applyEffect o e) s
  (s.traceCore 1 0 o.core [ctxOf o.strand, o.tag.getD 0xFF, s.boundary]).traceMove 1 o.core o.moves

/-- The engines whose operations use the on-die network, the gallery or the fabric (R169; log entry 26). -/
def Engine.roams : Engine → Bool
  | .dma => true
  | .fabric => true
  | .varnish => true
  | .palette => true
  | .sketch => true
  | .vector => true
  | _ => false

/-- An operation whose handshakes are not complete at its visibility boundary (R37, R169): it is looked at again at the next boundary, and what it holds stays
held until then (R34, R83).
A class F operation that waits for its peer is not late; in RELAXED the network, the gallery and the fabric may defer without a slip. An injected late result
slips whatever the operation (0x0017 of R432). -/
def State.lateOp (s : State) (b : Nat) (o : InFlight) (injected : Bool) : State :=
  let next : InFlight := { o with vis := b + s.period, late := false }
  let queued (p : InFlight) : InFlight :=
    if p.engine = .vector ∧ p.later.isSome ∧ o.engine = .vector ∧ p.core = o.core then { p with start := p.start + s.period, vis := p.vis + s.period } else p
  let s : State := { s with ops := s.ops.map fun p => if p.id = o.id then next else queued p }
  let behind := s.ops.foldl (fun m p => if p.engine = .vector ∧ p.core = o.core then max m p.vis else m) 0
  let held (u : HeldUnit) : Nat := match u with
    | .vector _ => max (b + s.period) behind
    | _ => b + s.period
  let s := o.holds.foldl (fun s u => State.holdUnit (held u) s u) (s.moveUses o.id (b + s.period))
  if !injected ∧ (o.remote ≠ .none ∨ (!s.strict ∧ o.engine.roams)) then
    if s.strict then s else s.det 0
  else
    let h := s.coreHalf o.core
    (s.slip 7 (srcHalf h) [h.index] injected).det 1

/-- An operation at boundary `b`: it becomes visible when it is ready and complete. -/
def State.visibleOp (s : State) (b : Nat) (late : Bool) (o : InFlight) : State :=
  if s.opReady b o then
    if o.late ∨ late ∨ s.deferredOp o.id then s.lateOp b o o.late else s.release o
  else s

/-! ### Operations that start behind others (R34, R83) -/

/-- A waiting operation as a start now finds it. A VST whose rating needs a share that the core does not have was refused at its issue. -/
def State.startOp (s : State) (o : InFlight) : LateStart → Started
  | .eop p => s.eopStart o.strand o.pc p
  | .acc write easel bank addr => s.accStart o.strand o.pc write easel bank addr
  | .vst p =>
    let idle : Started := { s := s, ps := 0, effects := [], reads := [], feeds := [] }
    match s.vstViews o.core p with
    | .error _ => idle
    | .ok (d, f) => (s.vstStart o.id o.strand o.pc 0x24 2 o.tag p d f).2.getD idle
  | .vector opcode a =>
    let x := s.vectorEffects o.strand o.pc opcode a
    { s := x.1, ps := 1000 * (o.vis - o.start), effects := x.2.1, reads := x.2.2.readSpans, feeds := [] }

/-- Whether a waiting operation may start at boundary `b`: an operation of the vector unit at its own start; another when its units are free, a VST behind
those issued before it (R34, R83, R100). -/
def State.mayStart (s : State) (b : Nat) (o : InFlight) : LateStart → Bool
  | .vector _ _ => decide (o.start ≤ b)
  | .vst _ => s.unitsFree o.holds && !s.vstAhead o.core o.id
  | _ => s.unitsFree o.holds

/-- A waiting operation whose turn has come samples its inputs and starts. -/
def State.lateStart (s : State) (b : Nat) (o : InFlight) : State :=
  match o.later with
  | some l =>
    if s.mayStart b o l then
      let x := s.startOp o l
      let vis := x.s.visibleAt b x.ps
      let s := (x.s.holdUnits o.holds vis).book o.id o.core (ctxOf o.strand) o.engine b x.ps x.reads x.feeds x.effects
      let began (p : InFlight) : InFlight :=
        { p with later := none, start := b, vis := vis, effects := x.effects, eop := x.eop, from_ := s.readFrom o.id (s.strand o.strand) (some l) }
      { s with ops := s.ops.map fun p => if p.id = o.id then began p else p }
    else s
  | none => s

/-! ### Slack (R47, R48) -/

/-- The slack of a replica delay in per-mille of the rated step (R47), rounded down to a whole per-mille (DESIGN CHOICE, log entry 39: R47 states no
rounding). -/
def State.slackOf (s : State) (delayPs : Nat) : Int := 1000 * ((s.stepPs : Int) - delayPs) / s.stepPs

/-- The least of a list. -/
def leastOf : List Int → Option Int
  | [] => none
  | x :: xs => some (xs.foldl min x)

/-- One stroke of a half's slack (R47, R48): a filtered slack below the floor slips at once. -/
def State.slackStroke (s : State) (h : Half) (delays : List Nat) : State :=
  match leastOf (delays.map s.slackOf) with
  | none => s
  | some x =>
    let g := s.gov h
    let hist := (x :: g.history).take 16
    let inj := s.armed 0x12 h.index
    let f0 := (leastOf hist).getD x
    let f := if inj then min f0 ((s.dev.chart.slackFloor : Int) - 1) else f0
    let s := if inj then s.disarm 0x12 h.index else s
    let low := decide (f < (s.dev.chart.slackFloor : Int))
    let g' : Governor :=
      { g with slackNow := f, history := hist, strokes := g.strokes + 1, action := if low then 3 else g.action,
               periodMin := some (match g.periodMin with
                 | some m => min m x
                 | none => x),
               atVmaxAll := decide (g.vcore = s.vmax) && (decide (g.strokes = 0) || g.atVmaxAll) }
    let s := s.setGov h g'
    if low then s.slip h.index (srcHalf h) [h.index] inj else s

/-- The slack of an enabled half. -/
def State.slackHalf (s : State) (h : Half) (delays : List Nat) : State := if s.halfOn h then s.slackStroke h delays else s

/-! ### Issue (R136, R138–R140) -/

/-- What issuing an instruction does; `none` for a command that is no instruction. -/
def issueOf : Instr → Option (Nat → State → Issued)
  | .nop _ _ => some fxNop
  | .add _ w => some (fxAdd w)
  | .sub _ w => some (fxSub w)
  | .and _ w => some (fxAnd w)
  | .or _ w => some (fxOr w)
  | .xor _ w => some (fxXor w)
  | .shl _ w => some (fxShl w)
  | .shr _ w => some (fxShr w)
  | .sra _ w => some (fxSra w)
  | .mul _ w => some (fxMul w)
  | .mins _ w => some (fxMins w)
  | .maxs _ w => some (fxMaxs w)
  | .slt _ w => some (fxSlt w)
  | .sltu _ w => some (fxSltu w)
  | .li _ w => some (fxLi w)
  | .li64 _ w w1 => some (fxLi64 w w1)
  | .sysrd _ w => some (fxSysrd w)
  | .ld _ w => some (fxLd w)
  | .st _ w => some (fxSt w)
  | .jmp _ w => some (fxJmp w)
  | .beqz _ w => some (fxBeqz w)
  | .bnez _ w => some (fxBnez w)
  | .blt _ w => some (fxBlt w)
  | .spawn _ w => some (fxSpawn w)
  | .endStrand _ w => some (fxEnd w)
  | .waitt _ w => some (fxWaitt w)
  | .twait _ w => some (fxTwait w)
  | .eop _ w w1 w2 => some (fxEop w w1 w2)
  | .accrd _ w => some (fxAccrd w)
  | .accwr _ w => some (fxAccwr w)
  | .vst _ w w1 => some (fxVst w w1)
  | .pcvt _ w w1 => some (fxPcvt w w1)
  | .sketch _ w w1 w2 => some (fxSketch w w1 w2)
  | .vew _ w w1 => some (fxVew w w1)
  | .vred _ w w1 => some (fxVred w w1)
  | .upd _ w w1 w2 => some (fxUpd w w1 w2)
  | .mevo _ w w1 w2 => some (fxMevo w w1 w2)
  | .rng _ w w1 => some (fxRng w w1)
  | .vfin _ w w1 => some (fxVfin w w1)
  | .crc _ w w1 => some (fxCrc w w1)
  | .dcopy _ w w1 => some (fxDcopy w w1)
  | .dfeed _ w w1 w2 => some (fxDfeed w w1 w2)
  | .dset _ w w1 => some (fxDset w w1)
  | .fst _ w w1 => some (fxFst w w1)
  | .fld _ w w1 => some (fxFld w w1)
  | .fatom _ w w1 => some (fxFatom w w1)
  | .fsig _ w => some (fxFsig w)
  | .fpush _ w => some (fxFpush w)
  | .rcontrib _ w w1 => some (fxRcontrib w w1)
  | .rmerge _ w w1 => some (fxRmerge w w1)
  | .bpush _ w => some (fxBpush w)
  | .bpop _ w => some (fxBpop w)
  | .btry _ w => some (fxBtry w)
  | .bcount _ w => some (fxBcount w)
  | .lenter _ w => some (fxLenter w)
  | .larrive _ w => some (fxLarrive w)
  | .lwait _ w => some (fxLwait w)
  | .sigadd _ w => some (fxSigadd w)
  | .sigwait _ w => some (fxSigwait w)
  | .fence _ w => some (fxFence w)
  | .mma _ w => some (fxMma w)
  | .ldf _ w w1 => some (fxLdf w w1)
  | .sta _ w => some (fxSta w)
  | .cvt _ w => some (fxCvt w)
  | .cpy _ w => some (fxCpy w)
  | .vop _ w => some (fxVop w)
  | .bar _ w => some (fxBar w)
  | .qpush _ w => some (fxQpush w)
  | .qpop _ w => some (fxQpop w)
  | .swt _ w => some (fxSwt w)
  | .rst _ w w1 => some (fxRst w w1)
  | .rsig _ w => some (fxRsig w)
  | .fen _ w => some (fxFen w)
  | _ => none

/-- Whether the plan's code is SSI-1. -/
def State.isa1 (s : State) : Bool :=
  match s.plan with
  | some p => p.isa1
  | none => false

/-- The strand reference of a key. -/
def strandRef (key : Nat) : StrandRef := { core := coreFin key, ctx := Fin.ofNat 2048 (ctxOf key) }

/-- The strand's next instruction; `none` where its words decode to none (R146). -/
def State.nextInstr (s : State) (key : Nat) : Option Instr :=
  let pc := (s.strand key).pc.toNat
  let base := 32768 * coreOf key
  let word (i : Nat) : W64 := if pc + i < 32768 then Tab.get 0 s.code (base + pc + i) else 0
  decodeSsi s.isa1 (strandRef key) (word 0) (word 1) (word 2)

/-- The strand's next instruction is executed: a word beyond the code is PC_RANGE, an undecodable one RESERVED_ENCODING (R136, R146). -/
def State.issueNext (s : State) (key : Nat) : Issued :=
  if !s.codeMark (coreOf key) (s.strand key).pc.toNat then s.faultIssue key 0x02
  else
    match (s.nextInstr key).bind issueOf with
    | some f => f key s
    | none => s.faultIssue key 0x01

/-- The instructions of an issue group, at most `n` more (R139). -/
def State.issueGroup (key : Nat) : Nat → State → State
  | 0, s => s
  | n + 1, s =>
    let r := s.issueNext key
    if r.more then State.issueGroup key n r.s else r.s

/-! ### Slots of main memory that pass (R229) -/

/-- The effects of an operation over the memory that its read slots have found: its instruction, or what its engine held, computed again from what it started
from. -/
def State.effectsFrom (s : State) (o : InFlight) (g : ReadFrom) : List Effect :=
  let t : State :=
    { s with mem := g.mem, poison := g.poison, acc := g.acc, strands := Tab.put s.strands o.strand g.strand, ops := [], easelFree := [], bankFree := [],
             pipeFree := [], varnishFree := [], vectorFree := [], onDie := { s.onDie with rowErrs := [] },
             main := { s.main with uses := [], queueFree := [], burstErrs := [] } }
  match g.later with
  | some l => (t.startOp o l).effects
  | none => match (t.issueNext o.strand).s.ops.getLast? with
    | some p => p.effects
    | none => o.effects

/-- A read slot that passes: where the line has changed since its transfer started, the transfer's results come from the line as it is now; what has landed in
its earlier slots stays. -/
def State.readSlot (s : State) (u : LineUse) : State :=
  match u.op.bind fun i => List.find? (fun o => o.id == i) s.ops with
  | none => s
  | some o => match o.from_ with
    | none => s
    | some g =>
      let a := 256 * u.line
      let old (i : Nat) : Byte := Tab.get Memory.unlisted g.mem (a + i)
      if ((List.range 256).all fun i => s.byte (a + i) == old i) && s.poison.contains a == g.poison.contains a then s
      else
        let g := { g with mem := (List.range 256).foldl (fun t i => Tab.set Memory.unlisted t (a + i) (s.byte (a + i))) g.mem,
                          poison := if s.poison.contains a then Marks.insert g.poison a else Marks.erase g.poison a }
        let landed := (s.main.uses.filter fun w => w.write && w.op == some o.id && decide (w.slot < u.slot)).map fun w => w.line
        let effects := landed.foldl (fun es l => es.flatMap fun e => (e.onLine l).2) (s.effectsFrom o g)
        { s with ops := s.ops.map fun p => if p.id = o.id then { p with effects := effects, from_ := some g } else p }

/-- A slot that has passed: its meetings, and its read or its write. -/
def State.passSlot (s : State) (u : LineUse) : State :=
  let s := match s.unfinished u.op u.line u.slot with
    | [] => s
    | w :: _ => s.slotMeets (linePos u.line).half u.line u.core w.core false
  if u.write then s.landUse u else s.readSlot u

/-- The slots that begin before boundary `b`, in slot order, and the scrub write slots; those of visible transfers are forgotten. -/
def State.passSlots (s : State) (b : Nat) : State :=
  let due := (s.main.uses.filter fun u => !u.done && decide (u.slot < 3 * b)).foldl (fun l u => insertBy (fun x y => decide (x.slot < y.slot)) u l) []
  let s := (due.foldl State.passSlot s).writeBacks b
  { s with main := { s.main with
      uses := (s.main.uses.filter fun u => decide (b < u.vis)).map fun u => if u.slot < 3 * b then { u with done := true } else u } }

/-- Whether a waiting strand tries its instruction again at each boundary (R140–R143). -/
def Strand.retries (st : Strand) : Bool :=
  match st.wait with
  | some { kind := .retry, .. } => true
  | some { kind := .opened _ _, .. } => true
  | some { kind := .fenced _, .. } => true
  | _ => false

/-- One strand's turn at the present boundary, and whether it was given an issue group. A waiting strand tries its instruction again; it takes a
group when it goes on (R138, R140, R142; log entry 27). -/
def State.turn (s : State) (key : Nat) : State × Bool :=
  let st := s.strand key
  match st.status with
  | .ready => if st.notBefore ≤ s.boundary then (State.issueGroup key 8 s, true) else (s, false)
  | .waiting =>
    if st.retries then
      let r := State.issueGroup key 8 s
      let st' := r.strand key
      (r, !(st'.status == .waiting && st'.pc == st.pc))
    else (s, false)
  | _ => (s, false)

/-- The strands that the last boundary deferred and that this one serves: of each core the first 64, in the order of their deferral (R138). -/
def firstServed (deferred : List Nat) : List Nat :=
  deferred.foldl (fun l k => if (l.filter fun j => coreOf j == coreOf k).length < 64 then l ++ [k] else l) []

/-- One strand's turn with the 64 groups of its core: `kept` are the deferred strands that this boundary still has to serve, whose groups are kept for them. A
strand that finds none left is counted and is deferred (R138). -/
def State.turnCounted (acc : State × Tab Nat × List Nat) (key : Nat) : State × Tab Nat × List Nat :=
  let s := acc.1
  let n := Tab.get 0 acc.2.1 (coreOf key)
  let kept := acc.2.2.filter fun k => k != key
  let r := s.turn key
  if !r.2 then (r.1, acc.2.1, kept)
  else if n + (kept.filter fun k => coreOf k == coreOf key).length < 64 then (r.1, Tab.set 0 acc.2.1 (coreOf key) (n + 1), kept)
  else
    let s := s.count (.seqCount (coreFin key)) 31 16 1
    ({ s with run := { s.run with deferred := s.run.deferred ++ [key] } }, acc.2.1, kept)

/-- The issue groups of a boundary: the strands of each core in increasing context number, at most 64, among them those that the last boundary deferred (R138,
R142; log entry 27). -/
def State.issueAll (s : State) : State :=
  if s.dev.state = .running ∧ !s.stoppedAt s.boundary then
    let kept := firstServed s.run.deferred
    let left := s.run.deferred.filter fun k => !kept.contains k
    ((s.strands.map fun e => e.1).foldl State.turnCounted ({ s with run := { s.run with deferred := left } }, [], kept)).1
  else s

/-- Whether an instruction does nothing but wait. -/
def onlyWaits : Instr → Bool
  | .waitt _ _ => true
  | .twait _ _ => true
  | .lwait _ _ => true
  | .sigwait _ _ => true
  | .fence _ _ => true
  | .fen _ _ => true
  | _ => false

/-- Whether an instruction is a WAITT. -/
def isWaitt : Instr → Bool
  | .waitt _ _ => true
  | _ => false

/-- Whether a strand's next instruction, tried now, no longer waits. -/
def State.goesOn (s : State) (key : Nat) : Bool :=
  let t := (s.issueNext key).s.strand key
  !(t.status == .waiting && t.pc == (s.strand key).pc)

/-- A wait while operations in flight complete: what ends at this boundary would have let its strand issue now, so that is the scheduled start which a resume
shifts (R58, R59). An instruction that only waits is done, and its strand's next group is a stroke later; nothing else issues (R56). -/
def State.endingWait (s : State) (key : Nat) : State :=
  if s.goesOn key then
    let t := (s.issueNext key).s
    if (s.nextInstr key).any onlyWaits ∧ (t.strand key).status = .ready then
      t.setStrand key { t.strand key with notBefore := s.boundary + s.period }
    else s.setStrand key { s.strand key with status := .ready, wait := none, notBefore := s.boundary }
  else s

/-- A strand that waits while the chip is stopped (R56, R58). In HELD the wait of an instruction that only waits completes when its condition holds, as in the
example of R58; a WAITT then waits for its shifted target. -/
def State.stoppedWait (s : State) (key : Nat) : State :=
  if (s.strand key).status = .waiting ∧ (s.strand key).retries then
    if s.dev.state = .running then s.endingWait key
    else if (s.nextInstr key).any fun i => onlyWaits i && !isWaitt i then (s.issueNext key).s
    else s
  else s

/-- The waits that complete while the chip is stopped. -/
def State.stoppedWaits (s : State) : State :=
  if (s.dev.state = .running ∨ s.dev.state = .held) ∧ s.stoppedAt s.boundary then (s.strands.map fun e => e.1).foldl State.stoppedWait s else s

/-! ### The boundary -/

/-- The locks of the loaded plan. -/
def State.lockKeys (s : State) : List Nat :=
  keysOf s.lockx (match s.plan with
    | some p => p.locks.map fun l => l.key
    | none => [])

/-- Everything that happens at the stroke boundary `b` before the strands issue: writes of registers, bank cycles and memory slots that have passed, whose
events count in the stroke that ends, the values that RC reads return, committed cells and visible results in the order of their issue, late starts, locks that
are due, signals. A bit that a write clears and an event sets ends set (R492). -/
def State.settleBoundary (s : State) (b : Nat) (late : List Nat) : State :=
  let s : State := { s with tide := { s.tide with count := b, frac := 0 }, run := { s.run with pops := [] } }
  let s := ((((s.applyRegWrites.settleTo b).passSlots b).recordDet).snapRegs).land
  let s := s.ops.foldl (fun s o => s.visibleOp b (late.contains o.id) o) s
  let s := s.ops.foldl (fun s o => s.lateStart b o) s
  let s := s.lockKeys.foldl (fun s k => s.lockOpen k) s
  s.fab.signals.foldl (fun s w => s.signalApply w.id) s

/-! ### Late waits (R143, R55) -/

/-- Whether the wait of a strand has exceeded its tolerance. -/
def State.waitLate (s : State) (w : Wait) : Bool :=
  decide (0 < w.sched) && !w.late && decide (w.since + s.period * (w.sched + s.dev.chart.waitTolerance) ≤ s.now)

/-- A wait is late: it is counted and logged, and in STRICT the chip stops (R143, R172). -/
def State.raiseLate (s : State) (key pc sched : Nat) (inj : Bool) : State :=
  let core := coreFin key
  let h := s.coreHalf core.val
  let s := s.count (.seqCount core) 47 32 1
  let s := s.raise { causeEvent 3 (.seqCause core) 1 (srcCore core.val) [ctxOf key, pc, sched] with injected := inj }
  let s := s.det 2
  if s.strict then s.slipSecondary 9 (srcHalf h) [h.index] inj else s

/-- The injected lateness of a wait of a strand that is due (0x0018 of R432). -/
def State.injectedLate (s : State) (key : Nat) : State :=
  match s.run.injLate.find? fun x => x.1 == key && decide (x.2.2.2 ≤ s.now) with
  | none => s
  | some x =>
    let s : State := { s with run := { s.run with injLate := s.run.injLate.filter fun y => y != x } }
    s.raiseLate key x.2.1 x.2.2.1 true

/-- The wait of a strand where it is late. -/
def State.scheduleLate (s : State) (key : Nat) : State :=
  let s := s.injectedLate key
  let st := s.strand key
  match st.wait with
  | none => s
  | some w =>
    if s.waitLate w then (s.setStrand key { st with wait := some { w with late := true } }).raiseLate key st.pc.toNat w.sched false else s

/-- SCHEDULE_LATE. -/
def execScheduleLate (st : StrandRef) (s : State) : Host.Outcome State Fault Refusal :=
  .next (if s.dev.state = .running then s.scheduleLate st.key else s)

/-! ### The end of a stop (R56) -/

/-- Whether a stop's boundary has come, with its operations issued, and nothing is in flight: the last operation is visible. -/
def State.stopDone (s : State) : Bool :=
  s.dev.state == .running && s.run.resumeAt.isNone && s.stoppedAt (s.now + s.period) && s.ops.isEmpty && !s.tripped

/-- The report of a stop to the host (step 7 of R56): the code of the STOP_CAUSE bit that the stop set (R436), its registers, the governors' status and TIDE_STATUS. -/
def State.stopReport (s : State) : State :=
  let v (r : Reg) : Nat := (s.regNow r).toNat
  s.raise (causeEvent 13 .hmCause 9 srcHm [s.run.stopCode, v .stopCause, v .stopTide, v .stopSched, v (.govStatus .west), v (.govStatus .east), v .tideStatus])

/-- The device enters HELD and reports a slip's stop (R56); a stop by HOLD or HOLD_N follows steps 2 to 6 and makes no report, and a waiting HOLD replies (R379, R402). -/
def State.enterHeld (s : State) : State :=
  if s.stopDone then
    let s : State := { s with run := { s.run with holdAt := none, heldAt := some s.boundary } }
    let s := s.enter .held s.run.stopCode
    let s := if s.run.stopCode = 0x0400 ∨ s.run.stopCode = 0x0401 then s else s.stopReport
    if s.running 0x23 then s.finishL 0 s.holdData else s
  else s

end Sys2Proof.Machine
end

