-- ==== Sys2Proof/Machine/Governor.lean ====
section
/-! DEFINITION. The governors of the two halves (R47–R51): periods, regulators, rail currents, temperature and module power. -/

namespace Sys2Proof.Machine

/-- What a governor does at the end of a period: its new VCORE and its action code (R48, R51); 3 is a slip. -/
def govAction (slackMin margin : Int) (atVmaxAll : Bool) (good vcore vmin vmax : Nat) : Nat × Nat :=
  if slackMin < margin then
    if atVmaxAll then (vcore, 3) else (min (vcore + 100) vmax, 1)
  else if 4 ≤ good ∧ vmin < vcore then (max (vcore - 25) vmin, 2)
  else (vcore, 0)

/-- GOVERNOR_PERIOD: the end of a period of 8,192 strokes (R48). -/
def State.governorPeriod (s : State) (h : Half) : State :=
  let g := s.gov h
  match g.periodMin with
  | none => s
  | some m =>
    if g.strokes < 8192 ∨ !s.halfOn h ∨ s.dev.state = .fault then s
    else
      let good := if m < s.dev.chart.slackMargin + 20 then 0 else min 4 (g.goodPeriods + 1)
      let a := govAction m s.dev.chart.slackMargin g.atVmaxAll good g.aim s.vmin s.vmax
      let m' := if a.2 = 1 ∨ a.2 = 2 then g.move a.1 else g
      let s := s.setGov h { m' with slackMin := m, periodMin := none, goodPeriods := good, strokes := 0, action := a.2, periodSlip := decide (a.2 = 3) }
      let s := if bitOf s.log.trace.sources 6 then
          s.trace 6 0 h.index [unsignedOf 16 m, m'.vcore, m'.vsram, unsignedOf 16 g.tjMax, g.coreMa, g.sramMa]
        else s
      if a.2 = 3 then s.slip h.index (srcHalf h) [h.index] false else s

def execGovernorPeriod (h : Half) (s : State) : Host.Outcome State Fault Refusal := .next (s.governorPeriod h)

/-- Whether a half's regulator answers as R50 requires; targets and readings in 0.1 mV. -/
def readbackOk (ack statusError : Bool) (target reading : Nat) : Bool :=
  ack && (!statusError && (decide (reading ≤ target + 50) && decide (target ≤ reading + 50)))

/-- REGULATOR_READBACK: a rail is read back after a write, and the write that waited for it is made (R49, R50); those of a disabled half too, which move to
their low levels one after the other (R392). In BOOT a failure is the fault REGULATOR_BOOT; in FAULT the governors hold (R404). -/
def State.regulatorReadback (s : State) (h : Half) (sram ack statusError : Bool) (readMv : Nat) : State :=
  if s.dev.state = .off ∨ s.dev.state = .fault then s
  else
    let g := s.gov h
    let target := if sram then g.vsram else g.vcore
    let inj := !sram && s.armed 0x14 h.index
    let s := if inj then s.disarm 0x14 h.index else s
    let ok := readbackOk ack statusError target (if inj then target + 100 else 10 * readMv)
    let g' : Governor := if sram then { g with sramFailed := !ok } else { g with failed := !ok }
    let s := s.setGov h (if ok then g'.confirmed sram else g')
    if ok then s
    else if s.dev.state = .boot then s.enterFault 5
    else s.slip (4 + h.index) (srcHalf h) [h.index] inj

def execRegulatorReadback (h : Half) (sram ack statusError : Bool) (readMv : Nat) (s : State) : Host.Outcome State Fault Refusal :=
  .next (s.regulatorReadback h sram ack statusError readMv)

/-- RAIL_CURRENT_READ: the currents of a half's rails, read every 100 µs; the power of its last ten reads is kept for the average over 1 ms (R413). -/
def State.railCurrents (s : State) (h : Half) (coreMa sramMa : Nat) : State :=
  let g := s.gov h
  let mw := (g.vcore * coreMa + g.vsram * sramMa) / 10000
  let mine := (s.env.halfMw.filter fun e => e.1 == h.index).take 9
  ({ s with env := { s.env with halfMw := (h.index, mw) :: mine ++ s.env.halfMw.filter fun e => e.1 != h.index } } : State).setGov h
    { g with coreMa := coreMa, sramMa := sramMa }

def execRailCurrentRead (h : Half) (coreMa sramMa : Nat) (s : State) : Host.Outcome State Fault Refusal :=
  .next (if s.dev.state = .off then s else s.railCurrents h coreMa sramMa)

/-- The average power of a half's two rails in mW. -/
def State.railPower (s : State) (h : Half) : Nat :=
  let l := (s.env.halfMw.filter fun e => e.1 == h.index).map fun e => e.2
  l.sum / max 1 l.length

/-- The module power in mW: the sum of voltage × current over all rails (R413); `fixed`: mV and mA of the fixed rails, averaged over 1 ms. -/
def State.modulePower (s : State) (fixed : List (Nat × Nat)) : Nat :=
  s.railPower .west + s.railPower .east + (fixed.map fun e => e.1 * e.2).sum / 1000

/-- The optical engines of a half, six in the order of their numbers, show their temperatures (R418). -/
def Env.readEngines (e : Env) (h : Half) (temps : List Int) : Env :=
  { e with engines := (temps.zipIdx).foldl (fun t x => Tab.put t (6 * h.index + x.2) x.1) e.engines }

/-- THERMAL: the temperature sensors of a half are read, its six optical engines' among them (R51, R418). -/
def State.thermal (s : State) (h : Half) (r : HeatReading) : State :=
  if s.dev.state = .off ∨ !s.halfOn h then s
  else
    let limit : Int := s.dev.chart.junctionLimit
    let inj := s.armed 0x13 h.index
    let t := if inj then limit else r.celsius
    let s := if inj then s.disarm 0x13 h.index else s
    let hot := decide (limit ≤ t)
    let s := s.setGov h { s.gov h with tjMax := t }
    let s : State := { s with env := s.env.readEngines h r.engines }
    let s : State := { s with env :=
      match h with
      | .west => { s.env with tjW := some t, thermW := hot }
      | .east => { s.env with tjE := some t, thermE := hot } }
    if hot then s.slip (2 + h.index) (srcHalf h) [h.index] inj else s

def execThermal (h : Half) (reading : HeatReading) (s : State) : Host.Outcome State Fault Refusal := .next (s.thermal h reading)

/-- POWER_CAP: the module power averaged over 1 ms (R51). -/
def State.powerRead (s : State) (milliwatts : Nat) : State :=
  if s.dev.state = .off then s
  else
    let cap := 1000 * s.dev.chart.powerCap
    let inj := s.armed 0x15 0
    let p := if inj then cap + 1000 else milliwatts
    let s := if inj then s.disarm 0x15 0 else s
    let above := decide (cap < p)
    let s : State := { s with env := { s.env with power := some p, capOver := above } }
    if above then s.slip 6 srcHm [] inj else s

/-- POWER_CAP: the fixed rails are measured (R413), and the module power is held against the cap. -/
def execPowerCap (fixed : List (Nat × Nat)) (s : State) : Host.Outcome State Fault Refusal :=
  .next (if s.dev.state = .off then s else ({ s with env := { s.env with fixed := fixed } } : State).powerRead (s.modulePower fixed))

end Sys2Proof.Machine
end

