-- ==== Sys2Proof/Machine/TideUnit.lean ====
section
/-! DEFINITION. The tide unit (R38–R46): its start, TIDE_PPS, the follower's servo, holdover, the reference, reads of TIDE_NOW. -/

namespace Sys2Proof.Machine

/-- Logs TIDE_STEP with the counts before and after (R38). -/
def State.tideStepped (s : State) (before : Nat) : State := s.raise (plainEvent 0x0410 srcHm [before, s.tide.count])

/-- The tide starts, or starts again, in the chart's role (R40, R393); every restart is logged (R38). A SOURCE shows stratum 0 whether or not it is locked:
R46 gives STRATUM both 0 for SOURCE and 0xF when not locked (DESIGN CHOICE, log entry 40). -/
def State.startTide (s : State) : State :=
  let t := s.tide
  let role := s.dev.chart.tideRole
  let source := role == .source
  let s : State := { s with snap := s.regs, fresh := [], tide :=
    { Tide.reset with running := true, ran := true, role := role, refPresent := t.refPresent, ppsPresent := t.ppsPresent,
                      state := if role = .free then .freeRun else if source && t.ppsPresent then .locked else .acquiring,
                      stratum := if source then 0 else 0xF, latchedHi := t.latchedHi } }
  if t.ran then s.tideStepped t.count else s

/-- Whether the tide unit may only slew: in RUNNING, HELD and DRAINING (R44). -/
def State.slewOnly (s : State) : Bool :=
  s.dev.state == .running || s.dev.state == .held || s.dev.state == .draining

/-- An offset of the tide in picoseconds is corrected: above 1 µs, and where the state allows, by a step; else by slewing, which changes the rate
at which the tide reaches its next instants (R44; log entry 28). -/
def State.correctTide (s : State) (offsetPs : Int) : State :=
  if s.slewOnly ∨ offsetPs.natAbs ≤ 1000000 then s
  else
    let ps := ((s.nowPs : Int) - offsetPs).toNat
    let before := s.tide.count
    let s : State := { s with tide := { s.tide with count := ps / 1000, frac := ps % 1000 * 65536 / 1000 } }
    s.tideStepped before

/-- The quays that TIDE_UPSTREAM names, in order (R42). -/
def State.upstreamQuays (s : State) : List Nat := s.dev.chart.tideUpstream.filter fun q => decide (q < 48)

/-- Whether an upstream quay is in service (R45). -/
def State.upstreamAlive (s : State) : Bool := s.upstreamQuays.any s.inService

/-- The upstream quay of a follower: the first in service whose peer reports LOCKED and a stratum below 15 (R42). -/
def State.upstreamQuay (s : State) : Option Nat :=
  s.upstreamQuays.find? fun q => s.inService q && (bitsOf (s.quay q).peerTide 5 4 == 1 && decide (bitsOf (s.quay q).peerTide 3 0 < 15))

/-! ### TIDE_PPS (R40) -/

/-- The offset of the tide from the nearest whole second, in picoseconds. -/
def State.secondOffset (s : State) : Int :=
  let r := s.nowPs % 1000000000000
  if r < 500000000000 then (r : Int) else (r : Int) - 1000000000000

/-- TIDE_PPS: an edge marks a whole second of a SOURCE's tide; a pending TIDE_SET takes effect and its reply is written. -/
def State.tidePps (s : State) : State :=
  let s : State := { s with tide := { s.tide with ppsPresent := true } }
  if s.tide.role ≠ .source ∨ !s.tide.running then s
  else match s.tide.pendingSet with
    | some v =>
      let before := s.tide.count
      let s : State := { s with tide := { s.tide with count := v, frac := 0, pendingSet := none, state := .locked, estError := 0 } }
      let s := s.tideStepped before
      if s.running 0x10 then s.finishL 0 [] else s
    | none =>
      let off := s.secondOffset
      let err := off.natAbs / 10
      ({ s with tide := { s.tide with state := .locked, estError := err, lastError := err } } : State).correctTide off

/-- PPS_PRESENT_LOST: 1.1 s have passed without an edge; a SOURCE is no longer locked (R46, R378). -/
def execPpsPresentLost (s : State) : Host.Outcome State Fault Refusal :=
  .next { s with tide := { s.tide with ppsPresent := false, state := if s.tide.role = .source then .acquiring else s.tide.state } }

/-! ### The follower (R41, R42, R45) -/

/-- TIDE_SERVO_UPDATE: the average of the offsets measured on the upstream quay steers the tide. At a change of upstream quay the correction is at most
100 ps (R42). -/
def State.tideServo (s : State) : State :=
  if s.tide.role ≠ .follower ∨ !s.tide.running then s
  else match s.upstreamQuay with
    | none => s
    | some q =>
      let x := s.quay q
      let s : State := { s with fab := { s.fab with quays := s.fab.quays.map fun e => (e.1, { e.2 with offsetSum := 0, offsetNum := 0 }) } }
      if x.offsetNum = 0 then s
      else
        let theta : Int := x.offsetSum / (2 * (x.offsetNum : Int))
        let err := theta.natAbs / 10
        let near := decide (err ≤ 100 * s.dev.chart.tideTolerance)
        let locked := near || s.tide.state == .locked
        let moved := match s.tide.upstream with
          | some q' => q' != q
          | none => false
        let s : State := { s with tide :=
          { s.tide with upstream := some q, estError := err, lastError := err, state := if locked then .locked else .acquiring,
                        stratum := if locked then bitsOf x.peerTide 3 0 + 1 else 0xF } }
        s.correctTide (if moved then max (-100) (min 100 theta) else theta)

def execTideServoUpdate (s : State) : Host.Outcome State Fault Refusal := .next s.tideServo

/-- Whether a follower has an upstream quay to lose: it is locked, or it has taken its phase from one (R45). A follower that never had one stays in
ACQUIRING (R46). -/
def Tide.follows (t : Tide) : Bool := t.state == .locked || (t.state == .acquiring && t.upstream.isSome)

/-- UPSTREAM_LOST: a follower that loses every upstream quay keeps its last frequency; its error grows from the last one measured (R45). -/
def State.upstreamLost (s : State) : State :=
  if s.tide.role = .follower ∧ s.tide.follows ∧ s.upstreamQuay.isNone then
    { s with tide := { s.tide with state := .holdover, stratum := 0xF, upstream := none, estError := s.tide.lastError, errFrom := s.tide.count } }
  else s

def execUpstreamLost (s : State) : Host.Outcome State Fault Refusal := .next s.upstreamLost

/-- TIDE_ERROR: the estimated error of a follower is above TIDE_TOLERANCE (R45). -/
def State.tideErrorCheck (s : State) : State :=
  let inj := s.armed 0x16 0
  let s := if inj then s.disarm 0x16 0 else s
  let est := if inj then 100 * s.dev.chart.tideTolerance + 1 else s.estErr
  let on := s.tide.role == .follower && (s.tide.state == .locked || s.tide.state == .holdover)
  if (on ∨ inj) ∧ 100 * s.dev.chart.tideTolerance < est then s.slip 8 srcHm [] inj else s

def execTideError (s : State) : Host.Outcome State Fault Refusal := .next s.tideErrorCheck

/-! ### The reference (R45) -/

/-- TIDE_REF appears or goes; the growth of a holdover error starts anew from its present value. -/
def State.setRef (s : State) (present : Bool) : State :=
  { s with tide := { s.tide with estError := s.estErr, errFrom := s.tide.count, refPresent := present } }

/-- TIDE_REF_LOST: the reference goes while an upstream quay is in service: an alarm, and the recovered clock takes over. -/
def execTideRefLost (s : State) : Host.Outcome State Fault Refusal :=
  .next (if s.tide.refPresent ∧ s.upstreamAlive then
      let s := s.setRef false
      ({ s with tide := { s.tide with recovered := true } } : State).raise (plainAlarm 0x0402 srcHm [])
    else s)

/-- TIDE_REF_PRESENT: the reference returns, or is lost with no upstream quay in service. -/
def execTideRefPresent (present : Bool) (s : State) : Host.Outcome State Fault Refusal :=
  .next (if present then
      let s := s.setRef true
      { s with tide := { s.tide with recovered := false } }
    else if s.upstreamAlive then s
    else s.setRef false)

/-! ### Reads of TIDE_NOW (R39) -/

/-- The fraction of the present instant is latched into TIDE_FRAC. -/
def State.latchFrac (s : State) : State := s.setReg .tideFrac (BitVec.ofNat 64 (s.tide.frac % 65536))

/-- What a read returns to the host. -/
def State.readValue (s : State) (v : W64) : State := { s with host := { s.host with lastRead := v } }

/-- TIDE_NOW_READ. -/
def State.tideNowRead (s : State) (access : TideNowRead) : State :=
  if !s.servedNow 0x10000 then s.readValue 0
  else
    let n := s.tide.count
    match access with
    | .whole => s.latchFrac.readValue (BitVec.ofNat 64 n)
    | .low =>
      let s : State := { s with tide := { s.tide with latchedHi := n / 2 ^ 32 } }
      s.latchFrac.readValue (BitVec.ofNat 64 (n % 2 ^ 32))
    | .high => s.readValue (BitVec.ofNat 64 s.tide.latchedHi)

def execTideNowRead (access : TideNowRead) (s : State) : Host.Outcome State Fault Refusal := .next (s.tideNowRead access)

end Sys2Proof.Machine
end

