-- ==== Sys2Proof/Machine/HostCmd.lean ====
section
/-! DEFINITION. The pilot commands in general (R370–R377): the command table, the checks on every command, and what a command leaves; HELLO,
IDENTIFY, STATUS and TELEMETRY (R374, R383, R455). -/

namespace Sys2Proof

open Sys2Proof.Machine

/-- The payload bytes of a command; unused inline bytes are the rest of the descriptor. -/
def Desc.bytes (d : Desc) : List Byte := (d.payload.getD []).take d.payloadLen

/-- Whether the payload is indirect. -/
def Desc.isIndirect (d : Desc) : Bool := bitOf d.flags.toNat 0

/-- Row 3 of R376. -/
def Desc.badBits (d : Desc) : Bool :=
  decide (4 ≤ d.flags.toNat) || d.resv != 0 || decide (d.replyAddr % 64 ≠ 0) || (d.isIndirect && (decide (d.indirect % 64 ≠ 0) || d.rest.any fun b => b != 0)) ||
    (!d.isIndirect && ((d.payload.getD []).drop d.payloadLen).any fun b => b != 0)

end Sys2Proof

namespace Sys2Proof.Machine

/-! ### The command table (R377) -/

/-- The kinds of commands (R373): query, short, long. -/
inductive CmdKind where
  | q | s | l
  deriving DecidableEq, Repr

/-- A row of the command table: whether protocol 3 is needed, its kind, its legal states (bit per state code) and its payload's size. -/
structure CmdInfo where
  opcode : Nat
  v3     : Bool
  kind   : CmdKind
  legal  : Nat
  size   : Nat
  deriving DecidableEq, Repr

/-- The command table. RESET's legal states depend on its type (R405). -/
def cmdTable : List CmdInfo :=
  [⟨0x01, false, .s, 0x7F8, 2⟩, ⟨0x02, false, .q, 0x7F8, 0⟩, ⟨0x03, false, .q, 0x7F8, 0⟩, ⟨0x04, false, .q, 0x7F8, 1⟩,
   ⟨0x05, false, .l, 0x010, 576⟩, ⟨0x06, false, .l, 0x010, 1⟩, ⟨0x07, false, .s, 0x7F8, 1⟩, ⟨0x10, false, .l, 0x010, 8⟩,
   ⟨0x11, false, .s, 0x010, 8584⟩, ⟨0x12, false, .l, 0x0B0, 8⟩, ⟨0x20, false, .l, 0x010, 24⟩, ⟨0x21, false, .s, 0x020, 0⟩,
   ⟨0x22, false, .s, 0x0A0, 16⟩, ⟨0x23, false, .l, 0x040, 8⟩, ⟨0x24, false, .l, 0x0C0, 0⟩, ⟨0x25, true, .s, 0x020, 0⟩,
   ⟨0x26, true, .s, 0x200, 0⟩, ⟨0x27, true, .l, 0x200, 26⟩] ++
  [⟨0x30, false, .s, 0x2B0, 16⟩, ⟨0x31, false, .s, 0x2B0, 4⟩, ⟨0x32, false, .s, 0x2B0, 192⟩, ⟨0x33, false, .s, 0x2B0, 4⟩,
   ⟨0x34, true, .q, 0x3F0, 6⟩, ⟨0x38, true, .s, 0x0F0, 3⟩, ⟨0x39, false, .s, 0x010, 8⟩, ⟨0x3A, false, .q, 0x7F8, 0⟩,
   ⟨0x40, false, .s, 0x7F8, 16⟩, ⟨0x41, false, .s, 0x7F8, 1⟩, ⟨0x42, false, .s, 0x0B0, 40⟩, ⟨0x43, false, .q, 0x7F8, 0⟩,
   ⟨0x50, false, .s, 0x0B0, 8⟩, ⟨0x51, false, .l, 0x2F0, 32⟩, ⟨0x52, false, .s, 0x010, 0⟩, ⟨0x53, false, .l, 0x010, 29984⟩,
   ⟨0x54, false, .l, 0x010, 0⟩]

/-- The row of an opcode. -/
def cmdInfo (opcode : Nat) : Option CmdInfo := cmdTable.find? fun c => c.opcode == opcode

/-! ### A command as it is executed -/

/-- What a command's own part leaves: the state, its result and reply data; `wait` for a long command that replies later; what follows the reply
(a reset). -/
structure CmdOut where
  s    : State
  code : Nat
  data : List Byte
  wait : Bool
  post : State → State

/-- A command that is done, one refused with its own result, and one that goes on. -/
def done (s : State) (data : List Byte) : CmdOut := ⟨s, 0, data, false, id⟩
def noop (s : State) : CmdOut := ⟨s, 1, [], false, id⟩
def refuse (s : State) (code : Nat) : CmdOut := ⟨s, code, [], false, id⟩
def going (s : State) : CmdOut := ⟨s, 0, [], true, id⟩

/-- A command's own part: its payload's reserved encodings (row 6 of R376), the size of its reply data (row 9) and what it does (row 10). -/
structure CmdBody where
  reserved : State → List Byte → Bool
  legal    : State → List Byte → Option Nat
  replyLen : State → List Byte → Nat
  run      : State → Desc → List Byte → CmdOut

/-- A body without reserved encodings whose reply data fits its entry. -/
def plainBody (run : State → Desc → List Byte → CmdOut) : CmdBody := ⟨fun _ _ => false, fun _ _ => none, fun _ _ => 0, run⟩

/-- The first failing row of R376 before the command's own results: its result, LEGAL_STATES, DATA_LEN where it is special, and data. -/
def State.cmdCheck (s : State) (opcode : Nat) (b : CmdBody) (d : Desc) : Option (Nat × Nat × Option Nat × List Byte) :=
  let early := opcode == 0x01 || opcode == 0x02 || opcode == 0x03
  if s.host.proto = 0 ∧ !early then some (0x13, 0, none, [])
  else match cmdInfo opcode with
  | none => some (0x10, 0, none, [])
  | some c =>
    if c.v3 ∧ s.host.proto = 2 then some (0x10, 0, none, [])
    else if d.badBits then some (0x11, 0, none, [])
    else if d.payloadLen ≠ c.size ∨ (!d.isIndirect ∧ 40 < d.payloadLen) then some (0x12, 0, none, [])
    else if d.isIndirect ∧ d.payload.isNone then some (0x17, 0, none, [])
    else if b.reserved s d.bytes then some (0x11, 0, none, [])
    else
      let rom := s.dev.state == .fault && (s.dev.faultFrom == .boot || s.dev.faultFrom == .verify)
      let legal := (b.legal s d.bytes).getD c.legal
      let romBad := rom && !(early || (opcode == 0x07 && (fieldAt d.bytes 0 1 == 3)))
      if !bitOf legal s.dev.state.code || romBad then some (0x14, legal, none, [])
      else match s.host.busy with
      | some r =>
        if c.kind = .q ∨ opcode = 0x07 then
          let n := b.replyLen s d.bytes
          if 48 < n ∧ (d.replyLen < n ∨ d.replyAddr = 0) then some (0x16, 0, some n, []) else none
        else some (0x15, 0, none, leBytes 1 r.opcode ++ leBytes 1 r.mb.val ++ leBytes 2 0 ++ leBytes 4 r.tag.toNat)
      | none =>
        let n := b.replyLen s d.bytes
        if 48 < n ∧ (d.replyLen < n ∨ d.replyAddr = 0) then some (0x16, 0, some n, []) else none

/-- Executes a command: the checks of R376, its own part, its reply (or, for a long command that goes on, BUSY), and what follows. -/
def State.execCmd (s : State) (opcode : Nat) (b : CmdBody) (d : Desc) : State :=
  match s.cmdCheck opcode b d with
  | some (code, legal, need, data) => s.replyWith d opcode code legal need data
  | none =>
    let o := b.run s d d.bytes
    if o.wait then { o.s with host := { o.s.host with busy := some { opcode := opcode, mb := d.mb, tag := d.tag, desc := d, cut := false } } }
    else o.post (o.s.reply d opcode o.code o.data)

/-! ### Measurements (R463) -/

/-- Sets a measurement to the digest of a byte string. -/
def State.measure (s : State) (i : Nat) (bs : List Byte) : State :=
  { s with sec := { s.sec with measures := listSet s.sec.measures i (Config.shake256 bs) } }

/-- A measurement with nothing to measure holds zeros. -/
def State.unmeasure (s : State) (i : Nat) : State :=
  { s with sec := { s.sec with measures := listSet s.sec.measures i (List.replicate 64 0) } }

/-- Extends EVENTS with an accepted command. -/
def State.measureEvent (s : State) (opcode : Nat) : State :=
  s.measure 7 (s.sec.measures.getD 7 [] ++ leBytes 1 opcode ++ leBytes 7 0 ++ leBytes 8 s.now)

/-! ### HELLO, IDENTIFY, STATUS -/

/-- HELLO (R374). -/
def helloBody : CmdBody := plainBody fun s _ p =>
  let lo := fieldAt p 0 1
  let hi := fieldAt p 1 1
  let answer (s : State) (v : Nat) : CmdOut := done s (leBytes 1 v ++ leBytes 3 0 ++ leBytes 4 s.sec.fwVersion)
  if s.host.proto ≠ 0 then
    if lo ≤ s.host.proto ∧ s.host.proto ≤ hi then answer s s.host.proto else refuse s 0x0101
  else
    let v := if lo ≤ 3 ∧ 3 ≤ hi then 3 else if lo ≤ 2 ∧ 2 ≤ hi then 2 else 0
    if v = 0 then refuse s 0x0100 else answer { s with host := { s.host with proto := v } } v

/-- The part number of a grade in ASCII (R383). -/
def partNumber (grade : Nat) : List Byte :=
  let pre : List Byte := [0x4D, 0x47, 0x2D, 0x53, 0x56, 0x37, 0x2D]
  let tail : List Byte := match grade with
    | 0 => [0x41, 0x31, 0x32, 0x38]
    | 1 => [0x42, 0x31, 0x32, 0x30]
    | _ => [0x43, 0x31, 0x31, 0x32]
  sliceBytes (pre ++ tail) 0 16

/-- The identity reply (R383). -/
def State.identity (s : State) : List Byte :=
  partNumber s.dev.grade ++ leBytes 1 s.dev.grade ++ leBytes 1 (s.dev.foundW.getD 0) ++ leBytes 1 (s.dev.foundE.getD 0) ++ leBytes 1 0 ++
    leBytes 4 s.sec.fwVersion ++ leBytes 1 s.sec.rollback ++ [2, 3] ++ [2] ++ [3] ++ [4] ++ leBytes 2 0 ++ sliceBytes s.sec.serial 0 16 ++
    List.replicate 16 0 ++ (List.range 144).flatMap fun p => leBytes 2 ((Tab.find? s.dev.map p).getD 0xFFFF)

/-- IDENTIFY. -/
def identifyBody : CmdBody := { plainBody (fun s _ _ => done s s.identity) with replyLen := fun _ _ => 352 }

/-- The status reply (R383). -/
def State.statusData (s : State) : List Byte :=
  let r (n : Nat) (x : Reg) : List Byte := leBytes n (s.regNow x).toNat
  let l := match s.host.busy with
    | some b => leBytes 1 b.opcode ++ leBytes 1 b.mb.val ++ leBytes 2 0 ++ leBytes 4 b.tag.toNat
    | none => leBytes 8 0
  leBytes 1 s.dev.state.code ++ leBytes 1 (if s.host.busy.isSome then 1 else 0) ++ r 2 .hmFault ++ r 4 .stopCause ++ r 8 .stopTide ++
    r 8 .stopSched ++ r 4 .tideStatus ++ r 4 .detStatus ++ r 8 (.govStatus .west) ++ r 8 (.govStatus .east) ++ r 8 .tideNow ++ r 8 .stepNumber ++
    l ++ leBytes 8 0

/-- STATUS. -/
def statusBody : CmdBody := { plainBody (fun s _ _ => done s s.statusData) with replyLen := fun _ _ => 80 }

/-! ### TELEMETRY (R455) -/

/-- A byte of the hottest of some readings; with none, the manual states no value (log entry 3). -/
def State.hottest (s : State) (l : List Int) : List Byte × State :=
  match l with
  | [] =>
    let f := s.takeFree
    (leBytes 1 f.1.toNat, f.2)
  | x :: xs => (leBytes 1 (unsignedOf 8 (xs.foldl max x)), s)

/-- The module power; before its first average, a free value (log entry 3). -/
def State.powerBytes (s : State) : List Byte × State :=
  match s.env.power with
  | some p => (leBytes 4 p, s)
  | none =>
    let f := s.takeFree
    (leBytes 4 f.1.toNat, f.2)

/-- The voltage and current of the fixed rails as measured (R413); of one that has not been measured yet, free values (log entry 3). -/
def State.otherRails : List (Option (Nat × Nat)) → State → List Byte × State
  | [], s => ([], s)
  | some e :: l, s =>
    let r := State.otherRails l s
    (leBytes 2 e.1 ++ leBytes 2 0 ++ leBytes 4 e.2 ++ r.1, r.2)
  | none :: l, s =>
    let f := s.takeFree
    let r := State.otherRails l f.2
    (leBytes 2 f.1.toNat ++ leBytes 2 0 ++ leBytes 4 (f.1.toNat / 65536) ++ r.1, r.2)

/-- The telemetry reply. -/
def State.telemetryData (s : State) : List Byte × State :=
  let r (n : Nat) (x : Reg) : List Byte := leBytes n (s.regNow x).toNat
  let rail (mv ma : Nat) : List Byte := leBytes 2 (mv / 10) ++ leBytes 2 0 ++ leBytes 4 ma
  let o := State.otherRails ((List.range 8).map fun i => s.env.fixed[i]?) s
  let p := o.2.hottest (s.main.temps.map fun e => e.2)
  let e := p.2.hottest (s.env.engines.map fun e => e.2)
  let w := e.2.powerBytes
  let t := s.totals
  let sat (n : Nat) : List Byte := leBytes 8 (min (2 ^ 64 - 1) n)
  (r 8 .tideNow ++ r 8 .stepNumber ++ w.1 ++ leBytes 4 0 ++ rail s.govW.vcore s.govW.coreMa ++ rail s.govE.vcore s.govE.coreMa ++
    rail s.govW.vsram s.govW.sramMa ++ rail s.govE.vsram s.govE.sramMa ++ o.1 ++ r 8 (.govStatus .west) ++ r 8 (.govStatus .east) ++ r 4 .tideStatus ++
    leBytes 1 (unsignedOf 8 s.govW.tjMax) ++ leBytes 1 (unsignedOf 8 s.govE.tjMax) ++ p.1 ++ e.1 ++ sat t.easelSteps ++ sat t.sectors ++
    sat t.memSlots ++ sat t.cellsSent ++ sat t.resent ++ sat t.corrected, w.2)

/-- TELEMETRY. -/
def telemetryBody : CmdBody :=
  { plainBody (fun s _ _ =>
      let t := s.telemetryData
      done t.2 t.1) with replyLen := fun _ _ => 192 }

end Sys2Proof.Machine
end

