-- ==== Sys2Proof/Machine/Training.lean ====
section
/-! DEFINITION. Link training (R248–R251). -/

namespace Sys2Proof.Machine

/-- The code of a training failure, by its cause in QUAY_STATUS (R288, R435). -/
def trainCode : Nat → Nat
  | 2 => 0x0414
  | 3 => 0x0415
  | 4 => 0x0416
  | 5 => 0x0146
  | 6 => 0x0417
  | 7 => 0x0418
  | _ => 0x0419

/-- Stores STATE and CAUSE of QUAY_STATUS. -/
def State.setQuayState (s : State) (q state cause : Nat) : State :=
  let r := Reg.quayStatus (quayFin q)
  s.setReg r (withField (withField (s.reg r) 7 4 cause) 2 0 state)

/-- Training of a quay starts, with the fabric identity that the host has supplied by now (R251). -/
def State.startTraining (s : State) (q : Nat) : State :=
  if s.tripped then s else
  let x := s.quay q
  let s := s.setReg (.quayStatus (quayFin q)) 1
  let s := s.setReg (.quayDelay (quayFin q)) 0
  (s.setQuay q { x with txSeq := 0, rxSeq := 0, history := [], resend := [], naks := [], requests := [], checkFails := [], relayed := [],
                        awaiting := [], arrived := [], heldCells := [], echoTx := 0, echoRx := 0, peerTide := 0xF, trainTx := [],
                        ownChip := s.fab.chip, trainChip := x.expectChip, trainQuay := x.expectQuay, asym := s.fld (.tideAsym (quayFin q)) 31 0,
                        nakCycles := [] }).traceQuay 4 q [1]

/-- Whether a quay is in training. -/
def State.training (s : State) (q : Nat) : Bool := decide (1 ≤ s.quayState q) && decide (s.quayState q ≤ 4)

/-- A quay fails its training state (R248). -/
def State.trainFail (s : State) (q cause : Nat) : State :=
  let s := s.setQuayState q 6 cause
  let s := s.raise (quayEvent q 0 [trainCode cause])
  s.traceQuay 4 q [6, cause]

/-- The highest protocol that both sides offer, 0 where there is none (R250). -/
def State.protoWith (s : State) (lo hi : Nat) : Nat :=
  let p := min hi s.dev.chart.fabricProtoMax
  if max lo 1 ≤ p then p else 0

/-- The exchange of TRAIN cells (R249): the cause of a failure, or 0. -/
def State.trainCause (s : State) (q : Nat) (p : List Byte) : Nat :=
  let x := s.quay q
  if s.protoWith (fieldAt p 0 1) (fieldAt p 1 1) = 0 then 5
  else if fieldAt p 2 2 ≠ x.trainChip ∨ fieldAt p 4 1 ≠ x.trainQuay ∨ fieldAt p 6 2 ≠ x.ownChip ∨ fieldAt p 8 1 ≠ q then 6
  else if fieldAt p 9 1 ≠ s.period ∨ fieldAt p 0x0A 4 ≠ s.cycleNs then 7
  else 0

/-- Whether the laser input of a quay's engine stood at its threshold or above when it was last read, or has not been read (R425). -/
def State.laserLit (s : State) (q : Nat) : Bool :=
  match Tab.find? s.env.lasers (q / 4) with
  | some level => decide (laserFloor ≤ level)
  | none => true

/-- A quay completes its training state, on what it sees there, and enters the next (R248); in EXCHANGE it sends TRAIN cells (R249). -/
def State.trainAdvance (s : State) (q : Nat) (v : TrainView) : State :=
  let r := Reg.quayStatus (quayFin q)
  match s.quayState q with
  | 1 => if v.laser && s.laserLit q && v.peerLight then (s.setQuayState q 2 0).traceQuay 4 q [2] else s
  | 2 => if v.aligned then (s.setQuayState q 3 0).traceQuay 4 q [3] else s
  | 3 =>
    let p := v.payload
    let cause := s.trainCause q p
    if cause ≠ 0 then s.trainFail q cause
    else
      let w := withField (withField (withField (s.reg r) 31 16 (fieldAt p 2 2)) 15 10 (fieldAt p 4 1)) 9 8 (s.protoWith (fieldAt p 0 1) (fieldAt p 1 1))
      let s := s.setReg r w
      let s := s.setQuay q { s.quay q with peerTide := fieldAt p 0x0E 1 % 64 }
      (s.setQuayState q 4 0).traceQuay 4 q [4]
  | 4 =>
    if 750000 < v.delayPs then s.trainFail q 8
    else
      let s := s.setReg (.quayDelay (quayFin q)) (BitVec.ofNat 64 v.delayPs)
      (s.setQuayState q 5 0).traceQuay 4 q [5]
  | _ => s

/-- A training state passes its limit (R248): the cause is that of the state; an exchange that never completes has found no common protocol. -/
def State.trainTimeout (s : State) (q : Nat) (laser : Bool) : State :=
  match s.quayState q with
  | 1 => s.trainFail q (if laser && s.laserLit q then 3 else 2)
  | 2 => s.trainFail q 4
  | 3 => s.trainFail q 5
  | 4 => s.trainFail q 8
  | _ => s

end Sys2Proof.Machine
end

