-- ==== Sys2Proof/Machine/Charts.lean ====
section
/-! DEFINITION. Charts (R52, R395–R399): their images and checks, CHART_READ, CHART_WRITE and CHART_SELECT; the numbering of a half (R15–R18),
its self-test, memory training and fill (R241). -/

namespace Sys2Proof.Machine

/-! ### Chart images (R395) -/

/-- TIDE_ROLE of a code. -/
def roleOf (n : Nat) : TideRole := if n = 1 then .source else if n = 2 then .follower else .free

/-- The bytes of a chart image from 0x008 on. -/
def Chart.tail (c : Chart) : List Byte :=
  let b (x : Bool) (i : Nat) : Nat := if x then i else 0
  let body := leBytes 1 (b c.relaxed 1) ++ leBytes 1 (b c.west 1 + b c.east 2) ++ leBytes 1 c.opPoint ++ leBytes 1 c.strokePeriod ++
    leBytes 2 c.slackMargin ++ leBytes 2 c.slackFloor ++ leBytes 2 c.vmin ++ leBytes 2 c.vmax ++ leBytes 1 c.junctionLimit ++
    leBytes 1 c.tideRole.code ++ leBytes 2 c.powerCap ++ (List.range 4).flatMap (fun i => leBytes 1 (c.tideUpstream.getD i 255)) ++
    leBytes 1 c.tideTolerance ++ leBytes 1 c.waitTolerance ++ leBytes 1 c.fabricProtoMax ++ leBytes 1 (b c.redIqwOnly 1) ++
    leBytes 8 c.quayEnable ++ leBytes 4 c.fabricCycle ++ leBytes 4 c.redF16wMax ++ leBytes 2 c.galleryRegions ++ leBytes 1 c.sketchAudit ++
    leBytes 1 0 ++ leBytes 2 c.sramScrub ++ leBytes 2 0 ++ leBytes 4 c.dramScrub ++ leBytes 4 c.logBudget ++ leBytes 4 c.traceBudget ++
    leBytes 4 c.alarmBudget
  sliceBytes body 0 504

/-- The 512-byte image of a chart at place `n`. -/
def Chart.image (c : Chart) (n : Nat) : List Byte :=
  let tail := c.tail
  leBytes 2 1 ++ leBytes 1 n ++ leBytes 1 0 ++ leBytes 4 (if c.intact then crc32c tail else crc32c tail + 1) ++ tail

/-- The chart that an image holds at place `n`; `intact` says whether CHECK, FORMAT_VERSION and CHART_NO are right. -/
def chartOf (img : List Byte) (n : Nat) : Chart :=
  let f (o k : Nat) : Nat := fieldAt img o k
  { intact := f 0 2 == 1 && f 2 1 == n && f 4 4 == crc32c (sliceBytes img 8 504), relaxed := f 8 1 == 1, west := bitOf (f 9 1) 0,
    east := bitOf (f 9 1) 1, opPoint := f 0x0A 1, strokePeriod := f 0x0B 1, slackMargin := f 0x0C 2, slackFloor := f 0x0E 2, vmin := f 0x10 2,
    vmax := f 0x12 2, junctionLimit := f 0x14 1, tideRole := roleOf (f 0x15 1), powerCap := f 0x16 2,
    tideUpstream := (List.range 4).map fun i => f (0x18 + i) 1, tideTolerance := f 0x1C 1, waitTolerance := f 0x1D 1, fabricProtoMax := f 0x1E 1,
    redIqwOnly := f 0x1F 1 == 1, quayEnable := f 0x20 8, fabricCycle := f 0x28 4, redF16wMax := f 0x2C 4, galleryRegions := f 0x30 2,
    sketchAudit := f 0x32 1, sramScrub := f 0x34 2, dramScrub := f 0x38 4, logBudget := f 0x3C 4, traceBudget := f 0x40 4, alarmBudget := f 0x44 4 }

/-- The fields of a chart image with fixed bounds: offset, size, least and greatest value (R52, R251, R395). -/
def chartRanges : List (Nat × Nat × Nat × Nat) :=
  [(3, 1, 0, 0), (8, 1, 0, 1), (9, 1, 1, 3), (0x0A, 1, 0, 3), (0x0B, 1, 2, 32), (0x0C, 2, 20, 200), (0x0E, 2, 10, 65535), (0x10, 2, 220, 65535),
   (0x12, 2, 0, 360), (0x14, 1, 85, 105), (0x15, 1, 0, 2), (0x16, 2, 1200, 2400), (0x1C, 1, 1, 16), (0x1D, 1, 1, 64), (0x1E, 1, 1, 2)] ++
  [(0x1F, 1, 0, 1), (0x26, 2, 0, 0), (0x28, 4, 1024, 52416), (0x2C, 4, 2, 65536), (0x32, 1, 4, 10), (0x33, 1, 0, 0), (0x34, 2, 1, 100),
   (0x36, 2, 0, 0), (0x38, 4, 30, 86400), (0x3C, 4, 10000, 100000000), (0x40, 4, 0, 4000000000), (0x44, 4, 10000, 10000000)]

/-- Whether an image has a field outside its range or a reserved byte that is not zero (row 6 of R376, R397). -/
def chartReserved (img : List Byte) : Bool :=
  let bad (r : Nat × Nat × Nat × Nat) : Bool :=
    let v := fieldAt img r.1 r.2.1
    decide (v < r.2.2.1) || decide (r.2.2.2 < v)
  let up (i : Nat) : Bool :=
    let v := fieldAt img (0x18 + i) 1
    decide (48 ≤ v) && decide (v ≠ 255)
  chartRanges.any bad || (List.range 4).any up || (img.drop 0x48).any fun b => b != 0

/-- The reference VCORE and VSRAM of an operating point in 0.1 mV (R30). -/
def reference (op : Nat) : Nat × Nat :=
  match op with
  | 0 => (7200, 7500)
  | 1 => (6600, 7000)
  | 2 => (6000, 7000)
  | _ => (5600, 7000)

/-- The halves in the order of R15. -/
def halves : List Half := [.west, .east]

/-- Whether a half is enabled by a chart. -/
def Chart.on (c : Chart) : Half → Bool
  | .west => c.west
  | .east => c.east

/-- The quays that a chart enables. -/
def Chart.quayOn (c : Chart) (q : Nat) : Bool := bitOf c.quayEnable q

/-- Whether a chart passes R397 beside the ranges of its fields. -/
def Chart.valid (c : Chart) : Bool :=
  let r := (reference c.opPoint).1
  let up := c.tideUpstream.filter fun q => q != 255
  c.intact && decide (c.slackFloor ≤ c.slackMargin) && decide (c.vmin ≤ c.vmax) && decide (25 * c.vmin ≤ r ∧ r ≤ 25 * c.vmax) &&
    decide (c.fabricCycle % 16 = 0 ∧ c.fabricCycle % max 1 c.strokePeriod = 0) &&
    (c.west || (c.quayEnable % 2 ^ 24 == 0 && c.galleryRegions % 256 == 0)) &&
    (c.east || (c.quayEnable / 2 ^ 24 % 2 ^ 24 == 0 && c.galleryRegions / 256 == 0)) &&
    up.all c.quayOn && (c.tideRole == .follower || up.isEmpty)

/-- Chart `n` as the device holds it. -/
def State.chartAt (s : State) (n : Nat) : Chart := if n = 0 then Chart.shipped0 else s.dev.stored.getD (n - 1) Chart.shipped0

/-! ### CHART_READ and CHART_WRITE -/

/-- CHART_READ (R377). -/
def chartReadBody : CmdBody :=
  { plainBody (fun s _ p => done s ((s.chartAt (fieldAt p 0 1)).image (fieldAt p 0 1))) with
    reserved := fun _ p => decide (4 ≤ fieldAt p 0 1), replyLen := fun _ _ => 512 }

/-- Check-value unit `k` of the harbourmaster computes the CRC-32C of a byte string and compares it; `ok`: it is the value expected. The firmware uses unit 0
for chart images and unit 1 for plan images (R454; DESIGN CHOICE, log entry 83: no rule says which unit it uses). An armed 0x001B takes the compare as a
mismatch (R432). -/
def State.hmCompare (s : State) (k : Nat) (ok : Bool) (bytes : List Byte) : State × Bool :=
  let u : Fin 136 := Fin.ofNat 136 (128 + k)
  let inj := s.armed 0x1B (0x100 + k)
  let s := (if inj then s.disarm 0x1B (0x100 + k) else s).count (.cvuCount u) 63 32 1
  if ok && !inj then (s, true)
  else
    let v := crc32c bytes
    let s := (s.count (.cvuCount u) 31 0 1).setReg (.cvuLast u) (BitVec.ofNat 64 v)
    (s.raise { causeEvent 14 (.cvuCause u) 0 srcHm [k, v] with injected := inj }, false)

/-- CHART_WRITE (R395, R397). -/
def chartWriteBody : CmdBody :=
  { plainBody (fun s _ p =>
      let n := fieldAt p 0 1
      let img := sliceBytes p 0x40 512
      let c := chartOf img n
      if n = 0 then refuse s 0x0102
      else
        let k := s.hmCompare 0 (fieldAt img 4 4 == crc32c (img.drop 8)) (img.drop 8)
        if !(c.valid && k.2) then refuse k.1 0x0103
        else done { k.1 with dev := { s.dev with stored := listSet s.dev.stored (n - 1) c } } []) with
    reserved := fun _ p => decide (4 ≤ fieldAt p 0 1) || (sliceBytes p 1 63).any (fun b => b != 0) || chartReserved (sliceBytes p 0x40 512) }

/-! ### Self-test, numbering, training and fill of a half (R15–R18, R234, R241) -/

/-- Notes the self-test of a half's positions. -/
def State.selfTest (s : State) (h : Half) (failed : List Nat) : State :=
  let mine (p : Nat) : Bool := p / 72 == h.index
  { s with dev := { s.dev with testBad := (s.dev.testBad.filter fun p => !mine p) ++ failed.filter mine } }

/-- Whether a position is good (R15). -/
def State.goodPos (s : State) (p : Nat) : Bool := !s.dev.fuseBad.contains p && !s.dev.testBad.contains p

/-- The numbering of a half: the logical cores by position, and how many (R15). -/
def State.numbering (s : State) (h : Half) : List (Nat × Nat) × Nat :=
  let base := if h = .west then 0 else s.perHalf
  let one (acc : List (Nat × Nat) × Nat × Nat) (i : Nat) : List (Nat × Nat) × Nat × Nat :=
    let taken := if i % 9 = 0 then 0 else acc.2.2
    let p := 72 * h.index + i
    if acc.2.1 < s.perHalf ∧ taken < 8 ∧ s.goodPos p then (acc.1 ++ [(p, base + acc.2.1)], acc.2.1 + 1, taken + 1)
    else (acc.1, acc.2.1, taken)
  let r := (List.range 72).foldl one ([], 0, 0)
  (r.1, r.2.1)

/-- The map of a half is lost (R18), and no position of it is numbered. -/
def State.unnumber (s : State) (h : Half) : State :=
  { s with dev := { s.dev with map := s.dev.map.filter (fun e => e.1 / 72 != h.index), foundW := if h = .west then none else s.dev.foundW,
                               foundE := if h = .east then none else s.dev.foundE } }

/-- Numbers a half; the flag says whether it has its H cores (R15, R17). -/
def State.number (s : State) (h : Half) : State × Bool :=
  let s := s.unnumber h
  let r := s.numbering h
  let map := r.1.foldl (fun m e => Tab.put m e.1 e.2) s.dev.map
  let s : State := { s with dev := { s.dev with map := map, foundW := if h = .west then some r.2 else s.dev.foundW,
                                                foundE := if h = .east then some r.2 else s.dev.foundE } }
  (s, decide (s.perHalf ≤ r.2))

/-- Clears a range of local space to check-valid zeros, without poison or stored errors (R220, R241). -/
def State.fillRange (s : State) (lo hi : Nat) : State :=
  { s with mem := Tab.eraseRange s.mem lo hi, poison := s.poison.filter fun u => !(decide (lo ≤ u) && decide (u < hi)),
           onDie := { s.onDie with rowErrs := Tab.eraseRange s.onDie.rowErrs lo hi },
           main := { s.main with burstErrs := Tab.eraseRange s.main.burstErrs (lo / 256) (ceilDiv hi 256),
                                 failed := s.main.failed.filter fun l => !(decide (lo / 256 ≤ l) && decide (l < ceilDiv hi 256)) } }

/-- Fills slices of the gallery, with their sum stores. -/
def State.fillSlices (s : State) (lo hi : Nat) : State := (s.fillRange (sliceBase lo) (sliceBase hi)).fillRange (sumStore lo) (sumStore hi)

/-- Fills a half's main memory, gallery, sum stores and pads (R241, R392). -/
def State.fillHalf (s : State) (h : Half) : State :=
  let i := h.index
  let c0 := s.perHalf * i
  ((s.fillRange (0x8000000000 * i) (0x8000000000 * (i + 1))).fillSlices (64 * i) (64 * (i + 1))).fillRange (padBase c0) (padBase (c0 + s.perHalf))

/-- Fills a gallery region (R220). -/
def State.fillRegion (s : State) (r : Nat) : State := s.fillSlices (8 * r) (8 * r + 8)

/-- What a half holds is lost with its power, the feed buffers and accumulator banks of its cores with the rest (R399). -/
def State.loseHalf (s : State) (h : Half) : State :=
  let c0 := s.perHalf * h.index
  let s := (s.fillHalf h).unnumber h
  (s.fillRange (feedStore + 2 ^ 20 * c0) (feedStore + 2 ^ 20 * (c0 + s.perHalf))).fillRange (accStore + 2 ^ 19 * c0) (accStore + 2 ^ 19 * (c0 + s.perHalf))

/-- What a chart enables that another enables too. -/
def Chart.within (c : Chart) (by_ : Chart) : Chart :=
  { c with west := c.west && by_.west, east := c.east && by_.east, quayEnable := c.quayEnable &&& by_.quayEnable,
           galleryRegions := c.galleryRegions &&& by_.galleryRegions }

/-- A package of an enabled half fails its training: it is DEAD at once, and a group that then has two erased packages is lost (R234, R235,
R241). -/
def State.trainLost (s : State) (package : Nat) : State × Bool :=
  let g := package / 9
  let other := (s.erasedPackages g).any fun p => p != package
  let h : Half := if package < 18 then .west else .east
  let s := s.applyMark (0, package, 0)
  let ev (s : State) (bit kind : Nat) : State :=
    s.raise { causeAlarm 7 (.memCause h) bit (srcPackage package) (memItems (lineOf g 0 0) kind package [] 0 0xFF) with line := package }
  let s := ev s 4 0x06
  (if other then ev s 5 0x07 else s, other)

/-- The training of the halves that `on` selects: the failed packages are marked; the flag says that a group was lost. -/
def State.trainMemory (s : State) (on : Half → Bool) (failed : List Nat) : State × Bool :=
  let mine := failed.filter fun p => on (if p < 18 then .west else .east)
  mine.foldl (fun (a : State × Bool) p =>
    let r := a.1.trainLost p
    (r.1, a.2 || r.2)) (s, false)

/-! ### CHART_SELECT (R399) -/

/-- The rails of both halves are settled. -/
def State.settleRails (s : State) : State :=
  let s := s.setGov .west (s.gov .west).settled
  s.setGov .east (s.gov .east).settled

/-- Moves the rails of a half under a chart, in the order of R49: to the references of a new operating point; where it is unchanged, to the voltage in
force clamped into the new range. A disabled half goes low, VCORE first and VSRAM after it (R392, R399). -/
def State.moveRails (s : State) (c : Chart) (fresh : Bool) (h : Half) : State :=
  let g := s.gov h
  let low : Governor := { g with vcore := 5500, coreNext := none, sramNext := if g.vsram = 7000 then none else some 7000 }
  s.setGov h (if !c.on h then low else g.move (if fresh then (reference c.opPoint).1 else max (25 * c.vmin) (min g.aim (25 * c.vmax))))

/-- The addresses at which the outcome of an access changes (R21): the starts of the ranges, and of every slice and pad. -/
def mapEdges : List Nat :=
  [0x8000000000, 0x10000000000, 0x20050000000] ++ (List.range 641).map fun i => 0x20000000000 + 0x200000 * i

/-- The addresses at which a range may change its completion: its ends and the map's edges within it. -/
def rangePoints (base size : Nat) : List Nat :=
  if size = 0 then [base] else [base, base + size - 1] ++ mapEdges.filter fun a => decide (base ≤ a) && decide (a < base + size)

/-- The ways other than `ok` in which a range completes. -/
def State.rangeBad (s : State) (base size : Nat) : List Mapped :=
  ((rangePoints base size).map s.mapped).filter fun m => m != .ok

/-- Whether a service allocation or manifest lies in what a chart disables (step 1 of R399). -/
def State.chartInUse (s : State) (c : Chart) : Bool :=
  let t : State := { s with dev := { s.dev with chart := c } }
  let off (base size : Nat) : Bool := (t.rangeBad base size).any fun m => m == .offline || m == .regionOff
  s.dev.allocs.any (fun e => off e.2.1 e.2.2) || s.dev.services.any fun e => off e.2.allocBase e.2.allocSize

/-- Step 2 of R399: quays that the new chart does not enable go dark; the halves and regions that it disables are gated and lose their contents. Until the
new chart applies, the chart in force serves what both enable. -/
def State.chartGate (s : State) (c : Chart) : State :=
  let old := s.dev.chart
  let s := (List.range 48).foldl (fun s q => if c.quayOn q then s else s.disableQuay q) s
  let s := (halves.filter fun h => old.on h && !c.on h).foldl State.loseHalf s
  let s := ((List.range 16).filter fun r => bitOf old.galleryRegions r && !bitOf c.galleryRegions r).foldl State.fillRegion s
  { s with dev := { s.dev with chart := old.within c } }

/-- CHART_SELECT: the checks, and steps 2 and 3 as far as the rails go; the rest follows at its completion. -/
def chartSelectBody : CmdBody :=
  { plainBody (fun s d p =>
      let n := fieldAt p 0 1
      let c := s.chartAt n
      let k := s.hmCompare 0 c.intact ((c.image n).drop 8)
      let s := k.1
      if !(c.valid && k.2) then refuse s 0x0103
      else if s.chartInUse c then refuse s 0x0104
      else
        let s := s.chartGate c
        let fresh (h : Half) : Bool := c.opPoint != s.dev.chart.opPoint || !s.halfOn h
        let s := (s.moveRails c (fresh .west) .west).moveRails c (fresh .east) .east
        going { s with dev := { s.dev with selecting := some (n, d, d.mb) } }) with
    reserved := fun _ p => decide (4 ≤ fieldAt p 0 1) }

/-- Numbers the halves that `on` selects, in order; the flag says whether every one has its cores. -/
def State.numberAll (s : State) (on : Half → Bool) : State × Bool :=
  (halves.filter on).foldl (fun (a : State × Bool) h => if a.2 then a.1.number h else a) (s, true)

/-- Starts the training of every quay that a list names. -/
def State.trainQuays (s : State) (qs : List Nat) : State := qs.foldl State.startTraining s

/-- Steps 3 to 5 of R399 at their end, and the reply. -/
def State.chartApply (s : State) (n : Nat) (failed packages : List Nat) : State :=
  let s := s.settleRails
  let old := s.dev.chart
  let c := s.chartAt n
  let new (h : Half) : Bool := c.on h && !old.on h
  let s := (List.range 16).foldl (fun s r => if bitOf c.galleryRegions r == bitOf old.galleryRegions r then s else s.fillRegion r) s
  let s : State := { s with dev := { s.dev with chart := c, chartNo := n, selecting := none } }
  let s := (halves.filter new).foldl (fun s h => s.selfTest h failed) s
  let t := s.trainMemory new packages
  if t.2 then t.1.enterFault 2
  else
    let m := t.1.numberAll new
    if !m.2 then m.1.enterFault 1
    else
      let s := ((halves.filter new).foldl State.fillHalf m.1).measure 2 (c.image n)
      let restart := c.tideRole != old.tideRole || c.strokePeriod != old.strokePeriod || c.fabricCycle != old.fabricCycle
      let s := if restart then s.startTide else s
      let qs := (List.range 48).filter fun q => c.quayOn q && (restart || !old.quayOn q)
      (s.trainQuays qs).finishL 0 []

/-- CHART_SELECT_COMPLETE. -/
def State.chartSelectComplete (s : State) (failed packages : List Nat) : State :=
  match s.dev.selecting with
  | some (n, _, _) => if s.running 0x06 ∧ !s.tripped then s.chartApply n failed packages else s
  | none => s

end Sys2Proof.Machine
end

