-- ==== Sys2Proof/Machine/RunCmd.lean ====
section
/-! DEFINITION. Commands that set the tide and the fabric, run, hold, drain and recover a plan (R40, R58, R251, R252, R378–R381, R402, R403). -/

namespace Sys2Proof.Machine

/-! ### TIDE_SET (R40) -/

/-- TIDE_SET: the count takes effect at the next TIDE_PPS edge. -/
def tideSetBody : CmdBody := plainBody fun s _ p =>
  let v := fieldAt p 0 8
  if s.tide.role ≠ .source then refuse s 0x0105
  else if v % 1000000000 ≠ 0 then refuse s 0x0106
  else if !s.tide.ppsPresent then refuse s 0x0107
  else going { s with tide := { s.tide with pendingSet := some v } }

/-! ### FABRIC_CONFIG and QUAY_TRAIN (R251, R252) -/

/-- The chips of a hall map, of which bit c of byte c / 8 stands for chip c. -/
def hallChips (map : List Byte) : List Nat :=
  ((List.range map.length).zip map).flatMap fun e => (List.range 8).filterMap fun i => if bitOf e.2.toNat i then some (8 * e.1 + i) else none

/-- The configuration of quay `q` in a FABRIC_CONFIG payload. -/
def quayConfig (p : List Byte) (s : State) (q : Nat) : State :=
  let o := 8 + 8 * q
  let s := s.setQuay q { s.quay q with expectChip := fieldAt p o 2, expectQuay := fieldAt p (o + 2) 1 }
  s.setReg (.tideAsym (Fin.ofNat 48 q)) (BitVec.ofNat 64 (fieldAt p (o + 4) 4))

/-- Whether a FABRIC_CONFIG payload is consistent: the expected quays exist, and the own chip is in a hall map that names any chip (log
entry 30). -/
def fabricConfigOk (p : List Byte) : Bool :=
  let quaysOk := (List.range 48).all fun q => decide (fieldAt p (8 + 8 * q + 2) 1 < 48)
  let hall := hallChips (sliceBytes p 0x188 8192)
  quaysOk && (hall.isEmpty || hall.contains (fieldAt p 0 2))

/-- FABRIC_CONFIG: the own chip, the expected peers, the asymmetries and the hall map. -/
def fabricConfigBody : CmdBody :=
  { plainBody (fun s _ p =>
      if !fabricConfigOk p then refuse s 0x0108
      else
        let s : State := { s with fab := { s.fab with chip := fieldAt p 0 2, configured := true, hall := hallChips (sliceBytes p 0x188 8192) } }
        done (((List.range 48).foldl (quayConfig p) s).measure 4 p) []) with
    reserved := fun _ p => (sliceBytes p 2 6).any (fun b => b != 0) || (List.range 48).any fun q => decide (fieldAt p (8 + 8 * q + 3) 1 ≠ 0) }

/-- The quays of a 48-bit mask. -/
def quaysOf (mask : Nat) : List Nat := (List.range 48).filter fun q => bitOf mask q

/-- The mask of the quays of a list. -/
def quayMask (qs : List Nat) : Nat := qs.foldl (fun m q => m + 2 ^ q) 0

/-- The reply of QUAY_TRAIN: the named quays in service, and those failed. -/
def State.trainReply (s : State) (mask : Nat) : List Byte :=
  leBytes 8 (quayMask ((quaysOf mask).filter fun q => s.inService q)) ++ leBytes 8 (quayMask ((quaysOf mask).filter fun q => s.quayState q == 6))

/-- QUAY_TRAIN: every named quay that the chart enables trains; another stays dark with cause DISABLED (R251). -/
def quayTrainBody : CmdBody :=
  { plainBody (fun s _ p =>
      let mask := fieldAt p 0 8
      if mask = 0 then noop s
      else if (quaysOf mask).any fun q => !s.halfOn (quayHalf q) then refuse s 0x0283
      else
        let one (s : State) (q : Nat) : State := if s.dev.chart.quayOn q then s.startTraining q else s.disableQuay q
        let s := (quaysOf mask).foldl one s
        if (quaysOf mask).any s.training then going s else done s (s.trainReply mask)) with
    reserved := fun _ p => decide (fieldAt p 6 2 ≠ 0) }

/-- A running QUAY_TRAIN replies when none of its quays trains any more. -/
def State.trainCheck (s : State) : State :=
  match s.host.busy with
  | some r =>
    let mask := fieldAt r.desc.bytes 0 8
    if r.opcode = 0x12 ∧ !(quaysOf mask).any s.training then s.finishL 0 (s.trainReply mask) else s
  | none => s

/-! ### The plan's own state (R403, R482) -/

/-- A lock as the plan image initialises it. -/
def State.initLock (s : State) (l : LockInit) : State :=
  let c := lockCore l.key
  let n := lockNo l.key
  let s := (s.setReg (.lockCfg c n) l.cfg).setReg (.lockState c n) (BitVec.ofNat 64 (l.round * 2 ^ 32))
  let s := (s.setReg (.lockDlBase c n) l.dlBase).setReg (.lockDlPeriod c n) l.dlPeriod
  s.setReg (.lockSideband c n) sideUnit

/-- The contexts of a plan are FREE, its locks, berths and counters are as its image gives them, its sum windows and channels are empty. -/
def State.initPlanState (s : State) (p : Plan) : State :=
  let s : State := { s with strands := [], signals := [], lockx := [], ops := [],
                            onDie := { s.onDie with sumHeld := [], sumEarly := [], ordinals := [], leafDone := [], reqs := [] },
                            main := { s.main with uses := [] },
                            red := { s.red with runs := [], store := [], outputs := [] }, run := { s.run with dirty := 0 } }
  let s := p.locks.foldl State.initLock s
  let s := p.berths.foldl (fun s b => s.setBerth b.1 b.2.1 b.2.2.toNat) s
  let s := (List.range 2048).foldl (fun s i => s.setReg (.sumState (Fin.ofNat 128 (i / 16)) (Fin.ofNat 16 i)) 0) s
  let clear (s : State) (h : Half) : State :=
    (List.range 256).foldl (fun s i => s.setReg (.redChanState h (Fin.ofNat 256 i)) 0) (s.setReg (.redStepStatus h) 3)
  clear (clear s .west) .east

/-- The entry strands of a plan, READY at their entries with their initial registers; every other context is FREE (R482). -/
def State.startStrands (s : State) (p : Plan) (b : Nat) : State :=
  let s : State := { s with strands := [] }
  p.entries.foldl (fun s e =>
    s.setStrand e.1 { Strand.idle with status := .ready, pc := BitVec.ofNat 15 e.2.1, notBefore := b,
                                       regs := e.2.2.foldl (fun t r => Tab.set 0 t r.1 r.2) [] }) s

/-! ### RUN, PLAN_START, RESUME_START (R58, R378) -/

/-- The schedule period of a plan: lcm(FABRIC_CYCLE, 3,840 ns) (R58). -/
def Plan.schedule (p : Plan) : Nat := Nat.lcm p.fabricCycle 3840

/-- Whether the tide is locked for RUN (R378). -/
def State.tideLocked (s : State) : Bool :=
  if s.tide.role = .source then s.tide.ppsPresent else s.tide.state == .locked

/-- Whether a half's slack, regulator or temperature still holds the chip (R48, R50, R51, R240). -/
def State.halfHolds (s : State) (h : Half) : Bool :=
  let g := s.gov h
  let floor : Int := s.dev.chart.slackFloor
  s.halfOn h && (g.failed || g.sramFailed || (g.periodSlip || ((!g.history.isEmpty && decide (g.slackNow < floor)) || s.main.hot.getD h.index false)))

/-- Whether a primary cause still holds: its condition is there (R58, R240; log entry 31). -/
def State.slipHolds (s : State) : Bool :=
  s.halfHolds .west || s.halfHolds .east || s.env.thermW || s.env.thermE || s.env.capOver ||
    (s.tide.role == .follower && (s.tide.state == .locked || s.tide.state == .holdover) && decide (100 * s.dev.chart.tideTolerance < s.estErr))

/-- RUN in LOADED: the plan starts at START_TIDE. -/
def State.runStart (s : State) (p : Plan) (start : Nat) : CmdOut :=
  if start % p.schedule ≠ 0 then refuse s 0x010A
  else if start < s.now + 1000000 then refuse s 0x010B
  else
    let r : RunCtl :=
      { s.run with startAt := some start, stopFrom := none, resumeAt := none, holdAt := none, injLate := [], cutResume := none, heldAt := none, shifts := [] }
    let s : State := { s with run := r, fab := { s.fab with origin := start / max 1 p.fabricCycle, shiftSum := 0 } }
    done (s.enter .running 0x22) []

/-- The boundaries from which the engines are free, shifted with the operations that have still to start on them (R59). -/
def State.shiftEngines (s : State) (delta : Nat) : State :=
  let on (t : Tab Nat) : Tab Nat := t.map fun e => (e.1, e.2 + delta)
  { s with easelFree := on s.easelFree, bankFree := on s.bankFree, pipeFree := on s.pipeFree, varnishFree := on s.varnishFree,
           vectorFree := on s.vectorFree,
           main := { s.main with queueFree := s.main.queueFree.map fun e => (e.1, e.2 + delta / 160) } }

/-- A strand as a resume by Δ finds it: an operation that it has not issued moves from its scheduled start to that start + Δ, and a wait that is still
unsatisfied moves with it (R58). `stop`: the first boundary at which the stop barred issue; `last`: the boundary of the entry to HELD. A wait that was satisfied
in HELD has waited across the stop, and its strand goes on at the resume (R59). -/
def Strand.shifted (stop last delta : Nat) (st : Strand) : Strand :=
  { st with wait := st.wait.map fun w => { w with since := w.since + delta, due := if w.due = 0 then 0 else w.due + delta }
            notBefore := if st.status = .ready then (if st.notBefore ≤ last then max st.notBefore stop else stop) + delta else st.notBefore }

/-- A resume shifts what has not passed: the unissued operations, the engines' boundaries, the lock deadlines, the schedules of the waits, a start still to
come (R58, R59). -/
def State.shiftPlan (s : State) (p : Plan) (delta : Nat) : State :=
  let lock (s : State) (l : LockInit) : State :=
    let r := Reg.lockDlBase (lockCore l.key) (lockNo l.key)
    s.setReg r (s.reg r + BitVec.ofNat 64 delta)
  let s := p.locks.foldl lock s
  let s := s.shiftEngines delta
  let r : RunCtl :=
    { s.run with shifts := s.run.shifts ++ [((s.reg .stopSched).toNat, delta)], cutResume := none, startAt := s.run.startAt.map fun t => t + delta
                 injLate := s.run.injLate.map fun x => (x.1, x.2.1, x.2.2.1, x.2.2.2 + delta) }
  { s with strands := s.strands.map (fun e => (e.1, e.2.shifted (s.run.stopFrom.getD 0) (s.run.heldAt.getD 0 + s.period) delta)), run := r,
           fab := { s.fab with shiftSum := s.fab.shiftSum + delta / max 1 p.fabricCycle } }

/-- RUN in HELD: the plan resumes at STOP_SCHED + Δ. -/
def State.runResume (s : State) (p : Plan) (delta : Nat) : CmdOut :=
  let t := (s.reg .stopSched).toNat + delta
  if delta % p.schedule ≠ 0 then refuse s 0x010C
  else if s.slipHolds then refuse s 0x010D
  else if t < s.now + 1000000 then refuse s 0x010E
  else
    let s := s.shiftPlan p delta
    let s : State := { s with run := { s.run with resumeAt := some (t, delta) } }
    done (s.enter .running 0x22) []

/-- RUN (R378, R402). -/
def runBody : CmdBody :=
  { plainBody (fun s _ p =>
      match s.plan with
      | none => refuse s 0x0014
      | some plan =>
        if s.dev.holdLow then refuse s 0x0110
        else if s.run.dirty ≠ 0 then refuse s 0x0266
        else if plan.hasFlows ∧ !s.tideLocked then refuse s 0x0109
        else if s.dev.state = .loaded then s.runStart plan (fieldAt p 0 8)
        else s.runResume plan (fieldAt p 8 8)) with
    reserved := fun s p =>
      let start := fieldAt p 0 8
      let delta := fieldAt p 8 8
      match s.dev.state with
      | .loaded => delta != 0
      | .held => start != 0
      | _ => start != 0 && delta != 0 }

/-- PLAN_START: at START_TIDE the entry strands become READY. -/
def State.planStart (s : State) : State :=
  match s.plan, s.run.startAt with
  | some p, some t =>
    if s.dev.state = .running ∧ t ≤ s.now ∧ s.run.stopFrom.isNone then
      { s.startStrands p t with run := { s.run with startAt := none } }
    else s
  | _, _ => s

def execPlanStart (s : State) : Host.Outcome State Fault Refusal := .next s.planStart

/-- RESUME_START: at STOP_SCHED + Δ the stop ends. -/
def State.resumeStart (s : State) : State :=
  match s.run.resumeAt with
  | some (t, _) =>
    if s.dev.state = .running ∧ t ≤ s.now then { s with run := { s.run with stopFrom := none, resumeAt := none } } else s
  | none => s

def execResumeStart (s : State) : Host.Outcome State Fault Refusal := .next s.resumeStart

/-! ### HOLD (R379, R402) -/

/-- HOLD. -/
def holdBody : CmdBody := plainBody fun s _ p =>
  let t := fieldAt p 0 8
  if t ≠ 0 ∧ t < s.now + 100000 then refuse s 0x010F
  else
    let b := if t = 0 then s.boundaryAt (s.now + 1) else s.boundaryAt t
    going { s with run := { s.run with holdAt := some (b, 0x0400) } }

/-- HOST_HOLD: at its boundary the device stops issue as for a slip, and logs the cause; STOP_CAUSE is unchanged. -/
def State.hostHold (s : State) : State :=
  match s.run.holdAt with
  | some (b, code) =>
    if s.dev.state = .running ∧ b ≤ s.now then
      let s : State := { s with run := { s.run with holdAt := none } }
      let s := s.raise (plainEvent code srcHm [])
      if s.mayStop then s.stopIssue s.boundary code else s
    else s
  | none => s

def execHostHold (s : State) : Host.Outcome State Fault Refusal := .next s.hostHold

/-- HOLD_PIN: the board's levels change; HOLD_N low in RUNNING acts as a HOLD at once, and CHART_SEL is sampled at BOOT entry only (R402, R409). -/
def State.holdPin (s : State) (p : PinLevels) : State :=
  let s : State := { s with dev := { s.dev with holdLow := p.holdLow, pins := p.chartSel.val } }
  if p.holdLow ∧ s.dev.state = .running then { s with run := { s.run with holdAt := some (s.boundaryAt (s.now + 1), 0x0401) } } else s

def execHoldPin (pins : PinLevels) (s : State) : Host.Outcome State Fault Refusal := .next (s.holdPin pins)

/-! ### DRAIN (R380) -/

/-- A strand that a DRAIN frees. -/
def Strand.drained (st : Strand) : Strand :=
  match st.status with
  | .ready => { st with status := .free, wait := none }
  | .waiting => { st with status := .free, wait := none }
  | .parked => { st with status := .free, wait := none }
  | _ => st

/-- DRAIN. In RUNNING the device stops from the next boundary, where no stop already holds it from an earlier one (R380). -/
def drainBody : CmdBody := plainBody fun s _ _ =>
  let b := s.boundaryAt (s.now + 1)
  let s := if s.dev.state = .running ∧ s.run.stopFrom.isNone then s.setReg .stopSched (BitVec.ofNat 64 (s.firstUnissued b)) else s
  let s : State := { s with strands := s.strands.map fun e => (e.1, e.2.drained),
                            run := { s.run with stopFrom := some (s.run.stopFrom.getD b), startAt := none, resumeAt := none, holdAt := none, cutResume := none, drainFrom := some s.now, injLate := [] } }
  going (s.enter .draining 0x24)

/-- Whether a reduction is under way: a channel is armed. -/
def State.reducing (s : State) : Bool :=
  s.red.channels.any fun e => s.armedNow e.2 e.1

/-- DRAIN_ABANDONED: 10 ms after the entry to DRAINING, class F operations and reductions that still wait are abandoned and logged. -/
def State.drainAbandoned (s : State) : State :=
  match s.run.drainFrom with
  | some t =>
    if s.dev.state = .draining ∧ t + 10000000 ≤ s.now then
      let left := s.ops.filter fun o => o.engine == .fabric && !s.remoteDone o.remote
      let chans := s.red.channels.filter fun e => s.armedNow e.2 e.1
      let s := left.foldl (fun s o => s.raise (plainEvent 0x0406 (srcCore o.core) [ctxOf o.strand, o.pc])) s
      let drop (s : State) (e : Nat × Channel) : State :=
        let r := Reg.redStepStatus e.2.half
        ((s.setFld (e.2.stateReg e.1) 1 1 0).setFld r 31 16 (s.fld r 31 16 - 1)).raise (plainEvent 0x0406 (srcChannel e.1) [e.1])
      let s := chans.foldl drop s
      { s with ops := s.ops.filter fun o => !left.contains o,
               red := if chans.isEmpty then s.red else { s.red with store := [], outputs := [] } }
    else s
  | none => s

def execDrainAbandoned (s : State) : Host.Outcome State Fault Refusal := .next s.drainAbandoned

/-- DRAIN_COMPLETE: nothing is in flight; the check of R171 runs, the device is LOADED and DRAIN replies. -/
def State.drainComplete (s : State) : State :=
  match s.plan with
  | some p =>
    if s.dev.state = .draining ∧ s.ops.isEmpty ∧ !s.reducing then
      let s := s.taskEnd p
      let s : State := { s with run := { s.run with stopFrom := none, drainFrom := none } }
      let s := s.enter .loaded 0x24
      s.finishL 0 (leBytes 4 s.run.dirty ++ leBytes 4 (s.regNow .detStatus).toNat)
    else s
  | none => s

/-! ### RECOVERY (R381, R403) -/

/-- RECOVER_ENTER. -/
def recoverEnterBody : CmdBody := plainBody fun s _ _ => done ((s.measureEvent 0x25).enter .recovery 0x25) []

/-- RECOVER_EXIT: the plan's own state is as its image gives it (R403). -/
def recoverExitBody : CmdBody := plainBody fun s _ _ =>
  match s.plan with
  | some p => done ((s.initPlanState p).enter .loaded 0x26) []
  | none => done (s.enter .loaded 0x26) []

/-- The entries of a copy: pieces that cross no 256-byte boundary on either side (R269). -/
def copyEntries : Nat → Nat → Nat → Nat → List (Nat × Nat × Nat)
  | 0, _, _, _ => []
  | fuel + 1, src, dst, len =>
    if len = 0 then []
    else
      let n := min len (min (256 - src % 256) (256 - dst % 256))
      (src, dst, n) :: copyEntries fuel (src + n) (dst + n) (len - n)

/-- All entries of a copy. -/
def copyPieces (src dst len : Nat) : List (Nat × Nat × Nat) := copyEntries (len / 64 + 3) src dst len

/-- Whether a range lies within one service allocation. -/
def State.allocHolds (s : State) (a n : Nat) : Bool := s.dev.allocs.any fun e => decide (e.2.1 ≤ a) && decide (a + n ≤ e.2.1 + e.2.2)

/-- A copy within the chip, in service slots: bytes and poison marks move unchanged, in whole code words and lines where they cover them (R216, R232, R233). -/
def State.localCopy (s : State) (dst src len : Nat) : State × Bool :=
  let s := (s.sense src len).senseLines src len 3 0xFF
  let one (acc : State × Bool) (e : Nat × Nat × Nat) : State × Bool :=
    let bad := acc.1.poisonedRange e.1 e.2.2
    let bs := acc.1.readBytes e.1 e.2.2
    (if bad then acc.1.memWritePoison 0xFF e.2.1 bs else acc.1.memWriteFrom 3 0xFF e.2.1 bs, acc.2 || bad)
  (copyUnits (src, dst, len)).foldl one (s.logBad srcHm (s.badRanges src len), false)
where
  /-- The code words or lines of a copy at its destination. -/
  copyUnits (e : Nat × Nat × Nat) : List (Nat × Nat × Nat) :=
    let u := unitLen e.2.1
    (List.range (ceilDiv (e.2.1 % u + e.2.2) u)).map fun i =>
      let lo := if i = 0 then 0 else u * i - e.2.1 % u
      (e.1 + lo, e.2.1 + lo, min (if i = 0 then u - e.2.1 % u else u) (e.2.2 - lo))

/-- A copy from a peer chip: LOAD_REQ cells on the flow (R269, R381). -/
def State.remoteCopy (s : State) (flow dst src len : Nat) : State :=
  let es := copyPieces src dst len
  let send (s : State) (g : List (Nat × Nat × Nat)) : State := s.sendCell flow 0x02 0 0 0 (loadPayload g) s.nowPs
  let s := (groupsOf 16 (es.length + 1) es).foldl send s
  let o : InFlight :=
    { id := s.nextOp, strand := copyKey, core := 128, pc := 0, engine := .fabric, kind := .plain, tag := none, regs := [], issue := s.now,
      start := s.now, vis := s.now, late := false, later := none, effects := [], remote := .loads (es.map fun e => e.2.1) }
  { s with ops := s.ops ++ [o], nextOp := s.nextOp + 1, run := { s.run with copyPoison := false } }

/-- RECOVER_COPY (R381). -/
def recoverCopyBody : CmdBody := plainBody fun s _ p =>
  let dst := fieldAt p 0 8
  let src := fieldAt p 8 8
  let len := fieldAt p 16 8
  let flow := fieldAt p 24 2
  if len = 0 then noop s
  else if !s.allocHolds dst len then refuse s 0x0113
  else if flow = 0xFFFF then
    let r := (s.measureEvent 0x27).localCopy dst src len
    if r.2 then { done r.1 (leBytes 8 len) with code := 0x0616 } else done r.1 (leBytes 8 len)
  else
    let f := s.flow flow
    if f.role ≠ 1 ∨ f.broken then refuse s 0x0320 else going ((s.measureEvent 0x27).remoteCopy flow dst src len)

/-- The addresses that a running RECOVER_COPY still waits for. -/
def State.copyMissing (s : State) : List Nat :=
  match s.ops.find? fun o => o.strand == copyKey with
  | some o =>
    match o.remote with
    | .loads as => as
    | _ => []
  | none => []

/-- A running RECOVER_COPY ends, with the bytes copied and DATA_POISON where a cell of it arrived poisoned. -/
def State.copyEnd (s : State) (code : Nat) (missing : List Nat) : State :=
  match s.host.busy with
  | none => s
  | some r =>
    let p := r.desc.bytes
    let dst := fieldAt p 0 8
    let len := fieldAt p 16 8
    let lost := ((copyPieces (fieldAt p 8 8) dst len).filter fun e => missing.contains e.2.1).foldl (fun n e => n + e.2.2) 0
    let code := if code = 0 ∧ s.run.copyPoison then 0x0616 else code
    ({ s with ops := s.ops.filter fun o => o.strand != copyKey } : State).finishL code (leBytes 8 (len - lost))

/-- A running RECOVER_COPY replies when its last response has committed. -/
def State.copyCheck (s : State) : State := if s.running 0x27 ∧ s.copyMissing.isEmpty then s.copyEnd 0 [] else s

/-- RECOVER_TIMEOUT: a response is still missing 10 ms after the last request left. -/
def State.recoverTimeout (s : State) : State :=
  let flow := (s.host.busy.map fun r => fieldAt r.desc.bytes 24 2).getD 0
  let left := !((s.flow flow).queue.any fun q => q.cell.kind == 2)
  let since := s.ops.any fun o => o.strand == copyKey && decide (o.issue + 10000000 ≤ s.now)
  if s.running 0x27 ∧ left ∧ since then s.copyEnd 0x0117 s.copyMissing else s

end Sys2Proof.Machine
end

