-- ==== Sys2Proof/Machine/MemCmd.lean ====
section
/-! DEFINITION. Manifest records and their validation (R174–R182, R188), service allocations and manifests (R382, R385), erasures and retired
pages (R236, R242). -/

namespace Sys2Proof.Machine

/-! ### Manifest records (R174, R175) -/

/-- A dimension entry at an offset of a record. -/
def dimOf (rec : List Byte) (d : Nat) : Dim :=
  let o := 0x30 + 0x18 * d
  let w := fieldAt rec (o + 8) 8
  let v := fieldAt rec (o + 16) 8
  { extent := fieldAt rec o 6, stride := signedOf 48 (bitsOf w 47 0), padLo := bitsOf w 55 48, padHi := bitsOf w 63 56,
    shardBlock := bitsOf v 31 0, shardKind := bitsOf v 33 32, shardAxis := bitsOf v 35 34 }

/-- The manifest that a 192-byte record describes. -/
def manifestOf (rec : List Byte) : Manifest :=
  let w := fieldAt rec 4 4
  let x := fieldAt rec 0x0C 4
  { format := BitVec.ofNat 32 (fieldAt rec 0 4), ndim := bitsOf w 2 0, use := bitsOf w 4 3, stencilled := bitOf w 5, distributed := bitOf w 6,
    scaleArray := bitOf w 7, padFill := bitsOf w 9 8, padValue := BitVec.ofNat 32 (fieldAt rec 8 4), scaleMan := bitsOf x 23 0,
    grid := bitsOf x 31 24, allocBase := bitsOf (fieldAt rec 0x10 8) 41 0, allocSize := fieldAt rec 0x18 6, offset := fieldAt rec 0x20 6,
    stencilBase := bitsOf (fieldAt rec 0x28 8) 41 0, dims := (List.range 6).map (dimOf rec) }

/-- Whether a record has a reserved bit set. -/
def manifestBits (rec : List Byte) : Bool :=
  decide (bitsOf (fieldAt rec 4 4) 31 10 ≠ 0) || decide (bitsOf (fieldAt rec 0x10 8) 63 42 ≠ 0) || decide (fieldAt rec 0x1E 2 ≠ 0) ||
    decide (fieldAt rec 0x26 2 ≠ 0) || decide (bitsOf (fieldAt rec 0x28 8) 63 42 ≠ 0) ||
    (List.range 6).any fun d => decide (fieldAt rec (0x36 + 0x18 * d) 2 ≠ 0) || decide (bitsOf (fieldAt rec (0x40 + 0x18 * d) 8) 63 36 ≠ 0)

/-- Row 1 of R182. A SHARD_BLOCK other than zero belongs to BLOCK_CYCLIC only (R175). -/
def manifestReserved (rec : List Byte) : Bool :=
  let m := manifestOf rec
  let sharded := m.dims.any fun d => d.shardBlock != 0 || d.shardKind != 0 || d.shardAxis != 0
  manifestBits rec || decide (m.ndim = 0 ∨ m.ndim = 7) || m.use == 3 ||
    ((List.range 6).any fun d => decide (m.ndim ≤ d) && (sliceBytes rec (0x30 + 0x18 * d) 24).any fun b => b != 0) ||
    fmtInvalid m.format (m.use == 0) m.scaleArray || (!m.distributed && (m.grid != 0 || sharded)) || (m.distributed && m.grid == 0) ||
    (m.dims.any fun d => d.shardKind != 3 && d.shardBlock != 0) ||
    (m.stencilled && ((m.dims.any fun d => d.stride != 0) || decide (m.stencilBase % 16 ≠ 0))) ||
    (m.scaleArray && m.format != 8) || (!m.stencilled && m.stencilBase != 0)

/-! ### Validation (R180–R182, R188) -/

/-- Row 3 of R182: the stride rule of FP6 and FP4 (R177). -/
def Manifest.misaligned (m : Manifest) : Bool :=
  let bits := elemBits (elemFmtOf m.format)
  let unit : Int := if bits = 6 then 4 else 2
  decide (bits < 8) && !m.stencilled &&
    ((m.dim 0).stride != 1 || (List.range 6).any fun d => decide (1 ≤ d) && decide ((m.dim d).stride % unit ≠ 0))

/-- The rule of R180 over dimensions in increasing order of their strides. -/
def strictStrides : Nat → List (Nat × Nat) → Bool
  | _, [] => true
  | below, (st, n) :: rest => decide (st ≠ 0) && decide (1 + below ≤ st) && strictStrides (below + st * (n - 1)) rest

/-- Whether a stored index space is injective by the rule of R180. -/
def Manifest.injective (m : Manifest) (stored : List Nat) : Bool :=
  let ds := ((List.range 6).map fun d => ((m.dim d).stride.natAbs, stored.getD d 1)).filter fun e => decide (1 < e.2)
  strictStrides 0 (sortBy (fun a b => decide (a.1 ≤ b.1)) ds)

/-- The sharding rules of R188. A grid that no plan has loaded has no axis. -/
def Manifest.shardBad (m : Manifest) (g : Option Grid) : Bool :=
  match g with
  | none => true
  | some g =>
    let ds := (List.range m.ndim).map fun d => (d, m.dim d)
    let sharded := ds.filter fun e => e.2.shardKind != 0
    let scaled := scaleFmtOf m.format != 0
    let block (e : Nat × Dim) : Nat :=
      if e.2.shardKind = 0 then 0 else (spreadOf m g [0, 0, 0, 0] e.1).block
    (ds.any fun e => decide (g.axes ≤ e.2.shardAxis)) ||
      (sharded.any fun e => (sharded.filter fun x => x.2.shardAxis == e.2.shardAxis).length != 1) ||
      (sharded.any fun e => decide (e.1 < 2) && (e.2.shardKind == 2 || (e.2.shardKind == 3 && decide (e.2.shardBlock % 128 ≠ 0)))) ||
      (sharded.any fun e => e.2.shardKind == 3 && e.2.shardBlock == 0) ||
      (scaled && sharded.any fun e => e.1 == shareDim m.format && decide (block e % blockSizeOf m.format ≠ 0)) ||
      (m.padFill == 3 && sharded.any fun e => e.2.padLo != 0 || e.2.padHi != 0)

/-- Whether a companion matches its parent (R178). -/
def Manifest.companion (m c : Manifest) : Bool :=
  let b := blockSizeOf m.format
  let sd := shareDim m.format
  let useOk := c.use == 2 || c.use == m.use
  let dimOk (d : Nat) : Bool :=
    let p := m.dim d
    let q := c.dim d
    let blockOk := if d = sd then q.shardBlock * b == p.shardBlock else q.shardBlock == p.shardBlock
    q.extent == (if d = sd then ceilDiv p.extent b else p.extent) && q.shardKind == p.shardKind && q.shardAxis == p.shardAxis && blockOk
  c.scaleArray && c.format == 8 && c.ndim == m.ndim && useOk && c.distributed == m.distributed && c.grid == m.grid &&
    (List.range m.ndim).all dimOk

/-- Row 6 of R182. -/
def Manifest.scaleBad (m : Manifest) (look : Nat → Option Manifest) : Bool :=
  if scaleFmtOf m.format = 0 then m.scaleMan != 0
  else if m.scaleMan = 0 then true
  else match look m.scaleMan with
    | none => true
    | some c => !m.companion c

/-- The first and the last byte that the element numbers of a manifest's addressable box take, from local address 0 (items 1 to 3 of R181). -/
def Manifest.span (m : Manifest) (stored : List Nat) : Int × Int :=
  let bits : Int := elemBits (elemFmtOf m.format)
  let bound (pick : Int → Int → Int) (d : Nat) : Int :=
    let x := m.dim d
    let lo : Int := if m.padFill = 3 then -(x.padLo : Int) else 0
    let hi : Int := (stored.getD d 1 : Int) - 1 + if m.padFill = 3 then (x.padHi : Int) else 0
    pick (x.stride * lo) (x.stride * hi)
  let lo := (List.range 6).foldl (fun e d => e + bound min d) 0
  let hi := (List.range 6).foldl (fun e d => e + bound max d) 0
  let base : Int := 8 * ((m.allocBase + m.offset : Nat) : Int)
  ((base + lo * bits) / 8, (base + hi * bits + bits - 1) / 8)

/-- Whether a range lies wholly in main memory, in the gallery, or in the pad of one core that exists (item 4 of R181). -/
def State.inRegion (s : State) (a n : Nat) : Bool :=
  let z := a + (n - 1)
  decide (z < 0x10000000000) || (decide (0x20000000000 ≤ a) && decide (z < 0x20020000000)) ||
    (decide (0x20040000000 ≤ a) && decide (z < 0x20050000000) && s.coreExists ((a - 0x20040000000) / 0x200000) &&
      decide ((a - 0x20040000000) / 0x200000 = (z - 0x20040000000) / 0x200000))

/-- The bytes that a tile's region reserves (R110). -/
def tileRoom (fmt : BitVec 32) (entry : Nat) : Nat :=
  let n := if bitOf entry 91 then (List.range 16).foldl (fun n i => n + if bitOf entry (96 + i) then 1 else 0) 0 else 16
  n * imageSize (elemFmtOf fmt) (bitsOf entry 89 88)

/-- The stencil map of a manifest passes the decoders of what holds it (R216, R232). -/
def State.senseMap (s : State) (m : Manifest) : State :=
  if !m.stencilled then s
  else
    let n := 16 * tileCount ((List.range 6).map fun d => (m.dim d).extent)
    (linesOf m.stencilBase n).foldl (fun s l => s.readLineAt l.1 3 0xFF) (s.sense m.stencilBase n)

/-- Whether a tile of a stencilled manifest is mapped beyond its data allocation (R110). At PLAN_LOAD the map is taken as memory stands before the load, also in
an arena that the load is about to fill: R110 does not say when it is looked at (DESIGN CHOICE, log entry 67). -/
def State.tileBeyond (s : State) (m : Manifest) (t : Nat) : Bool :=
  let e := leNat (s.readBytes (m.stencilBase + 16 * t) 16)
  decide (m.allocSize < bitsOf e 47 0 + tileRoom m.format e)

/-- Row 8 of R182. `allowed` says whether a range lies within a declared or a service allocation. -/
def State.rangeFails (s : State) (allowed : Nat → Nat → Bool) (m : Manifest) (stored : List Nat) : Bool :=
  let sp := m.span stored
  let tiles := tileCount stored
  let home (a n : Nat) : Bool := s.inRegion a n && allowed a n
  (!m.empty && (decide (sp.1 < (m.allocBase : Int)) || decide (((m.allocBase + m.allocSize : Nat) : Int) ≤ sp.2))) ||
    !home m.allocBase m.allocSize ||
    (m.stencilled && (!home m.stencilBase (16 * tiles) || (List.range tiles).any (s.tileBeyond m)))

/-- Whether a range touches a retired page (R242). -/
def State.touchesRetired (s : State) (base size : Nat) : Bool :=
  s.main.retired.any fun p => decide (p * 0x40000 < base + size) && decide (base < (p + 1) * 0x40000)

/-- The first failing row of R182 from row 2 on. An allocation on a retired page is refused beside row 7 (R242). -/
def State.manifestCause (s : State) (look : Nat → Option Manifest) (grid : Nat → Option Grid) (allowed : Nat → Nat → Bool) (m : Manifest) :
    Option Nat :=
  let writes := m.use != 0
  let g := grid m.grid
  let ext := (List.range 6).map fun d => (m.dim d).extent
  let stored := match g with
    | some g => if m.distributed then (List.range 6).map fun d => (spreadOf m g [0, 0, 0, 0] d).lmax (ext.getD d 1) else ext
    | none => ext
  if writes ∧ m.dims.any fun d => d.padLo != 0 || d.padHi != 0 then some 0x0118
  else if m.misaligned then some 0x0119
  else if writes ∧ !m.stencilled ∧ !m.empty ∧ !m.injective stored then some 0x011A
  else if m.distributed ∧ m.shardBad g then some 0x011B
  else if m.scaleBad look then some 0x011C
  else if (s.rangeBad m.allocBase m.allocSize).contains .offline then some 0x0283
  else if s.touchesRetired m.allocBase m.allocSize then some 0x02E6
  else if s.rangeFails allowed m stored then some 0x011D
  else none

/-! ### Service allocations and manifests (R382) -/

/-- The lowest number from `base` on that a list lacks, within its length. -/
def freeFrom (base : Nat) (used : List Nat) : Nat :=
  ((List.range (used.length + 1)).find? fun i => !used.contains (base + i)).getD 0 + base

/-- A handle for a new allocation: any 32-bit number not in use (the manual does not number them; log entry 3). -/
def State.newHandle (s : State) : Nat × State :=
  let f := s.takeFree
  let used := s.dev.allocs.map fun e => e.1
  let h := f.1.toNat % 2 ^ 32
  (if used.contains h then Machine.freeFrom 0 used else h, f.2)

/-- ALLOC_CREATE. -/
def allocCreateBody : CmdBody := plainBody fun s _ p =>
  let base := fieldAt p 0 8
  let size := fieldAt p 8 8
  let bad := s.rangeBad base size
  if size = 0 then noop s
  else if bad.contains .unmapped then refuse s 0x0409
  else if bad.contains .offline then refuse s 0x0283
  else if bad.contains .regionOff then refuse s 0x040A
  else if s.touchesRetired base size then refuse s 0x02E6
  else if 64 ≤ s.dev.allocs.length then refuse s 0x0114
  else
    let h := s.newHandle
    done { h.2 with dev := { h.2.dev with allocs := Tab.put h.2.dev.allocs h.1 (base, size) } } (leBytes 4 h.1)

/-- ALLOC_FREE. -/
def allocFreeBody : CmdBody := plainBody fun s _ p =>
  let h := fieldAt p 0 4
  match Tab.find? s.dev.allocs h with
  | none => refuse s 0x0115
  | some a =>
    let within (m : Manifest) : Bool := decide (a.1 ≤ m.allocBase) && decide (m.allocBase + m.allocSize ≤ a.1 + a.2)
    if s.dev.services.any fun e => within e.2 then refuse s 0x0116
    else done { s with dev := { s.dev with allocs := Tab.erase s.dev.allocs h } } []

/-- A manifest by its number: a service manifest or one of the plan's. -/
def State.manifestNo (s : State) (n : Nat) : Option Manifest := (Tab.find? s.dev.services n).orElse fun _ => Tab.find? s.manifests n

/-- Whether a range lies within a declared allocation of the plan or a service allocation (item 4 of R181). -/
def State.allowedRange (s : State) (a n : Nat) : Bool :=
  let plan : List (Nat × Nat) := match s.plan with
    | some p => p.allocs
    | none => []
  s.allocHolds a n || plan.any fun e => decide (e.1 ≤ a) && decide (a + n ≤ e.1 + e.2)

/-- Whether a record's allocation lies in a disabled gallery region, which is refused before R182 (R220). -/
def State.recordRegionOff (s : State) (rec : List Byte) : Bool :=
  let m := manifestOf rec
  (s.rangeBad m.allocBase m.allocSize).contains .regionOff

/-- MANIFEST_CREATE. -/
def manifestCreateBody : CmdBody :=
  { plainBody (fun s _ p =>
      let m := manifestOf p
      if s.recordRegionOff p then refuse s 0x040A
      else match s.manifestCause s.manifestNo (Tab.find? s.grids) s.allowedRange m with
        | some c => refuse s c
        | none =>
          if 1024 ≤ s.dev.services.length then refuse s 0x011E
          else
            let n := freeFrom 0xFF0000 (s.dev.services.map fun e => e.1)
            let s := s.senseMap m
            done { s with dev := { s.dev with services := Tab.put s.dev.services n m } } (leBytes 4 n)) with
    reserved := fun s p => !s.recordRegionOff p && manifestReserved p }

/-- MANIFEST_DESTROY. -/
def manifestDestroyBody : CmdBody := plainBody fun s _ p =>
  let n := fieldAt p 0 4
  match Tab.find? s.dev.services n with
  | none => refuse s 0x0604
  | some _ => done { s with dev := { s.dev with services := Tab.erase s.dev.services n } } []

/-- A dimension entry of the query reply (R385). -/
def queryDim (m : Manifest) (sp : Nat → Spread) (d : Nat) : List Byte :=
  let x := m.dim d
  let t := sp d
  if m.ndim ≤ d then leBytes 24 0
  else leBytes 6 (t.actual x.extent) ++ leBytes 6 (t.lmax x.extent) ++ leBytes 4 (if t.kind = 0 then 0 else t.block) ++ leBytes 6 x.extent ++
    leBytes 1 x.shardKind ++ leBytes 1 x.shardAxis

/-- The query reply of a manifest on a chip; `none` where no coordinate of its grid yields the chip. -/
def State.queryData (s : State) (m : Manifest) (chip : Nat) : Option (List Byte) :=
  let head (c p : List Nat) : List Byte :=
    leBytes 1 m.ndim ++ leBytes 1 (if m.distributed then 1 else 0) ++ leBytes 1 m.grid ++ leBytes 1 0 ++ leBytes 2 chip ++ leBytes 2 0 ++
      ((List.range 4).flatMap fun i => leBytes 2 (c.getD i 0)) ++ (List.range 4).flatMap fun i => leBytes 2 (p.getD i 0)
  if m.distributed then
    match Tab.find? s.grids m.grid with
    | none => none
    | some g => match g.coord chip with
      | none => none
      | some c => some (head c ((List.range 4).map fun a => if a < g.axes then g.extent a else 0) ++
          (List.range 6).flatMap (queryDim m (spreadOf m g c)))
  else some (head [] [] ++ (List.range 6).flatMap (queryDim m fun _ => Spread.none))

/-- MANIFEST_QUERY. -/
def manifestQueryBody : CmdBody :=
  { plainBody (fun s _ p =>
      let chip := if fieldAt p 4 2 = 0xFFFF then s.fab.chip else fieldAt p 4 2
      match s.manifestNo (fieldAt p 0 4) with
      | none => refuse s 0x0604
      | some m => match s.queryData m chip with
        | none => refuse s 0x011F
        | some data => done s data) with replyLen := fun _ _ => 168 }

/-! ### Erasures and retired pages (R236, R242) -/

/-- The MEM_ERASE entries that wait for the next frame, by half. -/
def State.waitingErase (s : State) (h : Half) : List Nat :=
  (s.main.marks.filter fun m => m.1 == 1 && m.2.1 == h.index).map fun m => m.2.2

/-- The packages of a group that hold an erasure, or will from the next frame on. -/
def State.erasedSoon (s : State) (group : Nat) : List Nat :=
  let h : Half := if group < 2 then .west else .east
  let mine (p : Nat) : Bool := p / 9 == group
  s.erasedPackages group ++ ((s.main.marks.filter fun m => m.1 == 0).map fun m => m.2.1).filter mine ++
    ((s.waitingErase h).map fun e => bitsOf e 21 16).filter mine

/-- MEM_ERASE. -/
def memEraseBody : CmdBody :=
  { plainBody (fun s _ p =>
      let pkg := fieldAt p 0 1
      let lane := fieldAt p 1 1
      let bank := fieldAt p 2 1
      let h : Half := if pkg < 18 then .west else .east
      let used := ((List.range 8).filter fun i => bitOf (s.eraseEntry h i) 31).length + (s.waitingErase h).length
      let e := 2 ^ 31 + pkg * 2 ^ 16 + (if lane = 0xFF then 2 ^ 8 else lane * 2 ^ 9) + (if bank = 0xFF then 2 ^ 3 else bank * 2 ^ 4)
      if (s.erasedSoon (pkg / 9)).any fun x => x != pkg then refuse s 0x0120
      else if 8 ≤ used then refuse s 0x0121
      else if !s.halfOn h then refuse s 0x0283
      else
        let s := s.measureEvent 0x38
        done { s with main := { s.main with marks := s.main.marks ++ [(1, h.index, e)] } } []) with
    reserved := fun _ p => decide (36 ≤ fieldAt p 0 1) || (decide (8 ≤ fieldAt p 1 1) && fieldAt p 1 1 != 0xFF) ||
      (decide (16 ≤ fieldAt p 2 1) && fieldAt p 2 1 != 0xFF) }

/-- MEM_RETIRE_PAGE. -/
def memRetirePageBody : CmdBody := plainBody fun s _ p =>
  let a := fieldAt p 0 8
  let covers (base size : Nat) : Bool := decide (base < a + 0x40000) && decide (a < base + size)
  if a % 0x40000 ≠ 0 ∨ 0x10000000000 ≤ a then refuse s 0x0122
  else if s.dev.allocs.any (fun e => covers e.2.1 e.2.2) || s.dev.services.any (fun e => covers e.2.allocBase e.2.allocSize) then refuse s 0x0123
  else if s.main.retired.contains (a / 0x40000) then done s []
  else if 1024 ≤ s.main.retired.length then refuse s 0x0124
  else done { s with main := { s.main with retired := Marks.insert s.main.retired (a / 0x40000) } } []

/-- MEM_RETIRE_LIST. -/
def memRetireListBody : CmdBody :=
  { plainBody (fun s _ _ => done s (leBytes 8 s.main.retired.length ++ s.main.retired.flatMap fun p => leBytes 8 (p * 0x40000))) with
    replyLen := fun s _ => 8 + 8 * s.main.retired.length }

end Sys2Proof.Machine
end

