-- ==== Sys2Proof/Machine/LogCmd.lean ====
section
/-! DEFINITION. The logbook, the alarm path and trace streams as the host sees them (R437–R449), and error injection (R432, R433). -/

namespace Sys2Proof.Machine

/-! ### Records (R437) -/

/-- The 64 bytes of a log or alarm record. -/
def recBytes (seq cause : Nat) (alarm : Bool) (flags first last count source phys : Nat) (payload : List Byte) : List Byte :=
  leBytes 4 seq ++ leBytes 2 cause ++ leBytes 1 (if alarm then 1 else 0) ++ leBytes 1 flags ++ leBytes 8 first ++ leBytes 8 last ++
    leBytes 4 count ++ leBytes 2 source ++ leBytes 2 phys ++ sliceBytes payload 0 32

/-- The bytes of a logbook record. -/
def LogRec.bytes (r : LogRec) : List Byte :=
  recBytes r.seq r.cause r.alarm r.flags r.first r.last r.count r.source r.phys r.payload

/-- The coalescing window of a key has ended: its record enters the logbook, after those that come before it (R439). -/
def State.logClose (s : State) (cause source line : Nat) : State :=
  match s.log.open_.find? fun r => r.cause == cause && r.source == source && r.line == line && s.windowOver r with
  | some r => s.logExpire fun x => x.before r
  | none => s

/-- LOG_WINDOW_CLOSE. -/
def execLogWindowClose (cause source : W16) (line : Nat) (s : State) : Host.Outcome State Fault Refusal :=
  .next (s.logClose cause.toNat source.toNat line)

/-! ### Budgets and rings (R449) -/

/-- What a credit has grown to at a rate in bytes a second: up to 10 ms of its budget. -/
def creditNow (credit at_ now rate : Nat) : Nat := min (rate * 10000000) (credit + rate * (now - at_))

/-- HEAD − TAIL of a ring. -/
def State.ringUsed (s : State) (k : Fin 3) : Nat := (s.fld (.ringHead k) 31 0 + 2 ^ 32 - s.fld (.ringTail k) 31 0) % 2 ^ 32

/-- Whether a configured ring has space. -/
def State.ringRoom (s : State) (k : Fin 3) (r : HostRing) : Bool := r.configured && decide (s.ringUsed k < 2 ^ r.sizeLog2)

/-- The credit of the logbook or the alarm path now. -/
def State.ringCredit (s : State) (r : HostRing) (rate : Nat) : Nat := creditNow r.credit r.creditAt s.now rate

/-- Writes a record to a ring in host memory and then advances its HEAD. Only trace data carries the Relaxed Ordering attribute (R363). -/
def State.ringPut (s : State) (k : Fin 3) (r : HostRing) (bs : List Byte) : State :=
  let head := s.fld (.ringHead k) 31 0
  let s := s.hostPutAs (k == 2) (r.addr + bs.length * (head % 2 ^ r.sizeLog2)) bs
  s.setReg (.ringHead k) (BitVec.ofNat 64 ((head + 1) % 2 ^ 32))

/-- Whether an alarm record may be written now. -/
def State.alarmReady (s : State) : Bool :=
  !s.log.alarms.isEmpty && s.ringRoom 1 s.log.alarmRing && decide (64000000000 ≤ s.ringCredit s.log.alarmRing s.dev.chart.alarmBudget)

/-- Whether a logbook record may be written now: alarm records go first. -/
def State.mirrorReady (s : State) : Bool :=
  decide (s.log.mirrored < s.log.nextSeq) && s.ringRoom 0 s.log.logRing &&
    decide (64000000000 ≤ s.ringCredit s.log.logRing s.dev.chart.logBudget) && !s.alarmReady

/-- Emits the oldest pending alarm entry (R443). -/
def State.alarmEmit (s : State) : State :=
  match s.log.alarms with
  | [] => s
  | a :: rest =>
    if s.alarmReady then
      let flags := (if a.injected then 2 else 0) + (if 1 < a.count then 4 else 0) + if a.cut then 8 else 0
      let source := if a.reserved then 0xFFFF else a.source
      let bs := recBytes s.log.alarmSeq a.cause true flags a.first a.last a.count source (s.physOfSource source) a.payload
      let r := s.log.alarmRing
      let r' : HostRing := { r with credit := s.ringCredit r s.dev.chart.alarmBudget - 64000000000, creditAt := s.now }
      let s := s.ringPut 1 r bs
      let s : State := { s with log := { s.log with alarms := rest, alarmSeq := s.log.alarmSeq + 1, alarmRing := r' } }
      s.setBitAt Reg.hmCause.offset 10
    else s

/-- ALARM_EMIT. -/
def execAlarmEmit (s : State) : Host.Outcome State Fault Refusal := .next s.alarmEmit

/-- Mirrors the oldest logbook record that is not yet mirrored; LOG_WATERMARK is set when the ring's use reaches the watermark (R441, R449). -/
def State.mirrorWrite (s : State) : State :=
  if s.mirrorReady then
    match s.log.ring.find? fun r => r.seq == s.log.mirrored with
    | some rec =>
      let r := s.log.logRing
      let r' : HostRing := { r with credit := s.ringCredit r s.dev.chart.logBudget - 64000000000, creditAt := s.now }
      let s := s.ringPut 0 r rec.bytes
      let s : State := { s with log := { s.log with mirrored := s.log.mirrored + 1, logRing := r' } }
      if s.ringUsed 0 = r.watermark then s.setBitAt Reg.hmCause.offset 11 else s
    | none => s
  else s

/-- LOG_MIRROR_WRITE. -/
def execLogMirrorWrite (s : State) : Host.Outcome State Fault Refusal := .next s.mirrorWrite

/-! ### LOG_CONFIG and LOG_CLEAR (R441, R442) -/

/-- The pinned copies in SEQ order. -/
def State.pinBytes (s : State) : List Byte := s.log.pins.flatMap LogRec.bytes

/-- LOG_CONFIG: SET_RING and READ_PINS. -/
def logConfigBody : CmdBody :=
  { plainBody (fun s _ p =>
      let size := fieldAt p 2 1
      let addr := fieldAt p 8 8
      if fieldAt p 0 1 = 1 then done (s.logExpire fun _ => true) (s.logExpire fun _ => true).pinBytes
      else if 1 < fieldAt p 0 1 ∨ 1 < fieldAt p 1 1 ∨ size < 6 ∨ 20 < size ∨ addr % 4096 ≠ 0 then refuse s 0x0128
      else
        let k : Fin 3 := if fieldAt p 1 1 = 0 then 0 else 1
        let old := if k = 0 then s.log.logRing else s.log.alarmRing
        let r : HostRing := { old with configured := true, addr := addr, sizeLog2 := size, watermark := fieldAt p 4 4 }
        let s := (s.setReg (.ringHead k) 0).setReg (.ringTail k) 0
        done { s with log := if k = 0 then { s.log with logRing := r } else { s.log with alarmRing := r } } []) with
    reserved := fun _ p => decide (fieldAt p 3 1 ≠ 0),
    replyLen := fun s p => if fieldAt p 0 1 = 1 then 64 * (s.logExpire fun _ => true).log.pins.length else 0 }

/-- LOG_CLEAR: the clear is logged as LOG_CLEARED, and that record enters the logbook and is pinned at once. -/
def logClearBody : CmdBody :=
  { plainBody (fun s _ p =>
      let s := s.logExpire fun _ => true
      let pins := bitOf (fieldAt p 0 1) 0
      let recs := bitOf (fieldAt p 0 1) 1
      let n := if pins then s.log.pins.length else 0
      let kept := if s.log.logRing.configured then s.log.mirrored else 0
      let gone := if recs then (s.log.ring.filter fun r => decide (kept ≤ r.seq)).length else 0
      let l := s.log
      let l : Log := if pins then { l with pins := [] } else l
      let l : Log := if recs then { l with ring := l.ring.filter fun r => decide (r.seq < kept), mirrored := l.nextSeq } else l
      let s : State := { s with log := l }
      let s := if gone = 0 then s else s.count (.ringLost 0) 63 0 gone
      let s := s.logEnter { seq := 0, cause := 0x040E, alarm := false, flags := 0, first := s.now, last := s.now, count := 1, source := srcHm,
                            phys := 0xFFFF, line := 0, payload := (payloadOf [] 0).1 }
      done s (leBytes 4 n ++ leBytes 4 gone)) with
    reserved := fun _ p => decide (4 ≤ fieldAt p 0 1) }

/-! ### Trace streams (R445–R448) -/

/-- The sources of a trace mask. -/
def sourcesOf (mask : Nat) : List Nat := (List.range 8).filter fun i => bitOf mask i

/-- The share of each enabled source in bytes a second (R447). -/
def State.traceShare (s : State) (mask : Nat) : Nat := s.dev.chart.traceBudget / max 1 (sourcesOf mask).length

/-- TRACE_CONFIG. -/
def traceConfigBody : CmdBody :=
  { plainBody (fun s _ p =>
      let size := fieldAt p 8 1
      let mask := fieldAt p 9 1
      let cores := fieldAt p 16 16
      let noCore := (List.range 128).any fun c => bitOf cores c && !s.coreExists c
      if size < 6 ∨ 24 < size ∨ noCore ∨ fieldAt p 38 2 ≠ 0 then refuse s 0x0129
      else
        let share := s.traceShare mask
        let r : HostRing := { configured := true, addr := fieldAt p 0 8, sizeLog2 := size, watermark := 0, credit := 0, creditAt := s.now }
        let bufs := List.replicate 8 { TraceBuf.empty with creditAt := s.now }
        let s := (s.setReg (.ringHead 2) 0).setReg (.ringTail 2) 0
        let s := (List.range 8).foldl (fun s i => s.setReg (.traceDrops (Fin.ofNat 8 i)) 0) s
        let s : State := { s with log := { s.log with trace := { ring := r, sources := mask, coreMask := cores, quayMask := fieldAt p 32 6,
                                                                 bufs := bufs } } }
        done s ((List.range 8).flatMap fun i => leBytes 4 (if bitOf mask i then share else 0))) with
    reserved := fun _ p => decide (fieldAt p 0 8 % 4096 ≠ 0) || decide (fieldAt p 10 6 ≠ 0) }

/-- The 32 bytes of a trace record (R446). -/
def TraceRec.bytes (r : TraceRec) : List Byte :=
  leBytes 8 r.tide ++ leBytes 1 r.src ++ [r.kind] ++ leBytes 2 r.inst ++ leBytes 4 r.aux.toNat ++ leBytes 16 r.data.toNat

/-- Writes the oldest record of a source's buffer to the trace ring, after every alarm and logbook record that may be written (R447, R449). -/
def State.traceWrite (s : State) (src : Nat) : State :=
  let t := s.log.trace
  let b := t.bufs.getD src TraceBuf.empty
  match b.recs with
  | [] => s
  | r :: rest =>
    let credit := creditNow b.credit b.creditAt s.now (s.traceShare t.sources)
    if s.ringRoom 2 t.ring ∧ 32000000000 ≤ credit ∧ !s.alarmReady ∧ !s.mirrorReady then
      let s := s.ringPut 2 t.ring r.bytes
      let s := s.setTraceBuf src { b with recs := rest, credit := credit - 32000000000, creditAt := s.now }
      if r.gap then s.count (.ringLost 2) 63 0 1 else s
    else s

/-- TRACE_WRITE. -/
def execTraceWrite (source : Fin 8) (s : State) : Host.Outcome State Fault Refusal := .next (s.traceWrite source.val)

/-! ### Injection (R432, R433) -/

/-- A half's trip comparator trips: THERMTRIP_N falls and stays low, every engine stops, every quay goes dark, and a CHART_SELECT goes no further (R421). -/
def State.trip (s : State) (h : Half) : State :=
  let s := (List.range 48).foldl State.dark s
  let d := { s.dev with selecting := none }
  { s with ops := [], run := { s.run with stopFrom := some 0, holdAt := none, startAt := none, resumeAt := none, resetAt := none },
           dev := match h with
             | .west => { d with tripW := true }
             | .east => { d with tripE := true } }

/-- A power-good input is seen to fall for less than 10 µs (R416). -/
def State.glitch (s : State) (input times : Nat) (injected : Bool) : State :=
  s.raise { plainAlarm 0x0403 srcHm [input] with injected := injected, times := times }

/-- Whether a scope names something that the module has and the chart enables. -/
def State.scopeOk (s : State) (id scope : Nat) : Bool :=
  let core := decide (scope < 128) && s.coreOn scope
  let slice (n : Nat) : Bool := decide (n < 128) && s.halfOn (sliceHalf n)
  let half := (scope == 0 && s.halfOn .west) || (scope == 1 && s.halfOn .east)
  let package := decide (scope < 36) && s.halfOn (if scope < 18 then .west else .east)
  let quay := decide (scope < 48) && s.halfOn (quayHalf scope)
  let engine := decide (scope < 12) && s.halfOn (if scope < 6 then .west else .east)
  if id = 1 ∨ id = 2 ∨ id = 3 ∨ id = 0x17 ∨ id = 0x18 then core
  else if id = 4 ∨ id = 5 then slice scope
  else if id = 6 then decide (scope < 512) && s.coreOn (scope / 4)
  else if id = 7 then core || (decide (0x100 ≤ scope) && slice (scope - 0x100))
  else if (8 ≤ id ∧ id ≤ 0xB) ∨ id = 0x19 then package
  else if id = 0xC ∨ id = 0x10 ∨ id = 0x11 ∨ id = 0x12 ∨ id = 0x13 ∨ id = 0x14 ∨ id = 0x1F then half
  else if 0xD ≤ id ∧ id ≤ 0xF then quay
  else if id = 0x1A then engine
  else if id = 0x1B then core || (decide (0x100 ≤ scope) && decide (scope < 0x108))
  else if id = 0x1E then decide (scope < 3)
  else scope == 0

/-- INJECT. The deglitch of a power-good input and the trip comparators examine their inputs at all times: what is armed for them happens at once (R432,
R433). -/
def injectBody : CmdBody := plainBody fun s _ p =>
  let id := fieldAt p 0 2
  let scope := fieldAt p 2 2
  let n := fieldAt p 4 4
  let same (a : Nat × Nat × Nat) : Bool := a.1 == id && a.2.1 == scope
  if n = 0 then noop s
  else if id = 0 ∨ 0x1F < id then refuse s 0x0125
  else if !s.scopeOk id scope then refuse s 0x0126
  else if !s.log.armings.any same ∧ 64 ≤ s.log.armings.length then refuse s 0x0127
  else
    let s : State := { s with log := { s.log with armings := (s.log.armings.filter fun a => !same a) ++ [(id, scope, n)] } }
    let s := (s.raise (plainEvent 0x040D srcHm [id, scope, n])).measureEvent 0x50
    let spent (t : State) : State := { t with log := { t.log with armings := t.log.armings.filter fun a => !same a } }
    if id = 0x1E then done ((spent s).glitch scope n true) []
    else { done s [] with post := if id = 0x1F then fun t => (spent t).trip (if scope = 0 then .west else .east) else id_ }
where
  /-- Nothing follows the reply. -/
  id_ (t : State) : State := t

end Sys2Proof.Machine
end

