-- ==== Sys2Proof/Machine/SecCmd.lean ====
section
/-! DEFINITION. Security (R456–R470): the identity certificate and ATTEST, debug unlock, the rollback counter, and the verification of firmware. -/

namespace Sys2Proof.Machine

/-! ### Identity and attestation (R462–R464) -/

/-- The identity public key, which the boot ROM derives from the seed. -/
def State.identityKey (s : State) : List Byte := sliceBytes (Config.slhPublicKey s.sec.seed) 0 64

/-- The identity certificate; `certificate` holds its signature. -/
def State.identityCert (s : State) : List Byte :=
  let magic : List Byte := [0x53, 0x56, 0x49, 0x44]
  magic ++ leBytes 2 1 ++ leBytes 2 0 ++ sliceBytes s.sec.serial 0 16 ++ partNumber s.dev.grade ++ s.identityKey ++ sliceBytes s.sec.certificate 0 29792

/-- The signed part of the attestation report. -/
def State.reportBody (s : State) (nonce : List Byte) : List Byte :=
  let magic : List Byte := [0x53, 0x56, 0x41, 0x54]
  magic ++ leBytes 2 1 ++ leBytes 2 8 ++ sliceBytes nonce 0 32 ++ sliceBytes s.sec.serial 0 16 ++ partNumber s.dev.grade ++
    leBytes 4 s.sec.fwVersion ++ leBytes 4 s.sec.status ++ leBytes 1 s.dev.state.code ++ leBytes 1 s.dev.chartNo ++ leBytes 6 0 ++ leBytes 8 s.now ++
    leBytes 8 (s.reg .stepNumber).toNat ++ s.identityKey ++ (List.range 8).flatMap fun i => sliceBytes (s.sec.measures.getD i []) 0 64

/-- The attestation report. -/
def State.report (s : State) (nonce : List Byte) : List Byte :=
  let b := s.reportBody nonce
  b ++ sliceBytes (Config.slhSign s.sec.seed b) 0 49856

/-- ATTEST. -/
def attestBody : CmdBody :=
  { plainBody (fun s _ p => done s (s.identityCert ++ s.report p)) with replyLen := fun _ _ => 80432 }

/-! ### Debug unlock (R465–R467) -/

/-- Random bytes: free values, eight bytes each. -/
def State.randomBytes : Nat → State → List Byte × State
  | 0, s => ([], s)
  | n + 1, s =>
    let f := s.takeFree
    let r := State.randomBytes n f.2
    (leBytes 8 f.1.toNat ++ r.1, r.2)

/-- DEBUG_CHALLENGE. -/
def debugChallengeBody : CmdBody :=
  { plainBody (fun s _ _ =>
      let r := s.randomBytes 4
      let c := r.1 ++ sliceBytes s.sec.serial 0 16 ++ leBytes 1 s.sec.rollback ++ leBytes 15 0
      done { r.2 with sec := { r.2.sec with challenge := some c } } c) with replyLen := fun _ _ => 64 }

/-- Whether a debug token answers the outstanding challenge under the fused key. -/
def State.tokenOk (s : State) (challenge token : List Byte) : Bool :=
  let pk := sliceBytes token 64 64
  sliceBytes token 0 64 == challenge && Config.shake256 pk == s.sec.debugDigest &&
    Config.slhVerify pk (sliceBytes token 0 192) (sliceBytes token 192 29792)

/-- DEBUG_UNLOCK: the challenge is consumed whatever the outcome. -/
def debugUnlockBody : CmdBody :=
  { plainBody (fun s _ p =>
      let c := s.sec.challenge
      let s : State := { s with sec := { s.sec with challenge := none } }
      if s.sec.debugDisable then refuse s 0x01C2
      else match c with
        | none => refuse s 0x01C3
        | some c =>
          if !s.tokenOk c p then refuse s 0x01C4
          else if s.sec.unlocked then noop s
          else
            let s := ({ s with sec := { s.sec with unlocked := true } } : State).latchSec
            done ((s.measure 6 p).raise (plainEvent 0x01C8 srcHm [])) []) with
    reserved := fun _ p => (sliceBytes p 128 64).any fun b => b != 0 }

/-! ### The rollback counter (R461) -/

/-- The key slots of a mask that an image revokes: all but its own. -/
def revokedBy (mask slot : Nat) : Nat := ((List.range 4).filter fun i => bitOf mask i && i != slot).foldl (fun m i => m + 2 ^ i) 0

/-- The value to which ROLLBACK_ADVANCE raises the counter, which has 64 fuses (R457). -/
def Security.target (c : Security) : Nat := min 64 c.secVersion

/-- Blows the first `n` fuses of an advance, one after the other: the counter's in increasing order, then those of the revoked slots (R457, R461). -/
def Security.blow (c : Security) (n : Nat) : Security :=
  let up := min n (c.target - c.rollback)
  let slots := ((List.range 4).filter fun i => bitOf (revokedBy c.revokeMask c.keySlot) i && !bitOf c.keyRevoked i).take (n - up)
  { c with rollback := c.rollback + up, keyRevoked := slots.foldl (fun m i => m + 2 ^ i) c.keyRevoked }

/-- ROLLBACK_ADVANCE: at most 68 fuses are blown. -/
def rollbackAdvanceBody : CmdBody := plainBody fun s _ _ =>
  let c := s.sec
  if c.keySlot = 3 then refuse s 0x01C1
  else if c.target ≤ c.rollback then refuse s 0x01C0
  else done ({ s with sec := c.blow 68 } : State).latchSec (leBytes 1 c.target)

/-! ### Firmware images (R458, R459) -/

/-- Fields of an image's header. -/
def FwImage.keySlot (i : FwImage) : Nat := fieldAt i.header 6 1
def FwImage.version (i : FwImage) : Nat := fieldAt i.header 7 1
def FwImage.firmware (i : FwImage) : Nat := fieldAt i.header 8 4
def FwImage.revokes (i : FwImage) : Nat := fieldAt i.header 0x50 1

/-- MAGIC of a firmware image: the bytes SVFW. -/
def fwMagic : Nat := 0x57465653

/-- The first failing check of `accept`: 1 header, 2 key, 3 signature, 4 version; 0 where the image is accepted (R459, R469). -/
def State.fwCheck (s : State) (i : FwImage) : Nat :=
  let pk := sliceBytes i.header 0x10 64
  let rest := sliceBytes i.header 0x51 47
  let headOk := fieldAt i.header 0 4 == fwMagic && fieldAt i.header 4 2 == 1 && rest.all (fun b => b == 0) &&
    decide (i.keySlot ≤ 3) && fieldAt i.header 0x0C 4 == i.body.length
  let keyOk := !bitOf s.sec.keyRevoked i.keySlot && Config.shake256 pk == s.sec.keyDigest.getD i.keySlot [] &&
    (decide (i.keySlot < 3) || s.sec.unlocked)
  if !headOk then 1
  else if !keyOk then 2
  else if !Config.slhVerify pk (i.header ++ i.body) i.sig then 3
  else if s.sec.rollback ≤ i.version ∨ i.keySlot = 3 then 0
  else 4

/-- The image that the staging area of main memory holds (R460). -/
def State.stagedImage (s : State) : FwImage :=
  let header := s.readBytes 0 128
  let len := min 8358688 (fieldAt header 0x0C 4)
  { header := header, body := s.readBytes 128 len, sig := s.readBytes (128 + len) 29792 }

/-- The staging area passes the decoders of main memory when VERIFY reads it (R232). -/
def State.senseStaging (s : State) : State :=
  let len := min 8358688 (fieldAt (s.readBytes 0 128) 0x0C 4)
  (linesOf 0 (128 + len + 29792)).foldl (fun s l => s.readLineAt l.1 3 0xFF) s

/-- The image of a slot: A, or B. -/
def State.slot (s : State) (b : Bool) : Option FwImage := if b then s.sec.slotB else s.sec.slotA

/-- Stores an image in a slot. -/
def State.setSlot (s : State) (b : Bool) (i : FwImage) : State :=
  { s with sec := if b then { s.sec with slotB := some i } else { s.sec with slotA := some i } }

/-- Whether VERIFY installs a staged image on its way through a WARM reset. -/
def State.installs (s : State) : Bool :=
  let stage := s.stagedImage
  s.dev.warm && s.halfOn .west && fieldAt stage.header 0 4 == fwMagic && s.fwCheck stage == 0

/-- A loss of power in a VERIFY that installs a staged image: where it falls while the image is being written to the slot other than the active one, that
slot fails `accept` from then on, and ACTIVE_SLOT stays (R459). Whether the write was under way is a free value. -/
def State.torn (s : State) : State :=
  if s.dev.state = .verify ∧ s.installs then
    let r := s.takeFree
    let s := r.2
    if !r.1.getLsbD 0 then s
    else { s with sec := if s.sec.activeB then { s.sec with slotA := none } else { s.sec with slotB := none } }
  else s

/-- Installs an accepted staged image into the slot other than the active one, or logs why it is not accepted. -/
def State.install (s : State) (i : FwImage) : State :=
  let why := s.fwCheck i
  if why = 0 then
    let other := !s.sec.activeB
    let s := s.setSlot other i
    ({ s with sec := { s.sec with activeB := other } } : State).raise (plainEvent 0x01C5 srcHm [])
  else s.raise (plainEvent 0x01C6 srcHm [why])

/-- The fuse record without IDENTITY_SEED (R457, R463). -/
def Security.fuses (c : Security) : List Byte :=
  (List.range 4).flatMap (fun i => sliceBytes (c.keyDigest.getD i []) 0 64) ++ leBytes 1 c.keyRevoked ++ sliceBytes c.debugDigest 0 64 ++
    leBytes 1 (if c.debugDisable then 1 else 0) ++ leBytes 8 (2 ^ c.rollback - 1)

/-- Measures and runs an accepted image from a slot (R459, R463, R470). -/
def State.runImage (s : State) (b : Bool) (i : FwImage) : State :=
  let back := b != s.sec.activeB
  let s : State := { s with sec := { s.sec with activeB := b, runningB := b, fallback := back, fwVersion := i.firmware, secVersion := i.version,
                                                keySlot := i.keySlot, revokeMask := i.revokes } }
  let s := (((s.measure 0 Config.bootRom).measure 1 (i.header ++ i.body)).measure 2 (s.dev.chart.image s.dev.chartNo)).measure 3 s.sec.fuses
  if back then s.raise (plainAlarm 0x01C7 srcHm []) else s

/-- Whether a slot fails on its security version alone. -/
def State.rolledBack (s : State) (i : Option FwImage) : Bool :=
  match i with
  | some i => s.fwCheck i == 4
  | none => false

/-- VERIFY: a staged image is installed on the way through a WARM reset, then the active slot or the other runs; the fault cause where neither is
accepted. -/
def State.verify (s : State) (warm : Bool) : State × Option Nat :=
  let s := if warm && s.halfOn .west then s.senseStaging else s
  let stage := s.stagedImage
  let s := if warm && s.halfOn .west && fieldAt stage.header 0 4 == fwMagic then s.install stage else s
  let a := s.sec.activeB
  let ok (i : Option FwImage) : Option FwImage := match i with
    | some i => if s.fwCheck i = 0 then some i else none
    | none => none
  match ok (s.slot a), ok (s.slot (!a)) with
  | some i, _ => (s.runImage a i, none)
  | none, some i => (s.runImage (!a) i, none)
  | none, none => (s, some (if s.rolledBack (s.slot a) || s.rolledBack (s.slot (!a)) then 4 else 3))

end Sys2Proof.Machine
end

