-- ==== Sys2Proof/Machine/Boot.lean ====
section
/-! DEFINITION. Bring-up, power and resets (R391–R406, R416, R421): the steps from power-good to READY, what each reset clears, the pins. -/

namespace Sys2Proof.Machine

/-! ### BOOT, VERIFY, GESSO -/

/-- The boot ROM samples the pins and reads the chart that they select; chart 0 replaces one that fails (R398). The rails of both halves then start to
move (R392). -/
def State.bootStart (s : State) (cause : Nat) : State :=
  let n := s.dev.pins % 4
  let good := (s.chartAt n).valid
  let k := if good then n else 0
  let c := s.chartAt k
  let s : State := { s with dev := { s.dev with sampled := n, chart := c, chartNo := k, fallback := !good, warm := false } }
  let s := s.enter .boot cause
  let s := if good then s else s.raise (plainAlarm 0x0405 srcHm [n])
  (s.moveRails c true .west).moveRails c true .east

/-- BOOT_ENTRY: every power-good input is asserted (R391). -/
def execBootEntry (s : State) : Host.Outcome State Fault Refusal :=
  .next (if s.dev.state = .off then
      ({ s with dev := { s.dev with pgW := true, pgE := true, pgAux := true } } : State).bootStart 0
    else s)

/-- CORE_SELF_TEST_DONE (R15, R392). -/
def execCoreSelfTestDone (failed : List (Fin 144)) (s : State) : Host.Outcome State Fault Refusal :=
  let f := failed.map fun p => p.val
  .next (if s.dev.state = .boot then
      let s := (halves.filter s.halfOn).foldl (fun s h => s.selfTest h f) s
      { s with dev := { s.dev with testDone := true } }
    else s)

/-- MEMORY_TRAINING_DONE (R234, R235, R241). -/
def execMemoryTrainingDone (failed : List (Fin 36)) (s : State) : Host.Outcome State Fault Refusal :=
  let f := failed.map fun p => p.val
  .next (if s.dev.state = .boot then
      let r := s.trainMemory s.halfOn f
      let s : State := { r.1 with dev := { r.1.dev with memDone := true } }
      if r.2 then s.enterFault 2 else s
    else s)

/-- BOOT_DONE: every step of R392 is done: self-test, memory training and the training of the port; the rails stand at their targets. -/
def execBootDone (s : State) : Host.Outcome State Fault Refusal :=
  .next (if s.dev.state = .boot ∧ s.dev.testDone ∧ s.dev.memDone ∧ s.host.linkUp then s.settleRails.enter .verify 0 else s)

/-- Whether a half has its numbering. -/
def State.numbered (s : State) (h : Half) : Bool := s.dev.map.any fun e => e.1 / 72 == h.index

/-- Numbers the enabled halves that have no numbering yet; a shortfall is a fault (R15, R17). -/
def State.numberNew (s : State) : State × Bool := s.numberAll fun h => s.halfOn h && !s.numbered h

/-- The end of VERIFY (R459): SEC_STATUS is set (R495), and GESSO begins with the numbering of the cores (R392). -/
def State.verifyDone (s : State) : State :=
  if s.dev.state = .verify ∧ !s.tripped then
    let r := s.verify s.dev.warm
    let s := r.1.latchSec
    match r.2 with
    | some c => s.enterFault c
    | none =>
      let n := (s.enter .gesso 0).numberNew
      if n.2 then n.1 else n.1.enterFault 1
  else s

/-- GESSO_DONE: the enabled halves are filled; on entry to READY the tide starts and the enabled quays train. A tide and quays that a
WARM reset kept go on (R15, R393, R406). -/
def State.gessoDone (s : State) : State :=
  if s.dev.state = .gesso ∧ !s.tripped then
    let n := s.numberNew
    if !n.2 then n.1.enterFault 1
    else
      let s := (halves.filter s.halfOn).foldl State.fillHalf n.1
      let s : State := { s with dev := { s.dev with everReady := true, warm := false } }
      let s := s.enter .ready 0
      let s := if s.tide.running then s else s.startTide
      let s := ((List.range 48).filter fun q => !s.dev.chart.quayOn q).foldl State.disableQuay s
      s.trainQuays ((List.range 48).filter fun q => s.dev.chart.quayOn q && s.halfOn (quayHalf q) && !s.inService q && !s.training q)
  else s

/-! ### What a reset clears (R406, R495) -/

/-- The offsets of a core's block that a plan load writes. -/
def loadedCore (o : Nat) : Bool :=
  [0x318, 0x00C, 0x104, 0x204, 0x304, 0x404, 0x504, 0x604].contains o || decide (0x1000 ≤ o ∧ o < 0x2000)

/-- The offsets of registers that a plan load writes; STEP_NUMBER and LOSS_SCALE stay (R483). -/
def loadedReg (o : Nat) : Bool :=
  if 0x100000 ≤ o ∧ o < 0x300000 then loadedCore (o % 0x4000)
  else if 0x400000 ≤ o ∧ o < 0x600000 then
    let k := o % 0x4000
    k == 4 || decide (0x100 ≤ k ∧ k < 0x200) || decide (0x1000 ≤ k)
  else if 0x30000 ≤ o ∧ o < 0x33000 then o % 0x100 == 0x14
  else if 0x21000 ≤ o ∧ o < 0x23000 then o % 0x1000 == 4 || decide (0x100 ≤ o % 0x1000)
  else [0x20004, 0x20104, 0x33004, 0x40000, 0x40028, 0x4003C].contains o || decide (0x50000 ≤ o ∧ o < 0x70000)

/-- The offsets of registers that a PLAN reset clears. -/
def planReg (o : Nat) : Bool :=
  decide (0x100000 ≤ o) || decide (0x21000 ≤ o ∧ o < 0x23000) || decide (0x40000 ≤ o ∧ o < 0x80000) || o == 0x10200 ||
    (decide (0x20000 ≤ o ∧ o < 0x20200) && decide (o % 0x100 < 0x18)) ||
    (decide (0x30000 ≤ o ∧ o < 0x33000) && decide (0x10 ≤ o % 0x100)) || decide (0x33000 ≤ o ∧ o < 0x34000)

/-- The offsets of registers that a Function Level Reset clears. -/
def flrReg (o : Nat) : Bool := decide (0x100 ≤ o ∧ o < 0x200) || o == 8 || decide (0x2000 ≤ o ∧ o < 0x3100)

/-- The offsets of registers that a WARM reset clears. -/
def warmReg (o : Nat) : Bool :=
  planReg o || decide (o < 0x10000) || decide (0x10110 ≤ o ∧ o < 0x10200) || decide (0x11000 ≤ o ∧ o < 0x11800)

/-- The registers that `which` selects take their Reset column: they are listed no more, nor is what they held at the preceding boundary, or an event that
would be recorded in DET_STATUS. -/
def State.clearRegs (s : State) (which : Nat → Bool) : State :=
  let keep (t : Tab W64) : Tab W64 := t.filter fun e => !which e.1
  { s with regs := keep s.regs, snap := keep s.snap, fresh := keep s.fresh,
           run := if which Reg.detStatus.offset then { s.run with detDue := [] } else s.run }

/-- A quay without its tide tables and the cells of the plan. -/
def Quay.emptied (q : Quay) : Quay := { q with txTable := [], rxTable := [], relayed := [], awaiting := [], arrived := [], heldCells := [] }

/-- Every store that a load writes is cleared, and nothing of the plan is in flight (R483). -/
def State.clearPlan (s : State) : State :=
  { s with run := { RunCtl.reset with detDue := s.run.detDue }, strands := [], code := [], marks := [], signals := [], lockx := [], ops := [], easelFree := [],
           bankFree := [], pipeFree := [], varnishFree := [], vectorFree := [],
           onDie := { s.onDie with sumHeld := [], sumEarly := [], ordinals := [], leafDone := [], reqs := [] },
           main := { s.main with queueFree := [], waiting := [], uses := [] }, manifests := [], grids := [],
           fab := { s.fab with flows := [], signals := [], loads := [], origin := 0, shiftSum := 0, landing := [], pushes := [],
                               quays := s.fab.quays.map fun e => (e.1, e.2.emptied) },
           red := Reduction.reset, com := Commit.reset, plan := none, log := { s.log with armings := [] } }

/-- PLAN_UNLOAD (R483). -/
def planUnloadBody : CmdBody := plainBody fun s _ _ => done (((s.clearPlan.clearRegs loadedReg).unmeasure 5).enter .ready 0x21) []

/-- A command that a reset aborts leaves nothing pending (R373). -/
def State.abortLong (s : State) : State :=
  { s with dev := { s.dev with selecting := none }, tide := { s.tide with pendingSet := none }, host := { s.host with loading := none } }

/-- A PLAN reset takes effect: nothing of the plan is in flight any more. -/
def State.resetPlan (s : State) : State := (((s.abortLong.clearPlan.clearRegs planReg).unmeasure 5)).enter .ready 0x07

/-- The reply of a PLAN reset is written: it takes effect at the stroke boundary at or after it (R405). -/
def State.resetPlanDue (s : State) : State :=
  if s.tide.running && !s.atBoundary then { s with run := { s.run with resetAt := some s.boundary } } else s.resetPlan

/-- At a stroke boundary, a PLAN reset that waits for it. -/
def State.resetNow (s : State) : State := if s.run.resetAt.isSome then s.resetPlan else s

/-- The host interface after a Function Level Reset: mailboxes disabled, no protocol, no MSI-X state, no ring that the device masters, the function in D0 and
not masked (R362; MSI-X enabled as its driver leaves it, log entry 59). -/
def State.hostReset (s : State) : State :=
  { s with host := { s.host with proto := 0, phase := HostIf.reset.phase, held := [], msgDue := false, lastMsg := none,
                                 pci := { s.host.pci with d3hot := false, msixMask := false } },
           log := { s.log with logRing := HostRing.reset, alarmRing := HostRing.reset, trace := { s.log.trace with ring := HostRing.reset } } }

/-- A WARM reset takes effect: VERIFY, with memory, logbook, chart, tide, quays in service and core map kept. -/
def State.resetWarm (s : State) : State :=
  let s := (s.abortLong.clearPlan.clearRegs warmReg).hostReset
  let s := s.unmeasure 5
  let s : State := { s with host := { s.host with busy := none, condition := false, services := [], pendingRegs := [], lastServed := 3 },
                            log := { s.log with trace := Trace.reset }, sec := { s.sec with challenge := none },
                            dev := { s.dev with allocs := [], services := [], warm := true } }
  s.enter .verify 0x07

/-- What the module keeps without power: fuses, firmware slots, certificate and stored charts; and what is outside it: pins and host memory. -/
def State.unpowered (s : State) : State :=
  let c := s.sec
  { State.reset with
    dev := { Device.reset with grade := s.dev.grade, fuseBad := s.dev.fuseBad, stored := s.dev.stored, pins := s.dev.pins, holdLow := s.dev.holdLow,
                               perstLow := s.dev.perstLow }
    sec := { Security.reset with keyDigest := c.keyDigest, keyRevoked := c.keyRevoked, debugDigest := c.debugDigest, debugDisable := c.debugDisable,
                                 rollback := c.rollback, seed := c.seed, slotA := c.slotA, slotB := c.slotB, activeB := c.activeB,
                                 certificate := c.certificate, serial := c.serial }
    host := { HostIf.reset with mem := s.host.mem, lastRead := s.host.lastRead, readData := s.host.readData }
    pending := s.pending
    freeCtr := s.freeCtr }

/-- A COLD reset takes effect: as power-on with the rails kept, BOOT at once from the state in which it fell. The tide's count stands until the tide restarts. -/
def State.resetCold (s : State) : State :=
  if s.tripped then s
  else
    let r := s.unpowered
    let r : State := { r with dev := { r.dev with state := s.dev.state, pgW := s.dev.pgW, pgE := s.dev.pgE, pgAux := s.dev.pgAux }, env := s.env,
                              tide := { Tide.reset with count := s.tide.count, ran := s.tide.ran, refPresent := s.tide.refPresent, ppsPresent := s.tide.ppsPresent },
                              govW := { Governor.reset with vcore := s.govW.vcore, vsram := s.govW.vsram },
                              govE := { Governor.reset with vcore := s.govE.vcore, vsram := s.govE.vsram }, i3c := s.i3c }
    r.bootStart 0x07

/-- The states in which a type of RESET is legal, bit per state code (R404, R405). -/
def State.resetLegal (s : State) (type : Nat) : Nat :=
  let late := s.dev.faultFrom != .boot && s.dev.faultFrom != .verify
  if type = 1 then 0x3F0
  else if type = 2 then if s.dev.state = .fault ∧ late ∧ (s.dev.fault = 6 ∨ s.dev.fault = 7) then 0x7F8 else 0x3F8
  else 0x7F8

/-- RESET (R405): a running L command replies ABORTED_BY_RESET, RESET replies, and the reset takes effect. -/
def resetBody : CmdBody :=
  { plainBody (fun s _ p =>
      let type := fieldAt p 0 1
      if type = 1 ∧ s.dev.state = .ready then noop s
      else
        let post : State → State := if type = 1 then State.resetPlanDue else if type = 2 then State.resetWarm else State.resetCold
        { done (s.finishL 0x0111 []) [] with post := post }) with
    reserved := fun _ p => decide (fieldAt p 0 1 = 0) || decide (3 < fieldAt p 0 1), legal := fun s p => some (s.resetLegal (fieldAt p 0 1)) }

/-! ### Power and pins -/

/-- A loss of power while ROLLBACK_ADVANCE blows its fuses, after `n` of them (R461). -/
def State.fuseCut (s : State) (n : Nat) : State :=
  let c := s.sec
  let runs := s.dev.state == .ready && c.keySlot != 3 && decide (c.rollback < c.target)
  (if runs then { s with sec := c.blow n } else s : State).unpowered

/-- The states from BOOT to RECOVERY. -/
def State.powered (s : State) : Bool := s.dev.state != .off && s.dev.state != .fault

/-- Notes the level of a power-good input: 0 PG_AUX, 1 PG_W, 2 PG_E. -/
def State.setPg (s : State) (input : Fin 3) (v : Bool) : State :=
  { s with dev := if input = 0 then { s.dev with pgAux := v } else if input = 1 then { s.dev with pgW := v } else { s.dev with pgE := v } }

/-- RAIL_GLITCH (R416). -/
def execRailGlitch (input : Fin 3) (s : State) : Host.Outcome State Fault Refusal :=
  let inj := s.armed 0x1E input.val
  let s' := if inj then s.disarm 0x1E input.val else s
  .next (if s.dev.state = .off then s else s'.raise { plainAlarm 0x0403 srcHm [input.val] with injected := inj })

/-- THERMTRIP: THERMTRIP_N falls and stays low, every engine stops, every quay goes dark (R421). -/
def execThermtrip (h : Half) (s : State) : Host.Outcome State Fault Refusal :=
  .next (if s.dev.state = .off then s
    else
      let s := if s.armed 0x1F h.index then s.disarm 0x1F h.index else s
      s.trip h)

/-- A Function Level Reset (R362). -/
def State.functionReset (s : State) : State := ((s.clearRegs flrReg).hostReset).cutOff fun _ => true

/-- FUNCTION_LEVEL_RESET. -/
def execFunctionLevelReset (s : State) : Host.Outcome State Fault Refusal := .next s.functionReset

/-- PERST_ASSERT: as a Function Level Reset, and the link goes down (R405, R406). -/
def execPerstAssert (s : State) : Host.Outcome State Fault Refusal :=
  .next { s.functionReset with dev := { s.dev with perstLow := true }, host := { s.functionReset.host with linkUp := false } }

/-- PERST_RELEASE (R392). -/
def execPerstRelease (s : State) : Host.Outcome State Fault Refusal := .next { s with dev := { s.dev with perstLow := false } }

/-- PCIE_LINK_UP: the port completes its training, which runs from BOOT entry or the release of PERST_N (R373, R392). -/
def execPcieLinkUp (s : State) : Host.Outcome State Fault Refusal :=
  .next (if s.dev.state ≠ .off ∧ !s.dev.perstLow then { s with host := { s.host with linkUp := true } } else s)

end Sys2Proof.Machine
end

