-- ==== Sys2Proof/Machine/Static.lean ====
section
/-! DEFINITION. What the loader can refuse in an instruction without its registers: reserved field values and format pairs (R79, R146). -/

namespace Sys2Proof.Machine

/-- Whether ROWS or COLS exceeds 128. -/
def overTile (w1 : W64) : Bool := decide (128 < fieldOf w1 63 56) || decide (128 < fieldOf w1 55 48)

/-- A reserved encoding, where `bad` holds. -/
def reservedIf (bad : Bool) : Option Nat := if bad then some 0x11 else none

/-- The static check of an EOP (R80, R81, R117). -/
def staticEop (w : Word0) (w1 : W64) : Option Nat :=
  let a := BitVec.ofNat 32 (fieldOf w1 47 37)
  let b := BitVec.ofNat 32 (fieldOf w1 36 26)
  let pat := w.f 22 21
  if w.f 28 25 = 0 ∨ pat = 3 ∨ overTile w1 ∨ fmtInvalid a true false ∨ fmtInvalid b true false then some 0x11
  else match recLayout a b pat (bitOf w.imm.toNat 5) (bitOf w.imm.toNat 4) with
    | none => some 0x220
    | some l => reservedIf (decide (8 * 2 ^ w.f 20 19 < l.c) || (decide (pat ≠ 0) && l.s == 1 && decide (w.f 18 7 % 2 = 1)))

/-- The static check of a DFEED: some operand, and OTHER_FMT exactly for one left out (R194). -/
def staticDfeed (w : Word0) (w2 : W64) : Option Nat :=
  let other := BitVec.ofNat 32 (fieldOf w2 25 15)
  reservedIf (decide (w.f 28 25 = 0) || decide (w.f 23 22 = 3) || (w.a == 0 && w.c == 0) || (w.a != 0 && w.c != 0 && other != 0) ||
    fmtInvalid other true false)

/-- The static check of an instruction: the refusal of row 13 of R485, if any. -/
def staticCause : Instr → Option Nat
  | .sysrd _ w => reservedIf (decide (6 ≤ w.f 3 0))
  | .eop _ w w1 _ => staticEop w w1
  | .vst _ w w1 => reservedIf (decide (w.f 25 24 = 3) || overTile w1 || (bitOf w.imm.toNat 23 && decide (fieldOf w1 47 47 = 1)))
  | .pcvt _ _ w1 => reservedIf (fmtInvalid (w1.setWidth 32) false false)
  | .sketch _ w _ _ => reservedIf (decide (128 < w.f 28 21))
  | .vew _ w w1 =>
    let op := w.f 11 8
    let b := fieldOf w1 47 24
    reservedIf (overTile w1 || decide (0xC ≤ op) || decide ((b ≠ 0) ≠ vewNeedsB op) || (b == 0 && fieldOf w1 23 0 != 0))
  | .vred _ w w1 => reservedIf (overTile w1 || w.f 9 8 == 3)
  | .mevo _ w _ _ => reservedIf (decide (1024 < w.f 28 18))
  | .rng _ _ w1 => reservedIf (decide (0xFFFFFFFE ≤ fieldOf w1 31 0))
  | .crc _ w _ => reservedIf (w.f 9 8 == 3)
  | .dcopy _ _ w1 => reservedIf (overTile w1)
  | .dfeed _ w _ w2 => staticDfeed w w2
  | .dset _ _ w1 => reservedIf (overTile w1)
  | .fst _ _ w1 => reservedIf (overTile w1)
  | .fld _ _ w1 => reservedIf (overTile w1)
  | .fatom _ _ w1 => reservedIf (decide (8 ≤ fieldOf w1 3 0))
  | .fence _ w => reservedIf (w.f 1 0 == 3)
  | .fen _ w => reservedIf (w.f 1 0 == 3)
  | .mma _ w =>
    let f := w.f 24 21
    reservedIf (!(decide (1 ≤ f ∧ f ≤ 4) || f == 8))
  | .ldf _ w _ => reservedIf (w.a == 0 && w.c == 0)
  | _ => none

/-- Whether an instruction is SYSRD of the active core count (R150). -/
def readsGrade : Instr → Bool
  | .sysrd _ w => w.f 3 0 == 3
  | _ => false

/-- The flow of a FATOM. -/
def atomicFlow : Instr → Option Nat
  | .fatom _ _ w1 => some (fieldOf w1 47 32)
  | _ => none

end Sys2Proof.Machine
end

