-- ==== Sys2Proof/Machine/Image.lean ====
section
/-! DEFINITION. The plan image (R471–R481, R499–R502): its header and sections, their records, and rows 1 to 8 of the load checks (R485). -/

namespace Sys2Proof.Machine

/-! ### Refusals -/

/-- A refusal of the loader: its code, and what the reply names (section, entry, core, resource). -/
structure LoadErr where
  code  : Nat
  items : List Nat
  deriving DecidableEq, Repr

/-- A refusal where `bad` holds. -/
def errIf (bad : Bool) (code : Nat) (items : List Nat) : Option LoadErr := if bad then some ⟨code, items⟩ else none

/-- A list with the index of each element. -/
def indexed {α : Type} (l : List α) : List (Nat × α) := (List.range l.length).zip l

/-- The first refusal over the elements of a list, by index. -/
def errAny {α : Type} (l : List α) (f : Nat → α → Option LoadErr) : Option LoadErr := (indexed l).findSome? fun e => f e.1 e.2

/-- The first refusal of a list of checks, in order. -/
def errFirst (l : List (Unit → Option LoadErr)) : Option LoadErr := l.findSome? fun f => f ()

/-! ### The image -/

/-- A section table entry. -/
structure Sect where
  type    : Nat
  variant : Nat
  len     : Nat
  off     : Nat
  deriving DecidableEq, Repr

/-- The entries of the section table. -/
def sectsOf (img : List Byte) : List Sect :=
  (List.range (fieldAt img 0x1A 2)).map fun i =>
    let o := 0x40 + 16 * i
    { type := fieldAt img o 2, variant := fieldAt img (o + 2) 2, len := fieldAt img (o + 4) 4, off := fieldAt img (o + 8) 8 }

/-- The bytes of a section. -/
def Sect.bytes (x : Sect) (img : List Byte) : List Byte := sliceBytes img x.off x.len

/-- The bytes of the section of a type; none where the image omits it. -/
def sectOf (img : List Byte) (type : Nat) : List Byte :=
  match (sectsOf img).find? fun x => x.type == type with
  | some x => x.bytes img
  | none => []

/-- The fixed-size records of a section. -/
def recordsOf (size : Nat) (bs : List Byte) : List (List Byte) := (List.range (bs.length / size)).map fun i => sliceBytes bs (size * i) size

/-- Header fields. -/
def imgIsa1 (img : List Byte) : Bool := fieldAt img 6 1 == 1
def imgRelaxed (img : List Byte) : Bool := bitOf (fieldAt img 7 1) 0
def imgKeep (img : List Byte) : Bool := bitOf (fieldAt img 7 1) 1
def imgCycle (img : List Byte) : Nat := fieldAt img 0x38 4

/-! ### Records -/

/-- A tile class (R475). -/
structure TileClass where
  codeFirst : Nat
  codeWords : Nat
  entryPc   : Nat
  strands   : Nat
  entry     : Nat
  berths    : Nat
  counters  : Nat
  locks     : Nat
  padBytes  : Nat
  manFirst  : Nat
  manCount  : Nat
  initLen   : Nat
  initOff   : Nat
  deriving DecidableEq, Repr

/-- A class descriptor. -/
def classOf (r : List Byte) : TileClass :=
  { codeFirst := fieldAt r 0 4, codeWords := fieldAt r 4 4, entryPc := fieldAt r 8 4, strands := fieldAt r 0xC 2, entry := fieldAt r 0xE 2,
    berths := fieldAt r 0x10 2, counters := fieldAt r 0x12 2, locks := fieldAt r 0x14 1, padBytes := fieldAt r 0x18 4,
    manFirst := fieldAt r 0x1C 4, manCount := fieldAt r 0x20 4, initLen := fieldAt r 0x24 4, initOff := fieldAt r 0x28 8 }

/-- The classes of an image. -/
def classesOf (img : List Byte) : List TileClass := (recordsOf 64 (sectOf img 2)).map classOf

/-- A placement group and its list of logical work tiles (R476, R499). -/
structure Group where
  base : Nat
  span : Nat
  resv : Nat
  cls  : Nat
  list : Nat
  n    : Nat
  deriving DecidableEq, Repr

/-- The groups of a GROUPS section. -/
def groupsIn (bs : List Byte) : List Group :=
  (List.range (fieldAt bs 0 4)).map fun i =>
    let o := 8 + 16 * i
    { base := fieldAt bs o 1, span := fieldAt bs (o + 1) 1, resv := fieldAt bs (o + 2) 2, cls := fieldAt bs (o + 4) 4,
      n := fieldAt bs (o + 8) 4, list := fieldAt bs (o + 12) 4 }

/-- The tiles of a group. -/
def Group.tiles (g : Group) (bs : List Byte) : List Nat := (List.range g.n).map fun i => fieldAt bs (g.list + 4 * i) 4

/-- A SYNC record (R500): its offset in the section, its header, its body. -/
structure SyncRec where
  kind  : Nat
  resv  : Nat
  index : Nat
  cls   : Nat
  body  : List Byte
  deriving DecidableEq, Repr

/-- The length of a SYNC body, by its kind and what follows the header; `none` for a reserved kind. -/
def syncLen (kind : Nat) (rest : List Byte) : Option Nat :=
  match kind with
  | 1 => some 16
  | 2 => some 32
  | 3 => some (8 + 8 * fieldAt rest 0 4)
  | 4 => some 8
  | 5 => some 8
  | 6 => some 8
  | _ => none

/-- The SYNC records of a section, and whether they end with it; a record of a reserved kind ends the walk. -/
def syncWalk : Nat → List Byte → List SyncRec × Bool
  | 0, bs => ([], bs.isEmpty)
  | fuel + 1, bs =>
    if bs.isEmpty then ([], true)
    else if bs.length < 8 then ([], false)
    else
      let rest := bs.drop 8
      let head : SyncRec := { kind := fieldAt bs 0 1, resv := fieldAt bs 1 1, index := fieldAt bs 2 2, cls := fieldAt bs 4 4, body := [] }
      match syncLen head.kind rest with
      | none => ([head], true)
      | some n =>
        if rest.length < n then ([], false)
        else
          let r := syncWalk fuel (rest.drop n)
          ({ head with body := rest.take n } :: r.1, r.2)

/-- The SYNC records of an image. -/
def syncOf (img : List Byte) : List SyncRec := (syncWalk (sectOf img 7).length (sectOf img 7)).1

/-- A SUMS record (R501). -/
structure SumRec where
  slice  : Nat
  descr  : Nat
  resv   : Nat
  cfg    : W64
  leaves : List Nat
  pad    : Nat
  deriving DecidableEq, Repr

/-- The SUMS records of a section, and whether they end with it. -/
def sumWalk : Nat → List Byte → List SumRec × Bool
  | 0, bs => ([], bs.isEmpty)
  | fuel + 1, bs =>
    if bs.isEmpty then ([], true)
    else
      let n := fieldAt bs 14 2
      let size := 16 + ceilDiv n 2 * 8
      if bs.length < size then ([], false)
      else
        let r := sumWalk fuel (bs.drop size)
        ({ slice := fieldAt bs 0 1, descr := fieldAt bs 1 1, resv := fieldAt bs 2 6, cfg := BitVec.ofNat 64 (fieldAt bs 8 8),
           leaves := (List.range n).map fun i => fieldAt bs (16 + 4 * i) 4, pad := fieldAt bs (16 + 4 * n) (size - 16 - 4 * n) } :: r.1, r.2)

/-- The SUMS records of an image. -/
def sumsOf (img : List Byte) : List SumRec := (sumWalk (sectOf img 8).length (sectOf img 8)).1

/-- A relocation record (R479). -/
structure Reloc where
  sect   : Nat
  bit    : Nat
  width  : Nat
  kind   : Nat
  owner  : Nat
  offset : Nat
  arg    : Nat
  deriving DecidableEq, Repr

/-- The relocation records of an image. -/
def relocsOf (img : List Byte) : List Reloc :=
  (recordsOf 16 (sectOf img 0xF)).map fun r =>
    { sect := fieldAt r 0 1, bit := fieldAt r 1 1, width := fieldAt r 2 1, kind := fieldAt r 3 1, owner := fieldAt r 4 4, offset := fieldAt r 8 4,
      arg := fieldAt r 12 4 }

/-- The MANIFESTS records: each scope word, then the record (R478). -/
def manifestRecs (img : List Byte) : List (Nat × List Byte) := (recordsOf 200 (sectOf img 4)).map fun r => (fieldAt r 0 8, r.drop 8)

/-- Whether a MANIFESTS record has PLAN scope. -/
def isPlanScope (r : Nat × List Byte) : Bool := r.1 % 4 == 1

/-- A quay direction that a SCHEDULE section lists, and its table. -/
structure QuayTable where
  quay  : Nat
  dir   : Nat
  resv  : Nat
  table : List W32
  deriving DecidableEq, Repr

/-- A SCHEDULE section (R480): its value table, its slot tables, its quay directions. -/
structure Sched where
  values : List Nat
  west   : List Nat
  east   : List Nat
  quays  : List QuayTable
  deriving DecidableEq, Repr

/-- The bytes of a listed quay direction. -/
def quayTableLen : Nat := 4 + 4 * 16384

/-- The length that the counts of a SCHEDULE section give. -/
def schedLen (bs : List Byte) : Nat :=
  let v := 4 + 8 * fieldAt bs 0 4
  v + 188 + quayTableLen * fieldAt bs (v + 184) 4

/-- A SCHEDULE section's contents. -/
def schedOf (bs : List Byte) : Sched :=
  let n := fieldAt bs 0 4
  let v := 4 + 8 * n
  let q (i : Nat) : QuayTable :=
    let o := v + 188 + quayTableLen * i
    { quay := fieldAt bs o 1, dir := fieldAt bs (o + 1) 1, resv := fieldAt bs (o + 2) 2,
      table := (List.range 16384).map fun k => BitVec.ofNat 32 (fieldAt bs (o + 4 + 4 * k) 4) }
  { values := (List.range n).map fun i => fieldAt bs (4 + 8 * i) 8, west := (sliceBytes bs v 92).map fun b => b.toNat,
    east := (sliceBytes bs (v + 92) 92).map fun b => b.toNat, quays := (List.range (fieldAt bs (v + 184) 4)).map q }

/-- The SCHEDULE section that is selected for a placement count. -/
def scheduleFor (img : List Byte) (a : Nat) : Option Sched :=
  ((sectsOf img).find? fun x => x.type == 0x10 && x.variant == a).map fun x => schedOf (x.bytes img)

/-! ### Rows 1 to 3 -/

/-- Row 1: the scatter list, of `entries` entries. -/
def scatterBad (size entries : Nat) (l : List (Nat × Nat)) : Bool :=
  (l.any fun e => decide (e.1 % 4096 ≠ 0) || e.2 == 0) || decide ((l.map fun e => e.2).sum < size) || decide (65536 < entries)

/-- The size of the records of a section type that has fixed-size records; REDUCE holds 256 descriptors and 8,192 node entries (log entry 7). -/
def recordSize : Nat → Option Nat
  | 1 => some 8
  | 2 => some 64
  | 4 => some 200
  | 5 => some 32
  | 6 => some 16
  | 9 => some 48
  | 0xC => some 88
  | 0xD => some 8
  | 0xF => some 16
  | _ => none

/-- Whether two byte ranges share a byte. -/
def overlaps (a n b m : Nat) : Bool := decide (0 < n) && decide (0 < m) && decide (a < b + m) && decide (b < a + n)

/-- Whether the counts of a GROUPS section give its length, with each list after the last group, within the section and apart from the others. -/
def groupsFit (bs : List Byte) : Bool :=
  let n := fieldAt bs 0 4
  let gs := groupsIn bs
  decide (8 ≤ bs.length) && decide (1 ≤ n) && decide (8 + 16 * n ≤ bs.length) &&
    decide (8 + 16 * n + 4 * (gs.map fun g => g.n).sum = bs.length) &&
    (gs.all fun g => decide (g.list % 4 = 0) && decide (8 + 16 * n ≤ g.list) && decide (g.list + 4 * g.n ≤ bs.length)) &&
    (gs.zipIdx.all fun a => gs.zipIdx.all fun b => decide (a.2 = b.2) || !overlaps a.1.list (4 * a.1.n) b.1.list (4 * b.1.n))

/-- Whether no two elements of a list are equal. -/
def distinct {α : Type} [DecidableEq α] : List α → Bool
  | [] => true
  | x :: xs => !xs.contains x && distinct xs

/-- Whether the LOCK and list records agree: a realignment list's COUNT is its lock's LIST_LEN (R500). -/
def listsFit (rs : List SyncRec) : Bool :=
  rs.all fun r => r.kind != 3 || (rs.any fun l => l.kind == 2 && l.index == r.index && l.cls == r.cls && bitsOf (fieldAt l.body 0 8) 26 16 == fieldAt r.body 0 4)

/-- Whether a section's LENGTH is what its type and its counts ask for, and its records are not duplicated where that is a matter of form. -/
def sectFits (t : Nat) (bs : List Byte) : Bool :=
  match recordSize t with
  | some n => decide (bs.length % n = 0) && (t != 9 || decide (bs.length ≤ 48 * 65536)) &&
      (t != 0xD || distinct ((recordsOf 8 bs).map fun r => fieldAt r 0 2))
  | none =>
    if t = 3 then groupsFit bs
    else if t = 7 then
      let r := syncWalk bs.length bs
      r.2 && distinct (r.1.map fun x => (x.kind, x.index, x.cls)) && listsFit r.1
    else if t = 8 then (sumWalk bs.length bs).2
    else if t = 0xA then decide (bs.length = 256 * 64 + 8192 * 32)
    else if t = 0xB then decide (8 ≤ bs.length ∧ bs.length ≤ 8 + 4096)
    else if t = 0x10 then decide (4 ≤ bs.length) && decide (schedLen bs = bs.length)
    else true

/-- Row 3: PLAN_FORMAT. -/
def formatErr (size : Nat) (img : List Byte) : Option LoadErr :=
  let n := fieldAt img 0x1A 2
  let ss := sectsOf img
  let check := crc32c (img.take 0x1C ++ leBytes 4 0 ++ img.drop 0x20)
  (errIf (decide (2 ^ 32 < size) || decide (size < 0x40) || fieldAt img 0 4 != 0x4C505653 || fieldAt img 4 2 != 4 ||
      fieldAt img 0x10 8 != size || fieldAt img 0x1C 4 != check || decide (n < 1 ∨ 64 < n) || decide (size < 0x40 + 16 * n)) 0x180 [0]).orElse fun _ =>
  errAny ss fun i x =>
    let clash := ss.zipIdx.any fun y => decide (y.2 < i) &&
      (overlaps x.off x.len y.1.off y.1.len || (x.type == y.1.type && (x.type != 0x10 || x.variant == y.1.variant)))
    errIf (decide (x.off % 64 ≠ 0) || decide (x.off < 0x40 + 16 * n) || decide (size < x.off + x.len) || clash || !sectFits x.type (x.bytes img))
      0x180 [x.type, i]

/-! ### Row 4 -/

/-- The bits of a register that its host-writable fields take. -/
def Reg.writable (r : Reg) : Nat := r.fields.foldl (fun m f => m ||| (2 ^ (f.hi + 1) - 2 ^ f.lo)) 0

/-- The cause enable register of a unit kind, on its first instance; `none` for a reserved kind (R502). -/
def enableReg : Nat → Option Reg
  | 0 => some (.palCauseEn 0)
  | 1 => some (.easelCauseEn 0)
  | 2 => some (.sparseCauseEn 0)
  | 3 => some (.seqCauseEn 0)
  | 4 => some (.dmaCauseEn 0)
  | 5 => some (.padCauseEn 0)
  | 6 => some (.galCauseEn 0)
  | 7 => some (.memCauseEn .west)
  | 8 => some (.quayCauseEn 0)
  | 9 => some .fabricCauseEn
  | 10 => some (.redCauseEn .west)
  | 11 => some .commitCauseEn
  | 14 => some (.cvuCauseEn 0)
  | _ => none

/-- Reserved bits of a class, a group, a grid, a flow context and an ENABLES record. -/
def classReserved (r : List Byte) : Bool := fieldAt r 0x15 3 != 0 || fieldAt r 0x30 16 != 0
def gridReserved (r : List Byte) : Bool :=
  let axes := fieldAt r 0 4
  decide (axes < 1 ∨ 4 < axes) || fieldAt r 6 2 != 0 || fieldAt r 0x18 8 != 0 ||
    (List.range 4).any fun a => decide ((fieldAt r (8 + 4 * a) 2 = 0) ≠ (axes ≤ a))
def flowReserved (r : List Byte) : Bool :=
  let w := fieldAt r 0 4
  bitsOf w 1 0 == 3 || bitsOf w 31 25 != 0 || fieldAt r 0x14 4 != 0 || bitsOf (fieldAt r 0x18 8) 63 42 != 0 || bitsOf (fieldAt r 0x20 8) 63 42 != 0 ||
    fieldAt r 0x28 8 != 0
def enableReserved (r : List Byte) : Bool :=
  match enableReg (fieldAt r 0 2) with
  | none => true
  | some x => fieldAt r 2 2 != 0 || (fieldAt r 4 4 &&& x.writable) != fieldAt r 4 4

/-- Reserved bits and values of a SYNC record (R156, R163, R167, R500). -/
def SyncRec.reserved (r : SyncRec) : Bool :=
  let b := r.body
  let cfg := fieldAt b 0 8
  r.resv != 0 || (match r.kind with
    | 1 => fieldAt b 8 8 != 0 || bitsOf cfg 63 50 != 0 || bitOf cfg 48 || bitsOf cfg 16 0 != 0 || decide (4096 < bitsOf cfg 47 35)
    | 2 =>
      let scope := bitsOf cfg 47 46
      scope == 3 || fieldAt b 29 3 != 0 || (scope == 1 && bitsOf cfg 15 0 != 0) || (scope != 1 && fieldAt b 24 5 != 0)
    | 3 => fieldAt b 4 4 != 0 || (recordsOf 8 (b.drop 8)).any fun e => bitsOf (fieldAt e 0 8) 62 44 != 0
    | 4 => fieldAt b 4 4 != 0
    | 5 => fieldAt b 4 4 != 0
    | 6 => false
    | _ => true)

/-- Reserved bits and values of a SUMS record (R208, R501). -/
def SumRec.reserved (r : SumRec) : Bool :=
  let leaves := fieldOf r.cfg 63 48
  let tiles := fieldOf r.cfg 47 40
  decide (127 < r.slice ∨ 15 < r.descr ∨ r.resv ≠ 0 ∨ r.pad ≠ 0) || decide (leaves < 2 ∨ 33 < leaves) || decide (tiles < 1 ∨ 64 < tiles) ||
    fieldOf r.cfg 32 29 != 0 || fieldOf r.cfg 18 0 != 0

/-- Reserved values of a relocation record. -/
def Reloc.reserved (r : Reloc) : Bool :=
  decide (r.sect < 1 ∨ 0x10 < r.sect) || decide (r.width < 1 ∨ 64 < r.width) || decide (r.kind < 1 ∨ 0xB < r.kind)

/-- Reserved values of a SCHEDULE section. -/
def Sched.reserved (x : Sched) : Bool := x.quays.any fun q => decide (47 < q.quay ∨ 1 < q.dir) || q.resv != 0

/-- Reserved bits of COMMIT: COMMIT_CFG and the part counts (R317, R336). -/
def commitReserved (bs : List Byte) : Bool := !bs.isEmpty && (bitsOf (fieldAt bs 0 8) 15 0 != 0 || (bs.drop 8).any fun b => decide (64 < b.toNat))

/-- Whether an offset lies in the header, the section table or a section. -/
def covered (img : List Byte) (ss : List Sect) (o : Nat) : Bool :=
  decide (o < 0x40 + 16 * ss.length) || ss.any fun x => decide (x.off ≤ o) && decide (o < x.off + x.len) && decide (o < img.length)

/-- Whether a byte that no field covers is not zero (R471). -/
def gapBad (img : List Byte) (ss : List Sect) : Bool := (indexed img).any fun e => e.2 != 0 && !covered img ss e.1

/-- Reserved encodings of the header: ISA, FLAGS, the reserved bytes, and LOSS_SCALE where the load takes it (R472, R349; log entry 65). -/
def headerReserved (img : List Byte) : Bool :=
  let isa := fieldAt img 6 1
  decide (isa < 1 ∨ 2 < isa) || decide (3 < fieldAt img 7 1) || fieldAt img 0x3C 4 != 0 ||
    (!imgKeep img && !(reservedFields .lossScale (BitVec.ofNat 64 (fieldAt img 0x30 8))).isEmpty)

/-- Row 4: RESERVED_ENCODING. -/
def reservedErr (img : List Byte) : Option LoadErr :=
  let ss := sectsOf img
  let each (t size : Nat) (bad : List Byte → Bool) : Option LoadErr := errAny (recordsOf size (sectOf img t)) fun i r => errIf (bad r) 0x11 [t, i]
  let gs := sectOf img 3
  errFirst [
    fun _ => errIf (headerReserved img) 0x11 [0],
    fun _ => errAny ss fun i x => errIf (decide (x.type < 1 ∨ 0x10 < x.type) || (x.type != 0x10 && x.variant != 0)) 0x11 [x.type, i],
    fun _ => each 2 64 classReserved,
    fun _ => errIf (fieldAt gs 4 4 != 0) 0x11 [3],
    fun _ => errAny (groupsIn gs) fun i g => errIf (g.resv != 0) 0x11 [3, i],
    fun _ => errAny (manifestRecs img) fun i r => errIf (decide (1 < r.1)) 0x11 [4, i],
    fun _ => each 5 32 gridReserved,
    fun _ => errAny (syncOf img) fun i r => errIf r.reserved 0x11 [7, i],
    fun _ => errAny (sumsOf img) fun i r => errIf r.reserved 0x11 [8, i],
    fun _ => each 9 48 flowReserved,
    fun _ => errIf (commitReserved (sectOf img 0xB)) 0x11 [0xB],
    fun _ => each 0xD 8 enableReserved,
    fun _ => errAny (relocsOf img) fun i r => errIf r.reserved 0x11 [0xF, i],
    fun _ => errAny ss fun i x => errIf (x.type == 0x10 && (schedOf (x.bytes img)).reserved) 0x11 [0x10, i],
    fun _ => errIf (gapBad img ss) 0x11 [0]]

/-! ### Rows 5 to 8 -/

/-- Whether an image holds flows or HALL locks. -/
def hasFlows (img : List Byte) : Bool :=
  (recordsOf 48 (sectOf img 9)).any (fun r => fieldAt r 0 1 % 4 != 0) || (syncOf img).any fun r => r.kind == 2 && bitsOf (fieldAt r.body 0 8) 47 46 == 2

/-- Row 7: what an SSI-1 image may hold (R473). -/
def isaErr (img : List Byte) : Option LoadErr :=
  if imgIsa1 img then
    (errAny (sectsOf img) fun i x => errIf ([5, 8, 0xA, 0xB, 0xC].contains x.type) 0x183 [x.type, i]).orElse fun _ =>
    errAny (manifestRecs img) fun i r =>
      let m := manifestOf r.2
      errIf (m.distributed || m.stencilled || scaleFmtOf m.format != 0) 0x183 [4, i]
  else none

/-- Rows 3 to 8. -/
def State.imageErr (s : State) (size : Nat) (img : List Byte) : Option LoadErr :=
  errFirst [
    fun _ => formatErr size img,
    fun _ => reservedErr img,
    fun _ => errIf (hasFlows img && fieldAt img 0x18 2 != s.fab.chip) 0x182 [],
    fun _ => errIf (imgRelaxed img != s.dev.chart.relaxed) 0x140 [],
    fun _ => isaErr img,
    fun _ => errIf (scheduleFor img s.enabledCores.length).isNone 0x184 [0x10]]

end Sys2Proof.Machine
end

