-- ==== Sys2Proof/Machine/Place.lean ====
section
/-! DEFINITION. Placement and relocation (R474–R479, R500): rows 9 to 13 of the load checks, the code of each core, the records of each tile. -/

namespace Sys2Proof.Machine

/-! ### Placement (R474–R477) -/

/-- A placed tile: its number, class, logical core, ordinal and the first of each resource (R476, R477). -/
structure Tile where
  no      : Nat
  cls     : Nat
  core    : Nat
  ordinal : Nat
  ctx     : Nat
  berth   : Nat
  counter : Nat
  lock    : Nat
  man     : Nat
  arena   : Nat
  deriving DecidableEq, Repr

/-- A placed image: its classes and tiles, the code copies (core, class, first word), the selected schedule and its VARIANT. -/
structure Placed where
  img     : List Byte
  classes : List TileClass
  tiles   : List Tile
  copies  : List (Nat × Nat × Nat)
  sched   : Sched
  variant : Nat
  deriving DecidableEq, Repr

/-- A class by its index. -/
def Placed.cls (p : Placed) (i : Nat) : TileClass := p.classes.getD i (classOf [])

/-- The placement of a group's tiles on `a` placement positions: number, position, ordinal (R476). -/
def Group.place (g : Group) (a : Nat) (bs : List Byte) : List (Nat × Nat × Nat) :=
  let b := g.base * a / 128
  let w := max 1 (g.span * a / 128)
  let q := ceilDiv g.n w
  (indexed (g.tiles bs)).map fun e => (e.2, b + e.1 / q, e.1 % q)

/-- The resources that a core has given so far. -/
structure Used where
  ctx     : Nat
  berth   : Nat
  counter : Nat
  lock    : Nat
  man     : Nat
  pad     : Nat
  code    : Nat
  deriving DecidableEq, Repr

/-- A core that has given nothing. -/
def Used.none : Used := { ctx := 0, berth := 0, counter := 0, lock := 0, man := 0, pad := 0, code := 0 }

/-- Gives a tile the next free ranges of its core, and copies its class's code there when it is the first of its class (R477). -/
def placeTile (classes : List TileClass) (acc : List Tile × List (Nat × Nat × Nat) × Tab Used) (x : Nat × Nat × Nat × Nat) :
    List Tile × List (Nat × Nat × Nat) × Tab Used :=
  let no := x.1
  let cls := x.2.1
  let core := x.2.2.1
  let c := classes.getD cls (classOf [])
  let u := Tab.get Used.none acc.2.2 core
  let t : Tile := { no := no, cls := cls, core := core, ordinal := x.2.2.2, ctx := u.ctx, berth := u.berth, counter := u.counter, lock := u.lock,
                    man := 4096 * core + 1 + u.man, arena := u.pad }
  let first := !acc.2.1.any fun e => e.1 == core && e.2.1 == cls
  let u' : Used := { ctx := u.ctx + c.strands, berth := u.berth + c.berths, counter := u.counter + c.counters, lock := u.lock + c.locks,
                     man := u.man + c.manCount, pad := u.pad + ceilDiv c.padBytes 128 * 128, code := u.code + if first then c.codeWords else 0 }
  (acc.1 ++ [t], (if first then acc.2.1 ++ [(core, cls, u.code)] else acc.2.1), Tab.put acc.2.2 core u')

/-- Places an image on the enabled cores, and what each core then has given. -/
def placeImage (img : List Byte) (cores : List Nat) (sched : Sched) : Placed × Tab Used :=
  let bs := sectOf img 3
  let classes := classesOf img
  let all := (groupsIn bs).flatMap fun g => (g.place cores.length bs).map fun e => (e.1, g.cls, cores.getD e.2.1 0, e.2.2)
  let r := all.foldl (placeTile classes) ([], [], [])
  ({ img := img, classes := classes, tiles := r.1, copies := r.2.1, sched := sched, variant := cores.length }, r.2.2)

/-- The tile of a logical work tile number. -/
def Placed.tile (p : Placed) (no : Nat) : Option Tile := p.tiles.find? fun t => t.no == no

/-- The tiles of a class. -/
def Placed.ofClass (p : Placed) (cls : Nat) : List Tile := p.tiles.filter fun t => t.cls == cls

/-- The first word of a class's copy on a core. -/
def Placed.codeBase (p : Placed) (core cls : Nat) : Option Nat := (p.copies.find? fun e => e.1 == core && e.2.1 == cls).map fun e => e.2.2

/-! ### Row 9 -/

/-- The word of CODE at an index. -/
def codeWord (img : List Byte) (i : Nat) : W64 := BitVec.ofNat 64 (fieldAt (sectOf img 1) (8 * i) 8)

/-- Whether walking a class's words by WORDS ends exactly with them; at most `fuel` instructions. -/
def wordsEnd (word : Nat → W64) (n : Nat) : Nat → Nat → Bool
  | 0, i => decide (i = n)
  | fuel + 1, i => if n ≤ i then decide (i = n) else wordsEnd word n fuel (i + wordsOf (word i))

/-- Whether a class descriptor has a field out of range (R475). -/
def TileClass.bad (c : TileClass) (img : List Byte) : Bool :=
  let words := (sectOf img 1).length / 8
  let recs := manifestRecs img
  decide (c.codeWords < 1 ∨ 32768 < c.codeWords) || decide (words < c.codeFirst + c.codeWords) || decide (c.codeWords ≤ c.entryPc) ||
    decide (c.strands < 1 ∨ 2048 < c.strands) || decide (c.entry < 1 ∨ c.strands < c.entry) || decide (4096 < c.berths) ||
    decide (1024 < c.counters) || decide (64 < c.locks) || decide (c.padBytes % 128 ≠ 0) || decide (c.padBytes < c.initLen) ||
    decide ((sectOf img 0xE).length < c.initOff + c.initLen) || decide (recs.length < c.manFirst + c.manCount) ||
    ((recs.drop c.manFirst).take c.manCount).any isPlanScope ||
    !wordsEnd (fun i => codeWord img (c.codeFirst + i)) c.codeWords c.codeWords 0

/-- The objects of a class that a SYNC kind counts. -/
def TileClass.limit (c : TileClass) (kind : Nat) : Nat :=
  match kind with
  | 1 => c.berths
  | 4 => c.berths
  | 6 => c.counters
  | _ => c.locks

/-- The LOCK record of a class's lock. -/
def lockRec (rs : List SyncRec) (cls index : Nat) : Option SyncRec := rs.find? fun r => r.kind == 2 && r.cls == cls && r.index == index

/-- HOME_TILE and HOME_INDEX of a CHIP lock's record. -/
def SyncRec.homeTile (r : SyncRec) : Nat := fieldAt r.body 24 4
def SyncRec.homeIndex (r : SyncRec) : Nat := fieldAt r.body 28 1

/-- LOCK_CFG of a record. -/
def SyncRec.cfg (r : SyncRec) : Nat := fieldAt r.body 0 8

/-- HOME of a CHIP lock (R163, R500): the logical core and the lock of its home lock. -/
def Placed.home (p : Placed) (r : SyncRec) : Option Nat := (p.tile r.homeTile).map fun t => t.core + 2 ^ 8 * ((t.lock + r.homeIndex) % 64)

/-- Whether a CHIP lock's home is not a lock configured as CHIP with the same HOME (R165). -/
def Placed.homeBad (p : Placed) (rs : List SyncRec) (r : SyncRec) : Bool :=
  r.kind == 2 && bitsOf r.cfg 47 46 == 1 && (match p.tile r.homeTile with
    | none => true
    | some t => match lockRec rs t.cls r.homeIndex with
      | none => true
      | some h => bitsOf h.cfg 47 46 != 1 || bitsOf h.cfg 63 48 == 0 || p.home h != p.home r)

/-- Row 9: PLAN_PLACEMENT. -/
def Placed.placeErr (p : Placed) (a : Nat) : Option LoadErr :=
  let bs := sectOf p.img 3
  let rs := syncOf p.img
  errFirst [
    fun _ => errAny (groupsIn bs) fun i g =>
    errIf (decide (127 < g.base) || decide (g.span < 1) || decide (128 < g.base + g.span) || decide (p.classes.length ≤ g.cls) || g.n == 0) 0x185
      [3, i],
    fun _ => errAny p.tiles fun i t => errIf ((p.tiles.take i).any fun u => u.no == t.no) 0x185 [3, t.no],
    fun _ => errAny p.classes fun i c => errIf (c.bad p.img) 0x185 [2, i],
    fun _ => errAny rs fun i r => errIf (decide (p.classes.length ≤ r.cls) || decide ((p.cls r.cls).limit r.kind ≤ r.index)) 0x185 [7, i],
    fun _ => errAny (p.sched.west ++ p.sched.east) fun i e => errIf (e != 0xFF && decide (a ≤ e)) 0x185 [0x10, i],
    fun _ => errAny rs fun i r => errIf (p.homeBad rs r) 0x185 [7, i]]

/-! ### Rows 10 and 11 -/

/-- Row 10: PLAN_RESOURCES. A core with a berth gives 64 KiB of its pad to the berth table (R477). -/
def resourceErr (used : Tab Used) : Option LoadErr :=
  used.findSome? fun e =>
    let u := e.2
    let pad := u.pad + if u.berth = 0 then 0 else 0x10000
    let excess : List Nat := [u.ctx / 2049, u.berth / 4097, u.counter / 1025, u.lock / 65, u.code / 32769, pad / 0x200001]
    match (indexed excess).find? fun x => x.2 != 0 with
    | some x => some ⟨0x186, [2, 0, e.1, x.1]⟩
    | none => none

/-- Row 11: MANIFEST_STORE_FULL. -/
def storeErr (img : List Byte) (cores : List Nat) (used : Tab Used) : Option LoadErr :=
  let n := ((manifestRecs img).filter isPlanScope).length
  cores.findSome? fun c => errIf (decide (4096 < (Tab.get Used.none used c).man + n)) 0x11E [4, 0, c]

/-! ### Relocation (R479) -/

/-- What a relocation target belongs to: its tile, or the core that holds the copy of a class's code. -/
structure Target where
  tile : Option Tile
  core : Nat
  cls  : Nat
  deriving DecidableEq, Repr

/-- A target that belongs to no tile. -/
def Target.plain : Target := { tile := none, core := 128, cls := 0 }

/-- The target that is a tile's copy. -/
def Tile.target (t : Tile) : Target := { tile := some t, core := t.core, cls := t.cls }

/-- The local address of a pad offset of a tile's arena. -/
def Tile.padAddr (t : Tile) : Nat := padBase t.core + t.arena

/-- The value of a relocation at a target. -/
def Placed.value (p : Placed) (r : Reloc) (x : Target) : Option Nat :=
  match r.kind with
  | 1 => x.tile.map fun t => t.arena
  | 2 => x.tile.map fun t => t.ctx
  | 3 => x.tile.map fun t => t.berth
  | 4 => x.tile.map fun t => t.counter
  | 5 => x.tile.map fun t => t.lock
  | 6 => x.tile.map fun t => t.man
  | 7 => p.codeBase x.core x.cls
  | 8 => (p.tile r.arg).map fun t => t.core
  | 9 => (p.tile r.arg).map fun t => t.ordinal
  | 10 => (p.tile r.arg).map fun t => t.padAddr
  | _ => p.sched.values[r.arg]?

/-- Sets a field of a byte string: an ADD kind adds to it, a SET kind replaces it; `none` on a carry out, or outside the string. -/
def patchField (bs : List Byte) (r : Reloc) (v : Nat) : Option (List Byte) :=
  let at_ := 8 * r.offset + r.bit
  let lo := at_ / 8
  let n := ceilDiv (at_ % 8 + r.width) 8
  let x := fieldAt bs lo n
  let old := bitsOf x (at_ % 8 + r.width - 1) (at_ % 8)
  let new := if r.kind ≤ 7 then old + v else v
  if bs.length < lo + n ∨ 2 ^ r.width ≤ new then none
  else some (bs.take lo ++ leBytes n (withBits x (at_ % 8 + r.width - 1) (at_ % 8) new) ++ bs.drop (lo + n))

/-- Applies, in section order, the relocations that `mine` selects. -/
def Placed.patch (p : Placed) (mine : Reloc → Bool) (x : Target) (bs : List Byte) : Option (List Byte) :=
  ((relocsOf p.img).filter mine).foldl (fun acc r => acc.bind fun b => (p.value r x).bind fun v => patchField b r v) (some bs)

/-- Whether a relocation names an entry of a section. -/
def Reloc.on (r : Reloc) (sect owner : Nat) : Bool := r.sect == sect && r.owner == owner

/-- The code of a class's copy on a core. -/
def Placed.codeOf (p : Placed) (core cls : Nat) : Option (List Byte) :=
  let c := p.cls cls
  p.patch (fun r => r.on 1 cls) { tile := none, core := core, cls := cls } (sliceBytes (sectOf p.img 1) (8 * c.codeFirst) (8 * c.codeWords))

/-- The class descriptor at a tile: what it is when the tile starts (log entry 7: relocated once its tiles have been placed by it). -/
def Placed.clsRec (p : Placed) (t : Tile) : Option TileClass :=
  (p.patch (fun r => r.on 2 t.cls) t.target (sliceBytes (sectOf p.img 2) (64 * t.cls) 64)).map classOf

def Placed.clsAt (p : Placed) (t : Tile) : TileClass := (p.clsRec t).getD (p.cls t.cls)

/-- The selected schedule's contents as they are loaded: relocated, but for the value table from which relocations take their values (log entry 7). -/
def Placed.schedRec (p : Placed) : Option Sched :=
  match (sectsOf p.img).find? fun x => x.type == 0x10 && x.variant == p.variant with
  | none => some p.sched
  | some x => (p.patch (fun r => r.on 0x10 0) Target.plain (x.bytes p.img)).map schedOf

def Placed.tables (p : Placed) : Sched := p.schedRec.getD p.sched

/-- The PAD_INIT bytes of a tile. -/
def Placed.initOf (p : Placed) (t : Tile) : Option (List Byte) :=
  let c := p.clsAt t
  p.patch (fun r => r.on 0xE t.cls) t.target (sliceBytes (sectOf p.img 0xE) c.initOff c.initLen)

/-- The tile-scope manifest records of a tile, one after the other. -/
def Placed.tileRecs (p : Placed) (t : Tile) : Option (List Byte) :=
  let c := p.cls t.cls
  p.patch (fun r => r.on 4 t.cls) t.target (((manifestRecs p.img).drop c.manFirst).take c.manCount |>.flatMap fun r => r.2)

/-- The PLAN-scope records, with their index among all records, in order. -/
def Placed.planRecs (p : Placed) : List (Nat × List Byte) :=
  (indexed (manifestRecs p.img)).filterMap fun e => if isPlanScope e.2 then some (e.1, e.2.2) else none

/-- A PLAN-scope record by its index. -/
def Placed.planRec (p : Placed) (e : Nat × List Byte) : Option (List Byte) := p.patch (fun r => r.on 4 (2 ^ 31 + e.1)) Target.plain e.2

/-- A SYNC record at a tile, with its header (R500). -/
def Placed.syncRec (p : Placed) (i : Nat) (r : SyncRec) (t : Tile) : Option SyncRec :=
  (p.patch (fun x => x.on 7 i) t.target (leBytes 1 r.kind ++ leBytes 1 r.resv ++ leBytes 2 r.index ++ leBytes 4 r.cls ++ r.body)).map fun b =>
    { kind := fieldAt b 0 1, resv := fieldAt b 1 1, index := fieldAt b 2 2, cls := fieldAt b 4 4, body := b.drop 8 }

/-- The tiles at which a SYNC record may stand: those of its class, or every one where a relocation changes its header. -/
def Placed.syncTiles (p : Placed) (i : Nat) (r : SyncRec) : List Tile :=
  if (relocsOf p.img).any fun x => x.on 7 i && decide (x.offset < 8) then p.tiles else p.ofClass r.cls

/-- The SYNC records of a kind as they are loaded: each at every tile of the class that it then names (R500). -/
def Placed.syncAll (p : Placed) (kind : Nat) : List (Nat × Tile × SyncRec) :=
  (indexed (syncOf p.img)).flatMap fun e => (p.syncTiles e.1 e.2).filterMap fun t =>
    let x := (p.syncRec e.1 e.2 t).getD e.2
    if x.kind = kind ∧ x.cls = t.cls then some (e.1, t, x) else none

/-- The rings of the berths in use (R158): core, first and end pad offset, entry. BASE counts from the start of the tile's arena (R500). -/
def Placed.rings (p : Placed) : List (Nat × Nat × Nat × Nat) :=
  (p.syncAll 1).filterMap fun e =>
    let d := fieldAt e.2.2.body 0 8
    let first := e.2.1.arena + 8 * bitsOf d 34 17
    if bitsOf d 47 35 = 0 then none else some (e.2.1.core, first, first + 8 * bitsOf d 47 35, e.1)

/-- Row 10 for the rings (R158): one beyond the pad, in the berth table, or over another ring of the core. -/
def Placed.ringErr (p : Placed) : Option LoadErr :=
  let rs := p.rings
  errAny rs fun i r =>
    let clash := (rs.take i).any fun q => decide (q.1 = r.1) && overlaps q.2.1 (q.2.2.1 - q.2.1) r.2.1 (r.2.2.1 - r.2.1)
    errIf (decide (0x1F0000 < r.2.2.1) || clash) 0x186 [7, r.2.2.2, r.1, 1]

/-- A record of another section. -/
def Placed.record (p : Placed) (sect i : Nat) (bs : List Byte) : Option (List Byte) := p.patch (fun r => r.on sect i) Target.plain bs

/-- A SKETCH record at a tile of its class (log entry 7). -/
def Placed.sketchRec (p : Placed) (i : Nat) (bs : List Byte) (t : Tile) : Option (List Byte) := p.patch (fun r => r.on 0xC i) t.target bs

/-- CLASS of a SKETCH record. -/
def sketchClass (bs : List Byte) : Nat := fieldAt bs 76 4

/-- The records of the REDUCE section: 256 channel descriptors, then the West and the East node entries. -/
def reduceRecs (img : List Byte) : List (List Byte) :=
  let bs := sectOf img 0xA
  if bs.isEmpty then [] else recordsOf 64 (bs.take 16384) ++ recordsOf 32 (bs.drop 16384)

/-- How many entries a section has that a relocation can name: its records, its classes or groups; COMMIT and the selected SCHEDULE are one entry each, and RELOC
has none (log entry 7). -/
def Placed.owners (p : Placed) (sect : Nat) : Nat :=
  match sect with
  | 1 => p.classes.length
  | 2 => p.classes.length
  | 3 => (groupsIn (sectOf p.img 3)).length
  | 0x10 => 1
  | 0xE => p.classes.length
  | 5 => (recordsOf 32 (sectOf p.img 5)).length
  | 6 => (recordsOf 16 (sectOf p.img 6)).length
  | 7 => (syncOf p.img).length
  | 8 => (sumsOf p.img).length
  | 9 => (recordsOf 48 (sectOf p.img 9)).length
  | 0xA => (reduceRecs p.img).length
  | 0xB => 1
  | 0xC => (recordsOf 88 (sectOf p.img 0xC)).length
  | 0xD => (recordsOf 8 (sectOf p.img 0xD)).length
  | _ => 0

/-- Whether a relocation names no entry, an absent tile or value, or uses a kind that CODE does not allow. -/
def Placed.relocBad (p : Placed) (r : Reloc) : Bool :=
  let noOwner := if r.sect = 4 then
      if r.owner < 2 ^ 31 then decide (p.classes.length ≤ r.owner)
      else !(p.planRecs.any fun e => e.1 == r.owner - 2 ^ 31)
    else decide (p.owners r.sect ≤ r.owner)
  let noValue := decide (8 ≤ r.kind) && (p.value r Target.plain).isNone
  noOwner || noValue || (r.sect == 1 && decide (r.kind ≤ 6))

/-- The code of a class that no group places, without the values that its copies alone have (CODE_BASE; log entry 7). -/
def Placed.codePlain (p : Placed) (cls : Nat) : Option (List Byte) :=
  let c := p.cls cls
  p.patch (fun r => r.on 1 cls && r.kind != 7) Target.plain (sliceBytes (sectOf p.img 1) (8 * c.codeFirst) (8 * c.codeWords))

/-- The classes that no group places. -/
def Placed.unplaced (p : Placed) : List Nat := (List.range p.classes.length).filter fun i => !p.copies.any fun e => e.2.1 == i

/-- A GROUPS entry as a relocation sees it (R499). -/
def groupBytes (img : List Byte) : List (List Byte) :=
  (List.range (groupsIn (sectOf img 3)).length).map fun i => sliceBytes (sectOf img 3) (8 + 16 * i) 16

/-- The SUMS records as byte strings, for relocation. -/
def sumBytes (img : List Byte) : List (List Byte) :=
  (sumsOf img).map fun r => leBytes 1 r.slice ++ leBytes 1 r.descr ++ leBytes 6 0 ++ leBytes 8 r.cfg.toNat ++ r.leaves.flatMap fun l => leBytes 4 l

/-- Row 12: PLAN_RELOC. -/
def Placed.relocErr (p : Placed) : Option LoadErr :=
  let rs := syncOf p.img
  let fails (sect i : Nat) (b : Option (List Byte)) : Option LoadErr := errIf b.isNone 0x187 [sect, i]
  let plain (sect : Nat) (l : List (List Byte)) : Option LoadErr := errAny l fun i b => fails sect i (p.record sect i b)
  errFirst [
    fun _ => errAny (relocsOf p.img) fun i r => errIf (p.relocBad r) 0x187 [0xF, i],
    fun _ => p.copies.findSome? fun e => fails 1 e.2.1 (p.codeOf e.1 e.2.1),
    fun _ => p.unplaced.findSome? fun i => fails 1 i (p.codePlain i),
    fun _ => p.tiles.findSome? fun t => errIf (p.clsRec t).isNone 0x187 [2, t.cls],
    fun _ => plain 3 (groupBytes p.img),
    fun _ => errIf p.schedRec.isNone 0x187 [0x10, 0],
    fun _ => p.tiles.findSome? fun t => fails 4 t.cls (p.tileRecs t),
    fun _ => p.planRecs.findSome? fun e => fails 4 e.1 (p.planRec e),
    fun _ => p.tiles.findSome? fun t => fails 0xE t.cls (p.initOf t),
    fun _ => errAny rs fun i r => (p.syncTiles i r).findSome? fun t => errIf (p.syncRec i r t).isNone 0x187 [7, i],
    fun _ => errAny (recordsOf 88 (sectOf p.img 0xC)) fun i r => (p.ofClass (sketchClass r)).findSome? fun t => fails 0xC i (p.sketchRec i r t),
    fun _ => plain 5 (recordsOf 32 (sectOf p.img 5)),
    fun _ => plain 6 (recordsOf 16 (sectOf p.img 6)),
    fun _ => plain 8 (sumBytes p.img),
    fun _ => plain 9 (recordsOf 48 (sectOf p.img 9)),
    fun _ => plain 0xA (reduceRecs p.img),
    fun _ => plain 0xB [sectOf p.img 0xB],
    fun _ => plain 0xD (recordsOf 8 (sectOf p.img 0xD))]

/-! ### Relocated contents -/

/-- The words of a class's copy on a core. -/
def Placed.words (p : Placed) (core cls : Nat) : List W64 :=
  (recordsOf 8 ((p.codeOf core cls).getD [])).map fun b => BitVec.ofNat 64 (fieldAt b 0 8)

/-- The relocated records of a section whose records belong to no tile. -/
def Placed.records (p : Placed) (sect size : Nat) : List (List Byte) :=
  (indexed (recordsOf size (sectOf p.img sect))).map fun e => (p.record sect e.1 e.2).getD e.2

/-- The relocated SUMS records. -/
def Placed.sums (p : Placed) : List SumRec :=
  (indexed (sumBytes p.img)).flatMap fun e => (sumWalk 1 (let b := (p.record 8 e.1 e.2).getD e.2; b ++ List.replicate (b.length % 8) 0)).1

/-- The relocated COMMIT section. -/
def Placed.commit (p : Placed) : List Byte := (p.record 0xB 0 (sectOf p.img 0xB)).getD []

/-- The relocated REDUCE records. -/
def Placed.reduce (p : Placed) : List (List Byte) := (indexed (reduceRecs p.img)).map fun e => (p.record 0xA e.1 e.2).getD e.2

/-- The manifests of a core by number: its tiles' records in increasing number, then the PLAN records (R478, row 15 of R485). -/
def Placed.manifestsOn (p : Placed) (core : Nat) : List (Nat × List Byte) :=
  ((p.tiles.filter fun t => t.core == core).flatMap fun t =>
      (indexed (recordsOf 192 ((p.tileRecs t).getD []))).map fun e => (t.man + e.1, e.2)) ++
    (indexed p.planRecs).map fun e => (0x800000 + e.1, (p.planRec e.2).getD e.2.2)

/-! ### Row 13 -/

/-- The instructions of a list of words, with their word numbers; `none` for words that are no instruction. At most `fuel` of them. -/
def decodeAll (isa1 : Bool) (core : Nat) : Nat → Nat → List W64 → List (Nat × Option Instr)
  | 0, _, _ => []
  | _, _, [] => []
  | fuel + 1, i, w :: ws =>
    let st : StrandRef := { core := Fin.ofNat 128 core, ctx := 0 }
    (i, decodeSsi isa1 st w (ws.getD 0 0) (ws.getD 1 0)) :: decodeAll isa1 core fuel (i + wordsOf w) (ws.drop (wordsOf w - 1))

/-- The instructions of a class's copy on a core. -/
def Placed.instrs (p : Placed) (core cls : Nat) : List (Nat × Option Instr) :=
  let ws := p.words core cls
  decodeAll (imgIsa1 p.img) core ws.length 0 ws

/-- The instructions of a class that no group places. -/
def Placed.plainInstrs (p : Placed) (cls : Nat) : List (Nat × Option Instr) :=
  let ws := (recordsOf 8 ((p.codePlain cls).getD [])).map fun b => BitVec.ofNat 64 (fieldAt b 0 8)
  decodeAll (imgIsa1 p.img) 0 ws.length 0 ws

/-- Row 13: decoding of every class, on each core that holds a copy of it. -/
def Placed.decodeErr (p : Placed) : Option LoadErr :=
  let bad (cls : Nat) (core : List Nat) (x : Nat × Option Instr) : Option LoadErr :=
    match x.2 with
    | none => some ⟨0x11, [1, (p.cls cls).codeFirst + x.1] ++ core⟩
    | some i => (staticCause i).map fun c => ⟨c, [1, (p.cls cls).codeFirst + x.1] ++ core⟩
  (p.copies.findSome? fun e => (p.instrs e.1 e.2.1).findSome? (bad e.2.1 [e.1])).orElse fun _ =>
    p.unplaced.findSome? fun i => (p.plainInstrs i).findSome? (bad i [])

end Sys2Proof.Machine
end

