-- ==== Sys2Proof/Machine/Checks.lean ====
section
/-! DEFINITION. Rows 14 to 17 of the load checks (R485): allocations, grids, manifests, sums, shares, tide tables, flows, reduction, commit, sketch. -/

namespace Sys2Proof.Machine

/-! ### Row 14: allocations (R181, R220, R242) -/

/-- The declared allocations of a plan: base and size. -/
def Placed.allocs (p : Placed) : List (Nat × Nat) := (p.records 6 16).map fun r => (fieldAt r 0 8, fieldAt r 8 8)

/-- Why a range cannot be allocated. -/
def State.rangeCause (s : State) (base size : Nat) : Option Nat :=
  let bad := s.rangeBad base size
  if bad.contains .unmapped then some 0x409
  else if bad.contains .offline then some 0x283
  else if bad.contains .regionOff then some 0x40A
  else if s.touchesRetired base size then some 0x2E6
  else none

/-- The first byte and the size of a sum descriptor's window (R208). -/
def SumRec.window (r : SumRec) : Nat × Nat := (sliceBase r.slice + 0x10000 * fieldOf r.cfg 38 33, 0x10000 * fieldOf r.cfg 47 40)

/-- Row 14. -/
def State.allocErr (s : State) (p : Placed) : Option LoadErr :=
  let l := p.allocs
  let one (i : Nat) (a : Nat × Nat) : Option LoadErr :=
    let code := if (l.take i).any fun b => overlaps a.1 a.2 b.1 b.2 then some 0x188
      else (s.rangeCause a.1 a.2).orElse fun _ => if s.inRegion a.1 a.2 then none else some 0x188
    code.map fun c => ⟨c, [6, i]⟩
  (errAny l one).orElse fun _ =>
    errAny p.sums fun i r => (s.rangeCause r.window.1 r.window.2).map fun c => ⟨c, [8, i]⟩

/-! ### Row 15: grids and manifests -/

/-- A grid descriptor (R186). -/
def gridOf (r : List Byte) : Grid :=
  let part (o : Nat) : List Nat := (List.range 4).map fun a => fieldAt r (o + 4 * a) 2
  { axes := fieldAt r 0 1 % 8, chipBase := fieldAt r 4 2, extents := part 8, strides := part 10 }

/-- The grids of a plan by number, from 1 in section order. -/
def Placed.grids (p : Placed) : Tab Grid := (indexed (p.records 5 32)).map fun e => (e.1 + 1, gridOf e.2)

/-- Whether a grid is invalid in the hall (R186). -/
def State.gridBad (s : State) (g : Grid) : Bool :=
  let top := (List.range 4).foldl (fun n a => n + (g.extent a - 1) * g.strides.getD a 0) g.chipBase
  decide (65535 < top) || decide (65536 < g.size) ||
    (let chips := (List.range g.size).map fun n => (g.at_ n).1
     !distinct chips || chips.any fun c => !s.inHall c)

/-- The allocations that an image declares: those of ALLOCATIONS, and by PAD_BYTES the arena of every tile (R181, R475; log entry 32). -/
def Placed.declared (p : Placed) : List (Nat × Nat) := p.allocs ++ p.tiles.map fun t => (t.padAddr, (p.cls t.cls).padBytes)

/-- Whether a range lies within a declared or a service allocation. -/
def State.allowedIn (s : State) (p : Placed) (a n : Nat) : Bool :=
  s.allocHolds a n || p.declared.any fun e => decide (e.1 ≤ a) && decide (a + n ≤ e.1 + e.2)

/-- The first failing manifest of a core. -/
def State.manifestErr (s : State) (p : Placed) (grids : Tab Grid) (core : Nat) : Option LoadErr :=
  let ms := p.manifestsOn core
  let look (n : Nat) : Option Manifest := (ms.find? fun e => e.1 == n).map fun e => manifestOf e.2
  ms.findSome? fun e =>
    let cause := if s.recordRegionOff e.2 then some 0x40A
      else if manifestReserved e.2 then some 0x11
      else s.manifestCause look (Tab.find? grids) (s.allowedIn p) (manifestOf e.2)
    cause.map fun c => ⟨c, [4, e.1, core]⟩

/-- Row 15. More than 255 grids are refused as the grids are. -/
def State.tensorErr (s : State) (p : Placed) : Option LoadErr :=
  let grids := p.grids
  errFirst [
    fun _ => errIf (decide (255 < grids.length)) 0x141 [5, 255],
    fun _ => grids.findSome? fun e => errIf (s.gridBad e.2) 0x141 [5, e.1],
    fun _ => s.enabledCores.findSome? fun c => s.manifestErr p grids c]

/-! ### Row 16: sums (R209) -/

/-- LEAF_FIRST of a descriptor. -/
def SumRec.first (r : SumRec) : Nat := fieldOf r.cfg 28 19

/-- The leaves of a descriptor in increasing LOGICAL_TILE, with the core and the ordinal of each. -/
def Placed.leaves (p : Placed) (r : SumRec) : List (Nat × Option Tile) :=
  (sortBy (fun a b => decide (a ≤ b)) r.leaves).map fun n => (n, p.tile n)

/-- Whether a descriptor fails R209 by itself or beside the earlier ones. -/
def Placed.sumBad (p : Placed) (before : List SumRec) (r : SumRec) : Bool :=
  let ls := p.leaves r
  let clash (b : SumRec) : Bool :=
    b.slice == r.slice && (b.descr == r.descr || overlaps r.first r.leaves.length b.first b.leaves.length ||
      overlaps r.window.1 r.window.2 b.window.1 b.window.2)
  (ls.any fun l => l.2.isNone) || !distinct r.leaves || !distinct (ls.map fun l => l.2.map fun t => (t.core, t.ordinal)) ||
    decide (528 < r.first + r.leaves.length) || decide (64 < fieldOf r.cfg 38 33 + fieldOf r.cfg 47 40) || before.any clash

/-- The tile slots that the descriptors of a slice need. -/
def storeNeed (rs : List SumRec) (slice : Nat) : Nat :=
  ((rs.filter fun r => r.slice == slice).map fun r => (r.leaves.length - 1) * fieldOf r.cfg 47 40).sum

/-- SUM_LEAF_INVALID and SUM_STORE_FULL. -/
def Placed.sumErr (p : Placed) : Option LoadErr :=
  let rs := p.sums
  (errAny rs fun i r => errIf (p.sumBad (rs.take i) r) 0x142 [8, i]).orElse fun _ =>
    errAny rs fun i r => errIf (decide (32 < storeNeed rs r.slice)) 0x143 [8, i]

/-! ### Row 16: memory shares and tide tables (R227, R250, R256) -/

/-- The logical core, if one, that each entry of a slot table names (R227). -/
def slotCores (cores slots : List Nat) : List (Option Nat) := slots.map fun e => if e = 0xFF then none else some (cores.getD e 0)

/-- MEM_SHARE_OVER. -/
def Placed.shareErr (p : Placed) (cores : List Nat) : Option LoadErr :=
  let all := slotCores cores (p.tables.west ++ p.tables.east)
  cores.findSome? fun c => errIf (decide (10 < (all.filter fun x => x == some c).length)) 0x144 [0x10, 0, c]

/-- Whether a tide-table entry has a reserved encoding (R254). -/
def tideReserved (e : W32) : Bool :=
  let v := e.toNat
  match entryKind e with
  | 0 => v != 0
  | 1 => bitsOf v 28 16 != 0
  | 2 => bitsOf v 28 0 != 0
  | 3 => bitsOf v 28 22 != 0 || decide (47 < entryQuay e) || bitsOf v 15 14 != 0
  | _ => true

/-- The largest number of slots between REPAIR entries of a table of `n` slots, across the cycle boundary; all of them where there is none. -/
def repairGap (table : List W32) (n : Nat) : Nat :=
  let at_ := (indexed (table.take n)).filterMap fun e => if entryKind e.2 = 2 then some e.1 else none
  match at_ with
  | [] => n
  | x :: xs => ((xs ++ [x + n]).foldl (fun (a : Nat × Nat) i => (max a.1 (i - a.2 - 1), i)) (0, x)).1

/-- A listed table of a quay direction; EMPTY entries where it is not listed. -/
def Sched.table (x : Sched) (quay dir : Nat) : List W32 :=
  match x.quays.find? fun q => q.quay == quay && q.dir == dir with
  | some q => q.table
  | none => []

/-- The slot of an outgoing quay that forwards the cell of slot `n` of quay `q` (R279), in a cycle of `slots`. -/
def State.relaySlot (s : State) (q n slots : Nat) : Nat := ceilDiv (3200 * n + 13000 + s.fibrePs q + 1600) 3200 % max 1 slots

/-- Whether a relay entry fails: its pair does not name it, it names another slot than R279 asks for, or it joins the halves. -/
def State.relayBad (s : State) (x : Sched) (slots : Nat) (q : QuayTable) (n : Nat) (e : W32) : Bool :=
  let other := entryQuay e
  let m := entryFlow e
  let pair := (x.table other (1 - q.dir)).getD m 0
  let slot := if q.dir = 0 then s.relaySlot other m slots == n else s.relaySlot q.quay n slots == m
  entryKind pair != 3 || entryQuay pair != q.quay || entryFlow pair != n || !slot || quayHalf q.quay != quayHalf other

/-- ROLE of a flow context of the plan. -/
def Placed.role (flows : List (List Byte)) (n : Nat) : Nat := fieldAt (flows.getD n []) 0 1 % 4

/-- Whether an entry of a listed table is invalid (R256). -/
def State.entryBad (s : State) (x : Sched) (slots : Nat) (flows : List (List Byte)) (q : QuayTable) (n : Nat) (e : W32) : Bool :=
  tideReserved e || (entryKind e == 1 && Placed.role flows (entryFlow e) != q.dir + 1) || (entryKind e == 3 && s.relayBad x slots q n e)

/-- TIDE_TABLE_INVALID. A direction of which every entry is EMPTY needs no REPAIR entries. -/
def State.tideErr (s : State) (p : Placed) : Option LoadErr :=
  let slots := 5 * imgCycle p.img / 16
  let flows := p.records 9 48
  (errIf (imgCycle p.img != s.dev.chart.fabricCycle) 0x145 [0]).orElse fun _ =>
    errAny p.tables.quays fun i q =>
      let gap := q.table.any (fun e => entryKind e != 0) && decide (32 < repairGap q.table slots)
      errIf (gap || (indexed q.table).any fun e => s.entryBad p.tables slots flows q e.1 e.2) 0x145 [0x10, i]

/-- The flows of a plan's FATOM instructions. -/
def Placed.atomicFlows (p : Placed) : List Nat :=
  p.copies.flatMap fun e => (p.instrs e.1 e.2.1).filterMap fun x => x.2.bind atomicFlow

/-- QUAY_PROTOCOL: a quay that runs protocol 1 carries neither relayed cells nor atomics (R250). -/
def State.protocolErr (s : State) (p : Placed) : Option LoadErr :=
  let fs := p.atomicFlows
  errAny p.tables.quays fun i q =>
    let bad (e : W32) : Bool := entryKind e == 3 || (q.dir == 0 && entryKind e == 1 && fs.contains (entryFlow e))
    errIf (s.fld (.quayStatus (quayFin q.quay)) 9 8 == 1 && q.table.any bad) 0x146 [0x10, i]

/-! ### Row 16: flows (R262) -/

/-- FLOW_INVALID: a window not wholly in one region, or no such PROXY_CORE. -/
def State.flowErr (s : State) (p : Placed) : Option LoadErr :=
  errAny (p.records 9 48) fun i r =>
    let w := fieldAt r 0 4
    errIf (bitsOf w 1 0 == 2 && (!s.inRegion (fieldAt r 0x18 8) (fieldAt r 0x20 8) || !s.coreExists (bitsOf w 24 18))) 0x320 [9, i]

/-! ### Row 16: reduction (R292, R300) -/

/-- A channel descriptor (R289). -/
def channelOf (r : List Byte) : Channel :=
  let w := fieldAt r 0 4
  let f (o hi lo : Nat) : Nat := bitsOf (fieldAt r o 4) hi lo
  { enabled := bitOf w 0, iqw := bitOf w 1, fp16 := bitOf w 2, express := bitOf w 3, east := bitOf w 4, accumN := bitsOf w 11 5,
    contributes := bitOf w 12, backupRole := bitOf w 13, groupSize := f 4 16 0, contrib := f 8 15 0, tiles := f 8 26 16, stage := f 0xC 23 0,
    result := f 0x10 23 0, armLock := f 0x14 5 0, armCore := f 0x14 22 16, cellPitch := f 0x18 15 0, mirrorFlow := f 0x18 31 16,
    mirrorBase := bitsOf (fieldAt r 0x20 8) 41 0, mirrorSignal := f 0x28 9 0, mirrorCore := f 0x28 22 16, doneCounter := f 0x2C 9 0,
    proxy := f 0x2C 22 16, nodeFirst := f 0x30 11 0, nodeCount := f 0x30 28 16 }

/-- Whether a channel descriptor, enabled or not, has a reserved bit set (R289, R292). Bytes 0x1C to 0x1F, which R289's table neither lists nor calls reserved,
are not checked (DESIGN CHOICE, log entry 84). -/
def channelBits (r : List Byte) : Bool :=
  let c := channelOf r
  let f (o hi lo : Nat) : Bool := bitsOf (fieldAt r o 4) hi lo != 0
  f 0 31 14 || f 4 31 17 || f 8 31 27 || f 0xC 31 24 || f 0x10 31 24 || f 0x14 15 6 || f 0x14 31 23 || bitsOf (fieldAt r 0x20 8) 63 42 != 0 ||
    f 0x28 15 10 || f 0x28 31 23 || f 0x2C 15 10 || f 0x2C 31 23 || f 0x30 15 12 || f 0x30 31 29 || fieldAt r 0x34 12 != 0 || (c.iqw && c.fp16)

/-- Whether an enabled channel's descriptor has a reserved encoding. -/
def channelReserved (r : List Byte) : Bool :=
  let c := channelOf r
  channelBits r || decide (c.accumN < 1 ∨ 64 < c.accumN) || decide (c.groupSize < 2 ∨ 65536 < c.groupSize) || decide (c.groupSize ≤ c.contrib) ||
    decide (c.tiles < 16 ∨ 1024 < c.tiles) || decide (4096 < c.nodeFirst + c.nodeCount)

/-- A node table entry (R299). -/
def nodeOf (channel : Nat) (r : List Byte) : Node :=
  let w := fieldAt r 0 4
  let f (o : Nat) : Nat := fieldAt r o 2
  let input (o bit : Nat) : NodeIn := { remote := bitOf w bit, src := f o, backup := f (o + 2), down := f (o + 4), downB := f (o + 6) }
  let in1 : NodeIn := { remote := bitOf w 23, src := f 0x10, backup := f 0x12, down := f 0x14, downB := f 0x16 }
  { channel := channel, lo := bitsOf w 15 0, level := bitsOf w 20 16, root := bitOf w 21, in0 := input 8 22, in1 := in1,
    shardFirst := bitsOf (fieldAt r 4 4) 10 0, shardTiles := bitsOf (fieldAt r 4 4) 26 16, outFlow := f 0x18, upDown := f 0x1A,
    deadline := fieldAt r 0x1C 4 }

/-- Whether a node entry, of a channel or not, has a reserved bit set or a reserved level (R292). -/
def nodeBits (r : List Byte) : Bool :=
  bitsOf (fieldAt r 0 4) 31 24 != 0 || bitsOf (fieldAt r 4 4) 15 11 != 0 || bitsOf (fieldAt r 4 4) 31 27 != 0 || decide (16 < (nodeOf 0 r).level)

/-- Whether a node entry has a reserved encoding. -/
def nodeReserved (r : List Byte) : Bool :=
  let n := nodeOf 0 r
  nodeBits r || decide (n.shardTiles < 1 ∨ 1024 < n.shardTiles)

/-- The channels of a plan that are enabled, by number. -/
def Placed.channels (p : Placed) : Tab Channel :=
  (indexed (p.reduce.take 256)).filterMap fun e => if (channelOf e.2).enabled then some (e.1, channelOf e.2) else none

/-- The raw entries of a channel: their keys and bytes. -/
def Placed.chanEntries (p : Placed) (c : Channel) : List (Nat × List Byte) :=
  let base := if c.east then 4096 else 0
  (List.range c.nodeCount).map fun i => (base + c.nodeFirst + i, p.reduce.getD (256 + base + c.nodeFirst + i) [])

/-- The node entries of a channel. -/
def Placed.chanNodes (p : Placed) (ch : Nat) (c : Channel) : Tab Node := (p.chanEntries c).map fun e => (e.1, nodeOf ch e.2)

/-- Whether an entry of a channel fails R300. -/
def nodeBad (c : Channel) (nodes : Tab Node) (n : Node) : Bool :=
  let base := if c.east then 4096 else 0
  let inBad (right : Bool) : Bool :=
    let x := n.input right
    !x.remote && (match Tab.find? nodes (base + x.src) with
      | none => true
      | some m => m.shardFirst != n.shardFirst || m.shardTiles != n.shardTiles || m.lo != n.inputLo right)
  decide (n.lo % 2 ^ n.level ≠ 0) || (decide (1 ≤ n.level) && decide (c.groupSize ≤ n.lo + 2 ^ (n.level - 1))) ||
    (n.root != (n.level == Nat.clog 2 c.groupSize)) || (n.level == 0 && n.lo != c.contrib) || (decide (1 ≤ n.level) && (inBad false || inBad true))

/-- The flows that a channel and its entries name: SEND, then RECV. -/
def chanFlows (c : Channel) (nodes : Tab Node) : List Nat × List Nat :=
  let known (l : List Nat) : List Nat := l.filter fun f => f != 0xFFFF
  let ins (f : NodeIn → List Nat) : List Nat := nodes.flatMap fun e => if e.2.level = 0 then [] else f e.2.in0 ++ f e.2.in1
  (known (c.mirrorFlow :: (nodes.map fun e => e.2.outFlow) ++ ins fun x => if x.remote then [x.down, x.downB] else []),
   known ((nodes.map fun e => e.2.upDown) ++ ins fun x => if x.remote then [x.src, x.backup] else []))

/-- Whether a flow uses a quay of the other half. -/
def Sched.crosses (x : Sched) (h : Half) (dir flow : Nat) : Bool :=
  x.quays.any fun q => q.dir == dir && quayHalf q.quay != h && q.table.any fun e => entryKind e == 1 && entryFlow e == flow

/-- A manifest of the plan by number, on whichever core holds it. -/
def Placed.manifestAny (p : Placed) (cores : List Nat) (n : Nat) : Option Manifest :=
  cores.findSome? fun c => ((p.manifestsOn c).find? fun e => e.1 == n).map fun e => manifestOf e.2

/-- Whether a manifest is unscaled FP32 with USE = BOTH. -/
def Manifest.plainBoth (m : Manifest) : Bool := m.format == 0 && m.use == 2

/-- Whether a channel's STAGE or RESULT manifest fails (R292). A chip that stages nothing may name no STAGE. -/
def Placed.stageBad (p : Placed) (cores : List Nat) (c : Channel) (nodes : Tab Node) : Bool :=
  let need := c.tiles * 0x10000 + if c.iqw then c.tiles * 512 else 0
  let stage := match p.manifestAny cores c.stage with
    | some m => !m.plainBoth || decide (m.allocSize < need)
    | none => c.stage != 0 || c.contributes
  let root := List.find? (fun e : Nat × Node => e.2.root) nodes
  let result := match p.manifestAny cores c.result, root with
    | some m, some r => !m.plainBoth || decide (tileCount ((List.range 6).map fun d => (m.dim d).extent) < r.2.shardTiles)
    | some m, none => !m.plainBoth
    | none, some _ => true
    | none, none => c.result != 0
  stage || result

/-- Whether a channel fails R292 or R300. -/
def State.channelBad (s : State) (p : Placed) (ch : Nat) (c : Channel) : Bool :=
  let nodes := p.chanNodes ch c
  let h : Half := if c.east then .east else .west
  let fl := chanFlows c nodes
  channelReserved (p.reduce.getD ch []) || ((p.chanEntries c).any fun e => nodeReserved e.2) ||
    (fl.1.any (p.tables.crosses h 0)) || (fl.2.any (p.tables.crosses h 1)) || p.stageBad s.enabledCores c nodes ||
    decide (1 < (nodes.filter fun e => e.2.root).length) || (nodes.any fun e => nodeBad c nodes e.2) ||
    (!c.iqw && (s.dev.chart.redIqwOnly || decide (s.dev.chart.redF16wMax < c.groupSize)))

/-- REDUCE_CONFIG. -/
def State.reduceErr (s : State) (p : Placed) : Option LoadErr :=
  let cs := p.channels
  ((cs.findSome? fun e => errIf (s.channelBad p e.1 e.2) 0x147 [0xA, e.1]).orElse fun _ =>
    (indexed (p.reduce.take 256)).findSome? fun e => errIf (channelBits e.2) 0x147 [0xA, e.1]).orElse fun _ =>
    errIf ((p.reduce.drop 256).any nodeBits || decide (16 < (cs.filter fun e => e.2.express).length)) 0x147 [0xA]

/-! ### Row 16: commit and sketch (R124, R317) -/

/-- LOCK_CFG and DL_PERIOD of the plan's lock at a key, 64 × core + lock; zeros for a lock that no record names. -/
def Placed.lockAt (p : Placed) (key : Nat) : Nat × Nat :=
  let hit (e : Nat × Tile × SyncRec) : Option (Nat × Nat) :=
    if 64 * e.2.1.core + e.2.1.lock + e.2.2.index = key then some (fieldAt e.2.2.body 0 8, fieldAt e.2.2.body 16 4) else none
  ((p.syncAll 2).findSome? hit).getD (0, 0)

/-- COMMIT_CONFIG (R317). -/
def Placed.commitErr (p : Placed) : Option LoadErr :=
  if (sectOf p.img 0xB).isEmpty then none
  else
    let w := fieldAt p.commit 0 8
    let c := 64 * bitsOf w 57 51 + bitsOf w 63 58
    let t := 64 * bitsOf w 44 38 + bitsOf w 50 45
    let scope (l : Nat × Nat) : Nat := if bitsOf l.1 63 48 = 0 then 4 else bitsOf l.1 47 46
    errIf (scope (p.lockAt c) != 2 || scope (p.lockAt t) != 1 || c == t || (p.lockAt c).2 == 0) 0x148 [0xB]

/-- The cause that refuses a gated layer (R124), by its relocated record (log entry 7). -/
def State.layerCause (s : State) (p : Placed) (r : List Byte) : Option Nat :=
  let lo := fieldAt r 4 4
  let hi := fieldAt r 0 4
  let vlo := Val.ofF32 (BitVec.ofNat 32 lo)
  let vhi := Val.ofF32 (BitVec.ofNat 32 hi)
  let blocks := fieldAt r 0x0C 2
  let rank := fieldAt r 0x0E 1
  let a := fieldAt r 0x0F 1
  let cls := p.cls (sketchClass r)
  let gated := fieldAt r 68 4
  let dense := fieldAt r 72 4
  let out := ((manifestRecs p.img)[fieldAt r 84 4]?).map fun e => manifestOf e.2
  let stencilled := match out with
    | some m => m.stencilled
    | none => false
  let range := decide (blocks < 1 ∨ 4096 < blocks) || !(rank == 16 || rank == 32) || decide (a < 4 ∨ 10 < a) || fieldAt r 0x18 2 == 0 ||
    fieldAt r 0x1A 2 != 0 || fieldAt r 0x34 12 != 0 || decide (31 < fieldAt r 64 4) || decide (p.classes.length ≤ sketchClass r) ||
    decide (cls.codeWords ≤ gated) || decide (cls.padBytes < fieldAt r 80 4 + 64)
  if vlo.isNan || vhi.isNan || vhi.lt vlo || range then some 0x11
  else if s.dev.chart.sketchAudit < a then some 0x149
  else if fieldAt r 0x14 2 < ceilDiv blocks (2 ^ a) then some 0x14A
  else if !stencilled then some 0x14B
  else if dense = 0 ∨ cls.codeWords ≤ dense then some 0x14C
  else none

/-- The causes of R124. -/
def State.sketchErr (s : State) (p : Placed) : Option LoadErr :=
  errAny (recordsOf 88 (sectOf p.img 0xC)) fun i r =>
    let rs := match p.ofClass (sketchClass r) with
      | [] => [r]
      | ts => ts.map fun t => (p.sketchRec i r t).getD r
    (rs.findSome? fun x => s.layerCause p x).map fun c => ⟨c, [0xC, i]⟩

/-! ### All rows -/

/-- The largest spacing of a plan's service slots in nanoseconds: every lane has one in each plan frame, at most 480 ns apart (R225, R226); what the loader
reserves for other resources is open (R24, R366; log entry 55). -/
def planSpacing (planId : W64) : Nat := max 480 (Config.serviceSpacing planId)

/-- Row 17: service slots more than 500 µs apart (R366). -/
def spacingErr (planId : W64) : Option LoadErr := errIf (decide (500000 < planSpacing planId)) 0x14D []

/-- Rows 14 to 17. -/
def State.contentErr (s : State) (p : Placed) : Option LoadErr :=
  errFirst [
    fun _ => s.allocErr p,
    fun _ => s.tensorErr p,
    fun _ => p.sumErr,
    fun _ => p.shareErr s.enabledCores,
    fun _ => s.tideErr p,
    fun _ => s.protocolErr p,
    fun _ => s.flowErr p,
    fun _ => s.reduceErr p,
    fun _ => p.commitErr,
    fun _ => s.sketchErr p,
    fun _ => spacingErr (BitVec.ofNat 64 (fieldAt p.img 8 8))]

/-- Rows 1 and 2 of R485: the bytes of an image of `size` bytes, of which the scatter list has `entries`. -/
def imageRead (x : HostImage) (entries size : Nat) : Except LoadErr (List Byte) :=
  if 65536 < entries || x.scatter.any fun l => scatterBad size entries (l.take entries) then .error ⟨0x181, []⟩
  else match x.bytes with
  | none => .error ⟨0x17, []⟩
  | some bs => if bs.length < size then .error ⟨0x17, []⟩ else .ok (bs.take size)

/-- The checks of R485 on an image of `size` bytes, of which the scatter list has `entries`: the placed image, or the first refusal. -/
def State.loadCheck (s : State) (entries size : Nat) (x : HostImage) : Except LoadErr Placed :=
  match imageRead x entries size with
  | .error e => .error e
  | .ok img =>
      match s.imageErr size img, scheduleFor img s.enabledCores.length with
      | some e, _ => .error e
      | none, none => .error ⟨0x184, [0x10]⟩
      | none, some sched =>
        let r := placeImage img s.enabledCores sched
        let late := errFirst [fun _ => r.1.placeErr s.enabledCores.length, fun _ => resourceErr r.2, fun _ => r.1.ringErr, fun _ => storeErr img s.enabledCores r.2,
          fun _ => r.1.relocErr, fun _ => r.1.decodeErr, fun _ => s.contentErr r.1]
        match late with
        | some e => .error e
        | none => .ok r.1

end Sys2Proof.Machine
end

