-- ==== Sys2Proof/Machine/Loader.lean ====
section
/-! DEFINITION. PLAN_LOAD (R384, R482–R484): what an accepted load writes, and its reply. -/

namespace Sys2Proof.Machine

/-! ### The parts of a plan -/

/-- The relocated SYNC bodies of a kind, with their tiles: tile, INDEX, body. -/
def Placed.syncs (p : Placed) (kind : Nat) : List (Tile × Nat × List Byte) := (p.syncAll kind).map fun e => (e.2.1, e.2.2.index, e.2.2.body)

/-- A field of a word to which an arena's offset, in units of 8 bytes, is added. -/
def addArena (w hi lo : Nat) (t : Tile) : Nat := withBits w hi lo (bitsOf w hi lo + t.arena / 8)

/-- The berth descriptors of a plan: core, berth, the low word (R156, R500). -/
def Placed.berths (p : Placed) : List (Nat × Nat × W64) :=
  (p.syncs 1).map fun e => (e.1.core, e.1.berth + e.2.1, BitVec.ofNat 64 (addArena (fieldAt e.2.2 0 8) 34 17 e.1))

/-- The lists of realignment locks by key, 64 × core + lock, with each number counted on the core (R167, R500). -/
def Placed.lists (p : Placed) : List (Nat × List W64) :=
  (p.syncs 3).map fun e =>
    let one (r : List Byte) : W64 :=
      let w := fieldAt r 0 8
      BitVec.ofNat 64 (withBits w 43 32 (bitsOf w 43 32 + if bitOf w 63 then e.1.counter else e.1.berth))
    (64 * e.1.core + e.1.lock + e.2.1, (recordsOf 8 (e.2.2.drop 8)).map one)

/-- The locks of a plan (R163, R500). -/
def Placed.locks (p : Placed) : List LockInit :=
  let lists := p.lists
  (p.syncs 2).map fun e =>
    let b := e.2.2
    let key := 64 * e.1.core + e.1.lock + e.2.1
    let cfg := addArena (fieldAt b 0 8) 44 27 e.1
    let r : SyncRec := { kind := 2, resv := 0, index := e.2.1, cls := e.1.cls, body := b }
    let cfg := if bitsOf cfg 47 46 = 1 then withBits cfg 15 0 ((p.home r).getD 0) else cfg
    let list := ((lists.find? fun l => l.1 == key).map fun l => l.2).getD []
    { key := key, cfg := BitVec.ofNat 64 cfg, dlBase := BitVec.ofNat 64 (fieldAt b 8 8), dlPeriod := BitVec.ofNat 64 (fieldAt b 16 4),
      round := fieldAt b 20 4, list := list }

/-- A declared end-of-task value by its object (R171). -/
def Placed.ends (p : Placed) (kind per : Nat) (first : Tile → Nat) : Tab Nat :=
  (p.syncs kind).foldl (fun t e => Tab.set 0 t (per * e.1.core + first e.1 + e.2.1) (fieldAt e.2.2 0 (if kind = 6 then 8 else 4))) []

/-- The entry strands: key, entry word, initial registers (R482). -/
def Placed.entries (p : Placed) : List (Nat × Nat × List (Nat × W64)) :=
  p.tiles.flatMap fun t =>
    let c := p.clsAt t
    let regs := (indexed [t.no, t.arena, t.ordinal, t.ctx, t.berth, t.counter, t.lock, t.man]).map fun e => (e.1 + 1, BitVec.ofNat 64 e.2)
    (List.range c.entry).map fun i => (2048 * t.core + t.ctx + i, (p.codeBase t.core t.cls).getD 0 + c.entryPc, regs)

/-- The uses of SYSRD value 0x3: core and word, in increasing order (R150). -/
def Placed.gradeReads (p : Placed) : List (Nat × Nat) :=
  let all := p.copies.flatMap fun e => (p.instrs e.1 e.2.1).filterMap fun x =>
    if (x.2.map readsGrade).getD false then some (e.1, e.2.2 + x.1) else none
  sortBy (fun a b => decide (32768 * a.1 + a.2 ≤ 32768 * b.1 + b.2)) all

/-- The gated layers, at each tile of their classes (R123, R481). -/
def Placed.layers (p : Placed) : List (SketchLayer × List Byte) :=
  (indexed (recordsOf 88 (sectOf p.img 0xC))).flatMap fun e => (p.ofClass (sketchClass e.2)).map fun t =>
    let r := (p.sketchRec e.1 e.2 t).getD e.2
    ({ core := t.core, descr := t.arena + fieldAt r 80 4, group := fieldAt r 64 4 }, r.take 64)

/-- The plan as the device keeps it; the scrub intervals are those of R218 and R238. -/
def State.planOf (s : State) (p : Placed) : Plan :=
  let cores := s.enabledCores
  let reads := p.gradeReads
  let sram := s.dev.chart.sramScrub * 100000000
  { planId := BitVec.ofNat 64 (fieldAt p.img 8 8), isa1 := imgIsa1 p.img, fabricCycle := imgCycle p.img, allocs := p.allocs,
    entries := p.entries, berths := p.berths, locks := p.locks, endBerths := p.ends 4 4096 fun t => t.berth,
    endLocks := p.ends 5 64 fun t => t.lock, endCounters := (p.ends 6 1024 fun t => t.counter).map fun e => (e.1, BitVec.ofNat 64 e.2),
    hasFlows := hasFlows p.img, layers := p.layers.map fun l => l.1, sysrdUses := reads.length,
    sysrdFirst := match reads with
      | x :: _ => x.1 * 65536 + x.2
      | [] => 0xFFFFFFFF
    spacing := planSpacing (BitVec.ofNat 64 (fieldAt p.img 8 8)), padScrub := sram / (s.period * 1024), galScrub := sram / (s.period * 2048),
    dramScrub := s.scrubEvery,
    manifests := (cores.map fun c => (p.manifestsOn c).length).sum, slotsW := slotCores cores p.tables.west, slotsE := slotCores cores p.tables.east }

/-! ### What a load writes (R482) -/

/-- The code store of a class's copy, and which of its words begin an instruction. -/
def State.loadCode (p : Placed) (s : State) (e : Nat × Nat × Nat) : State :=
  let at_ := 32768 * e.1 + e.2.2
  { s with code := Tab.setMany 0 s.code at_ (p.words e.1 e.2.1),
           marks := (p.instrs e.1 e.2.1).foldl (fun t x => Tab.set false t (at_ + x.1) true) s.marks }

/-- The manifests of a core. -/
def State.loadManifests (p : Placed) (s : State) (core : Nat) : State :=
  { s with manifests := (p.manifestsOn core).foldl (fun t e => Tab.put t e.1 (manifestOf e.2)) s.manifests }

/-- A tile's arena: PAD_INIT, then zeros (item 2). -/
def State.loadArena (p : Placed) (s : State) (t : Tile) : State :=
  let a := t.padAddr
  (s.fillRange a (a + (p.cls t.cls).padBytes)).store a ((p.initOf t).getD [])

/-- A core's berth table, in the last 64 KiB of its pad (R477). -/
def State.loadBerthTable (s : State) (core : Nat) : State :=
  let a := padBase core + 0x1F0000
  (s.fillRange a (a + 0x10000)).setFld (.berthTableBase (Fin.ofNat 128 core)) 20 12 0x1F0

/-- A realignment list at its lock's LIST_ADDR. -/
def State.loadList (s : State) (l : LockInit) : State :=
  s.store (padBase (lockCore l.key) + 8 * fieldOf l.cfg 44 27) (l.list.flatMap fun w => leBytes 8 w.toNat)

/-- A sum descriptor and its leaves (R208, R209). -/
def State.loadSum (p : Placed) (s : State) (r : SumRec) : State :=
  let sl : Fin 128 := Fin.ofNat 128 r.slice
  let leaf (s : State) (e : Nat × Nat × Option Tile) : State :=
    let t := match e.2.2 with
      | some t => t.ordinal % 256 * 256 + t.core
      | none => 0
    s.setReg (.sumLeaf sl (Fin.ofNat 528 (r.first + e.1))) (BitVec.ofNat 64 (e.2.1 * 2 ^ 32 + t))
  (indexed (p.leaves r)).foldl leaf (s.setReg (.sumCfg sl (Fin.ofNat 16 r.descr)) r.cfg)

/-- A flow context as the image gives it (R262). -/
def flowOf (r : List Byte) : Flow :=
  let w := fieldAt r 0 4
  { Flow.unused with role := bitsOf w 1 0, ackCarrier := bitOf w 2, ordered := bitOf w 3, broken := bitOf w 4, berthEn := bitOf w 5,
                     berth := bitsOf w 17 6, proxy := bitsOf w 24 18, peerChip := fieldAt r 4 2, peerFlow := fieldAt r 6 2,
                     returnFlow := fieldAt r 8 2, credits := fieldAt r 10 2, seq := fieldAt r 12 4, acked := fieldAt r 0x10 4,
                     winBase := bitsOf (fieldAt r 0x18 8) 41 0, winSize := bitsOf (fieldAt r 0x20 8) 41 0 }

/-- The tables of a quay direction (R480). -/
def State.loadQuay (s : State) (q : QuayTable) : State :=
  let t := Tab.setMany 0 [] 0 q.table
  let x := s.quay q.quay
  s.setQuay q.quay (if q.dir = 0 then { x with txTable := t } else { x with rxTable := t })

/-- A reduction channel and its entries. -/
def State.loadChannel (p : Placed) (s : State) (e : Nat × Channel) : State :=
  { s with red := { s.red with channels := Tab.put s.red.channels e.1 e.2,
                               nodes := (p.chanNodes e.1 e.2).foldl (fun t n => Tab.put t n.1 n.2) s.red.nodes } }

/-- COMMIT_CFG and the part counts of the norm groups (R317, R336). -/
def State.loadCommit (s : State) (bs : List Byte) : State :=
  if bs.isEmpty then s
  else
    let part (s : State) (e : Nat × Byte) : State := s.setFld (.norm (Fin.ofNat 4096 e.1) 3) 38 32 e.2.toNat
    (indexed (bs.drop 8)).foldl part (s.setReg .commitCfg (BitVec.ofNat 64 (fieldAt bs 0 8)))

/-- A gated layer's descriptor in its pad (R123). -/
def State.loadLayer (s : State) (l : SketchLayer × List Byte) : State := s.store (padBase l.1.core + l.1.descr) l.2

/-- The instances of a unit kind's cause enable register that the module has (R502). -/
def State.enableRegs (s : State) (kind : Nat) : List Reg :=
  let cores := (List.range (2 * s.perHalf)).map fun c => Fin.ofNat 128 c
  match kind with
  | 0 => cores.map .palCauseEn
  | 1 => cores.map .easelCauseEn
  | 2 => cores.map .sparseCauseEn
  | 3 => cores.map .seqCauseEn
  | 4 => cores.map .dmaCauseEn
  | 5 => cores.map .padCauseEn
  | 6 => (List.finRange 128).map .galCauseEn
  | 7 => [.memCauseEn .west, .memCauseEn .east]
  | 8 => (List.finRange 48).map .quayCauseEn
  | 9 => [.fabricCauseEn]
  | 10 => [.redCauseEn .west, .redCauseEn .east]
  | 11 => [.commitCauseEn]
  | 14 => cores.map fun c => .cvuCauseEn (Fin.ofNat 136 c.val)
  | _ => []

/-- Sets a unit kind's cause enable registers. -/
def State.loadEnable (s : State) (r : List Byte) : State :=
  (s.enableRegs (fieldAt r 0 2)).foldl (fun s x => s.setReg x (BitVec.ofNat 64 (fieldAt r 4 4))) s

/-- Every unit kind's cause enable register at its Reset value. -/
def State.resetEnables (s : State) : State :=
  ((List.range 15).flatMap s.enableRegs).foldl (fun s x => s.setReg x x.reset) s

/-- Item 1: stores, objects, tables. -/
def State.loadStores (s : State) (p : Placed) (plan : Plan) : State :=
  let s : State := { s.clearPlan with plan := some plan, grids := p.grids }
  let s := p.copies.foldl (State.loadCode p) s
  let s := s.enabledCores.foldl (State.loadManifests p) s
  let s := p.sums.foldl (State.loadSum p) s
  let s := (indexed (p.records 9 48)).foldl (fun s e => if fieldAt e.2 0 4 % 4 = 0 then s else s.setFlow e.1 (flowOf e.2)) s
  let s := p.channels.foldl (State.loadChannel p) s
  let s := s.loadCommit p.commit
  p.tables.quays.foldl State.loadQuay s

/-- Item 2: pads; then the objects that the pads hold. -/
def State.loadPads (s : State) (p : Placed) (plan : Plan) : State :=
  let s := p.tiles.foldl (State.loadArena p) s
  let berthed := (p.tiles.filter fun t => decide (0 < (p.cls t.cls).berths)).foldl (fun l t => Marks.insert l t.core) []
  let s := berthed.foldl State.loadBerthTable s
  let s := plan.locks.foldl State.loadList s
  let s := p.layers.foldl State.loadLayer s
  s.initPlanState plan

/-- Item 3: STEP_NUMBER and LOSS_SCALE unless the image keeps them, the seed, the enables. -/
def State.loadRegs (s : State) (p : Placed) : State :=
  let w (o : Nat) : W64 := BitVec.ofNat 64 (fieldAt p.img o 8)
  let s := if imgKeep p.img then s else (s.setReg .stepNumber (w 0x20)).setReg .lossScale (w 0x30)
  (p.records 0xD 8).foldl State.loadEnable ((s.setReg .rngSeed (w 0x28)).resetEnables)

/-- Item 4, less the change of state: DET_STATUS, armings, totals, measurements. -/
def State.loadMarks (s : State) (p : Placed) (plan : Plan) : State :=
  let s : State := { s.setReg .detStatus 0 with run := { s.run with detDue := [] } }
  let s := if plan.sysrdUses = 0 then s else s.setBitAt Reg.detStatus.offset 11
  let s : State := { s with log := { s.log with armings := [] }, totals := Totals.reset }
  (s.measure 5 p.img).unmeasure 7

/-- The plan-load reply (R384). -/
def State.loadReply (s : State) (plan : Plan) : List Byte :=
  leBytes 8 plan.planId.toNat ++ leBytes 4 plan.fabricCycle ++ leBytes 4 plan.spacing ++ leBytes 4 plan.padScrub ++ leBytes 4 plan.galScrub ++
    leBytes 4 plan.dramScrub ++ leBytes 4 plan.sysrdUses ++ leBytes 4 plan.sysrdFirst ++ leBytes 4 (s.regNow .detStatus).toNat ++
    leBytes 4 plan.manifests ++ leBytes 2 s.enabledCores.length ++ leBytes 2 0 ++ leBytes 8 (s.reg .stepNumber).toNat ++ leBytes 8 plan.schedule

/-- Writes a checked plan. -/
def State.installPlan (s : State) (p : Placed) : State :=
  let plan := s.planOf p
  (((s.loadStores p plan).loadPads p plan).loadRegs p).loadMarks p plan

/-! ### PLAN_LOAD -/

/-- The reply data of a refused load (log entry 6). -/
def LoadErr.data (e : LoadErr) : List Byte := (Config.loadRefusal (e.code :: e.items)).take 64

/-- An image that has been read passes a check-value unit, which compares its CHECK (R454, R471). -/
def State.imageCompare (s : State) (entries size : Nat) (x : HostImage) : State × Bool :=
  match imageRead x entries size with
  | .error _ => (s, true)
  | .ok img =>
    let bytes := img.take 0x1C ++ leBytes 4 0 ++ img.drop 0x20
    s.hmCompare 1 (fieldAt img 0x1C 4 == crc32c bytes) bytes

/-- PLAN_LOAD: the whole image is validated; a load that passes goes on to PLAN_LOAD_COMPLETE. -/
def planLoadBody (image : HostImage) : CmdBody :=
  { plainBody (fun s _ p =>
      let size := fieldAt p 16 8
      if size = 0 ∨ fieldAt p 8 4 = 0 then noop s
      else
        let k := s.imageCompare (fieldAt p 8 4) size image
        let s := k.1
        let bad (e : LoadErr) : CmdOut := { refuse s e.code with data := e.data }
        if !k.2 then bad ⟨0x180, [0]⟩
        else match s.loadCheck (fieldAt p 8 4) size image with
        | .error e => bad e
        | .ok _ => going { s with host := { s.host with loading := some image } }) with
    reserved := fun _ p => decide (fieldAt p 12 4 ≠ 0), replyLen := fun _ _ => 64 }

/-- PLAN_LOAD_COMPLETE: the plan is written, the device is LOADED, and PLAN_LOAD replies. What has changed since the command can still refuse it. -/
def State.planLoadComplete (s : State) : State :=
  match s.host.busy, s.host.loading with
  | some r, some image =>
    if r.opcode = 0x20 then
      let p := r.desc.bytes
      let s : State := { s with host := { s.host with loading := none } }
      match s.loadCheck (fieldAt p 8 4) (fieldAt p 16 8) image with
      | .error e => s.finishL e.code e.data
      | .ok x =>
        let s := (s.installPlan x).enter .loaded 0x20
        match s.plan with
        | some plan => s.finishL 0 (s.loadReply plan)
        | none => s
    else s
  | _, _ => s

end Sys2Proof.Machine
end

