-- ==== Sys2Proof/Machine/Serve.lean ====
section
/-! DEFINITION. The command side of the pilot mailboxes (R367–R373): doorbells, enabling, which command the harbourmaster takes next, and what it
does with it. -/

namespace Sys2Proof.Machine

/-! ### What each opcode executes (R377) -/

/-- The commands by opcode. A PLAN_LOAD carries the image that the device reads. -/
def bodies (image : HostImage) : List (Nat × CmdBody) :=
  [(0x01, helloBody), (0x02, identifyBody), (0x03, statusBody), (0x04, chartReadBody), (0x05, chartWriteBody), (0x06, chartSelectBody),
   (0x07, resetBody), (0x10, tideSetBody), (0x11, fabricConfigBody), (0x12, quayTrainBody), (0x20, planLoadBody image), (0x21, planUnloadBody),
   (0x22, runBody), (0x23, holdBody), (0x24, drainBody), (0x25, recoverEnterBody), (0x26, recoverExitBody), (0x27, recoverCopyBody)] ++
  [(0x30, allocCreateBody), (0x31, allocFreeBody), (0x32, manifestCreateBody), (0x33, manifestDestroyBody), (0x34, manifestQueryBody),
   (0x38, memEraseBody), (0x39, memRetirePageBody), (0x3A, memRetireListBody), (0x40, logConfigBody), (0x41, logClearBody),
   (0x42, traceConfigBody), (0x43, telemetryBody), (0x50, injectBody), (0x51, attestBody), (0x52, debugChallengeBody), (0x53, debugUnlockBody),
   (0x54, rollbackAdvanceBody)]

/-- What an opcode executes; one without a row is refused before that (R376). -/
def bodyOf (opcode : Nat) (image : HostImage) : CmdBody :=
  (List.find? (fun e : Nat × CmdBody => e.1 == opcode) (bodies image)).elim helloBody fun e => e.2

/-! ### Entries that wait to be taken (R369) -/

/-- Whether the PCI Express link carries host accesses: it is up and the function is in D0 (R361). -/
def State.linked (s : State) : Bool := s.host.linkUp && (!s.host.pci.d3hot && s.dev.state != .off)

/-- The entries of a mailbox's command ring that are written and not taken. -/
def State.heldOf (s : State) (mb : Fin 4) : List (Option RingEntry) := (s.host.held.filter fun e => e.1 == mb).map fun e => e.2

/-- Stores them. -/
def State.setHeld (s : State) (mb : Fin 4) (l : List (Option RingEntry)) : State :=
  { s with host := { s.host with held := (s.host.held.filter fun e => e.1 != mb) ++ l.map fun e => (mb, e) } }

/-- Whether the harbourmaster takes commands: from the entry to GESSO on (R373), until a trip (R421). -/
def State.serving (s : State) : Bool := s.dev.state != .off && s.dev.state != .boot && s.dev.state != .verify && !s.tripped

/-- Whether the running L command is a mailbox's own (R373). -/
def State.mbBusy (s : State) (mb : Fin 4) : Bool :=
  match s.host.busy with
  | some r => r.mb == mb
  | none => false

/-- Whether the reply ring of a mailbox has room (R369). -/
def State.mbRoom (s : State) (mb : Fin 4) : Bool := decide ((s.rplTail mb + 65536 - s.rplDb mb) % 65536 < s.mbSize mb)

/-- Whether a mailbox has a command that the harbourmaster may take. -/
def State.mbWaiting (s : State) (mb : Fin 4) : Bool :=
  s.serving && s.mbEnabled mb && !s.mbStopped mb && !s.mbBusy mb && s.mbRoom mb && decide (s.cmdHead mb ≠ s.cmdDb mb) && !(s.heldOf mb).isEmpty

/-- The mailbox whose command is taken next: the lowest one above the one last served, with a wrap from 3 to 0 (R372). -/
def State.nextMb (s : State) : Option (Fin 4) :=
  ((List.range 4).map fun i => Fin.ofNat 4 (s.host.lastServed + 1 + i)).find? fun mb => s.mbWaiting mb

/-! ### Taking a command (R369, R372) -/

/-- The harbourmaster reads a word of its private SRAM: the armed injections of R432 take hold. -/
def State.readPrivate (s : State) : State :=
  if s.armed 0x1C 0 then (s.disarm 0x1C 0).raise { plainEvent 0x040C srcHm [] with injected := true }
  else if s.armed 0x1D 0 ∧ s.powered then (s.disarm 0x1D 0).enterFaultBy true 7
  else s

/-- A command leaves its ring. -/
def State.taken (s : State) (mb : Fin 4) : State :=
  let s := (s.setHeld mb ((s.heldOf mb).drop 1)).setFld (.mbStatus mb) 63 48 (s.cmdHead mb + 1)
  ({ s with host := { s.host with lastServed := mb.val } } : State).readPrivate

/-- The harbourmaster takes the next command of a mailbox and executes it; a failed read of its entry stops the mailbox. -/
def State.serveOne (s : State) (mb : Fin 4) : State :=
  match s.heldOf mb with
  | [] => s
  | none :: _ => s.mbError mb 2
  | some e :: _ => (s.taken mb).execCmd e.opcode.toNat (bodyOf e.opcode.toNat e.image) { e.desc with mb := mb }

/-- Takes at most `fuel` commands. -/
def State.serveN (s : State) : Nat → State
  | 0 => s
  | fuel + 1 =>
    match s.nextMb with
    | none => s
    | some mb => State.serveN (s.serveOne mb) fuel

/-- Takes every command that may be taken. -/
def State.serve (s : State) : State := s.serveN s.host.held.length

/-- What follows an event: a QUAY_TRAIN or RECOVER_COPY that has ended replies, and waiting commands are taken. -/
def State.attend (s : State) : State := ((s.trainCheck).copyCheck).serve

/-! ### Doorbells and enabling (R367–R369) -/

/-- A write of a command doorbell with the entries that the host has written since. -/
def State.cmdDoorbell (s : State) (mb : Fin 4) (value : Nat) (entries : List (Option RingEntry)) : State :=
  let v := value % 65536
  let s' := s.setFld (.mbCmdDb mb) 15 0 v
  let n := (v + 65536 - s.cmdHead mb) % 65536
  if !s.mbEnabled mb || s.mbStopped mb then s'
  else if s.mbSize mb < n then s'.mbError mb 1
  else (s'.setHeld mb ((s.heldOf mb ++ entries).take n)).serve

/-- A write of a reply doorbell. -/
def State.rplDoorbell (s : State) (mb : Fin 4) (value : Nat) : State :=
  let v := value % 65536
  let s' := s.setFld (.mbRplDb mb) 15 0 v
  if !s.mbEnabled mb || s.mbStopped mb then s'
  else if s.mbSize mb < (s.rplTail mb + 65536 - v) % 65536 then s'.mbError mb 1
  else s'.serve

/-- The SIZE_LOG2 that a write of MB_CFG leaves in a disabled mailbox (R8). -/
def State.newSize (s : State) (mb : Fin 4) (value : Nat) : Nat :=
  fieldOf (keepReserved (.mbCfg mb) (s.reg (.mbCfg mb)) (BitVec.ofNat 64 value)) 3 0

/-- A write of MB_CFG. ENABLE = 1 resets a disabled mailbox's indices and starts service; a reserved SIZE_LOG2 stops it at once. ENABLE = 0 stops the
taking of commands. SIZE_LOG2 changes only while ENABLE is 0. -/
def State.mbConfig (s : State) (mb : Fin 4) (value : Nat) : State :=
  let bad := !(reservedFields (.mbCfg mb) (BitVec.ofNat 64 value)).isEmpty
  if bitOf value 31 then
    if s.mbEnabled mb then s
    else
      let s := s.setReg (.mbCfg mb) (BitVec.ofNat 64 (2 ^ 31 + s.newSize mb value))
      let s := ((s.setReg (.mbCmdDb mb) 0).setReg (.mbRplDb mb) 0).setReg (.mbStatus mb) 0
      let s : State := { s.setHeld mb [] with host := { (s.setHeld mb []).host with phase := listSet s.host.phase mb.val true } }
      if bad then s.mbError mb 4 else s
  else if s.mbEnabled mb then ((s.setFld (.mbCfg mb) 31 31 0).setHeld mb []).cutOff fun m => m == mb
  else s.setFld (.mbCfg mb) 3 0 (s.newSize mb value)

/-- The host writes one more entry into a mailbox's ring and rings its doorbell: how the row of a pilot command comes about. -/
def State.sendCommand (s : State) (opcode : Nat) (d : Desc) (image : HostImage) : State :=
  let e : RingEntry := { opcode := BitVec.ofNat 8 opcode, desc := d, image := image }
  if s.linked then s.cmdDoorbell d.mb (s.cmdDb d.mb + 1) [some e] else s

/-- A pilot command that reads no image. -/
def State.send (s : State) (opcode : Nat) (d : Desc) : State := s.sendCommand opcode d { scatter := none, bytes := none }

end Sys2Proof.Machine
end

