-- ==== Sys2Proof/Machine/HostPort.lean ====
section
/-! DEFINITION. Host accesses to registers and through BAR2 (R6, R24, R25, R361–R365, R388, R449, R490–R494), and the I3C target port (R422, R423). -/

namespace Sys2Proof.Machine

/-! ### Registers -/

/-- The read of TIDE_NOW that an access is (R39). -/
def tideAccess (o width : Nat) : Option TideNowRead :=
  if o = 0x10000 ∧ width = 8 then some .whole
  else if o = 0x10000 ∧ width = 4 then some .low
  else if o = 0x10004 ∧ width = 4 then some .high
  else none

/-- A host read of a register: the value, and the state that it leaves. -/
def State.hostRead (s : State) (o width : Nat) : W64 × State :=
  match tideAccess o width with
  | some a => ((s.tideNowRead a).host.lastRead, s.tideNowRead a)
  | none => s.readReg o width

/-- The mailbox whose register of offset `r` in its block an offset names (R367). -/
def mailboxAt (o r : Nat) : Option (Fin 4) :=
  if 0x100 ≤ o ∧ o < 0x200 ∧ o % 0x40 = r then some (Fin.ofNat 4 ((o - 0x100) / 0x40)) else none

/-- The ring whose TAIL an offset names (R449). -/
def ringTailAt (o : Nat) : Option (Fin 3) :=
  if 0x3000 ≤ o ∧ o < 0x3060 ∧ o % 0x20 = 4 then some (Fin.ofNat 3 ((o - 0x3000) / 0x20)) else none

/-- SIZE_LOG2 of a ring: of the logbook, the alarm and the trace ring. -/
def State.ringSize (s : State) (k : Fin 3) : Nat :=
  if k = 0 then s.log.logRing.sizeLog2 else if k = 1 then s.log.alarmRing.sizeLog2 else s.log.trace.ring.sizeLog2

/-- A write of a ring's TAIL, ignored unless it lies within the ring (R449). -/
def State.tailWrite (s : State) (k : Fin 3) (v : Nat) : State :=
  let used := (s.fld (.ringHead k) 31 0 + 2 ^ 32 - v % 2 ^ 32) % 2 ^ 32
  if used ≤ 2 ^ s.ringSize k then s.setReg (.ringTail k) (BitVec.ofNat 64 (v % 2 ^ 32)) else s

/-- A register write without a meaning of its own: it takes effect at the stroke boundary at or after its arrival (R492), and while no tide runs at once. The
writes that the harbourmaster serves as events, of doorbells, mailbox configurations and ring tails, act as they arrive (DESIGN CHOICE, log entry 80), and one of
WIN_BASE applies to every request that follows it (R365). -/
def State.deferWrite (s : State) (o width : Nat) (v : W64) : State :=
  if !s.tide.running || o / 8 == 1 then s.writeReg o width v
  else if s.atBoundary then s.writeNow o width v
  else { s with host := { s.host with pendingRegs := s.host.pendingRegs ++ [(o, width, v)] } }

/-- A host register write. -/
def State.hostWriteReg (s : State) (o width : Nat) (v : W64) : State :=
  if width = 4 then
    match mailboxAt o 0x18, mailboxAt o 0x1C, mailboxAt o 0x10, ringTailAt o with
    | some mb, _, _, _ => s.cmdDoorbell mb v.toNat []
    | none, some mb, _, _ => s.rplDoorbell mb v.toNat
    | none, none, some mb, _ => s.mbConfig mb (v.toNat % 2 ^ 32)
    | none, none, none, some k => s.tailWrite k v.toNat
    | none, none, none, none => s.deferWrite o width v
  else s.deferWrite o width v

/-- RC_READ: a host read, whose value the host receives. -/
def State.rcRead (s : State) (o width : Nat) : State :=
  let r := s.hostRead o width
  { r.2 with host := { r.2.host with lastRead := r.1 } }

/-- Whether an offset names a summary or a group cause register (R387). -/
def treeReg (o : Nat) : Bool := (decide (0x40 ≤ o) && decide (o < 0x58)) || (decide (0x1000 ≤ o) && decide (o < 0x1430))

/-! ### BAR2 (R365) -/

/-- The event of a service access to a retired page (R242). -/
def retiredEvent (a : Nat) : Event := causeEvent 7 (.memCause (if a < 0x8000000000 then .west else .east)) 6 srcHost []

/-- Logs what an access reached beside mapped, enabled memory; `pages` are the addresses that it reached on retired pages. -/
def State.logService (s : State) (bad : List Mapped) (pages : List Nat) : State :=
  let s := s.logBad srcHost bad
  match pages with
  | [] => s
  | a :: _ => s.raise (retiredEvent a)

/-- A service read of memory, through the decoders of what it reaches (R216, R232), in a slot of the banks that it reaches (R206). -/
def State.serviceRead (s : State) (a len : Nat) : State :=
  let s := (s.bookAt .service s.nowPs [(a, len)] []).sense a len
  let s := s.senseLines a len 3 0xFF
  let pages := ((List.range len).map fun i => a + i).filter fun x => s.mapped x == .retired
  let s := s.logService (s.badRanges a len) pages
  { s with host := { s.host with readData := s.readBytes a len } }

/-- Whether an address lies in a range that the manifests of the running plan declare (R25). -/
def State.overlapsPlan (s : State) (a : Nat) : Bool :=
  s.dev.state == .running && s.manifests.any fun e => decide (e.2.allocBase ≤ a) && decide (a < e.2.allocBase + e.2.allocSize)

/-- A run of a service write as it is stored. Bytes that fall on a declared range of a running plan have an undefined effect on its results: they take free
values (R25). -/
def State.writeRun (acc : List (Nat × List Byte) × State) (r : Nat × List Byte) : List (Nat × List Byte) × State :=
  let s := acc.2.bookAt .service acc.2.nowPs [] [(r.1, r.2.length)]
  if (List.range r.2.length).any fun i => s.overlapsPlan (r.1 + i) then
    let f := s.randomBytes (ceilDiv r.2.length 8)
    let bs := (List.range r.2.length).map fun i => if s.overlapsPlan (r.1 + i) then f.1.getD i 0 else r.2.getD i 0
    (acc.1 ++ [(r.1, bs)], f.2)
  else (acc.1 ++ [r], s)

/-- The bytes of a write with their addresses. -/
def enabledAt (a : Nat) (data : List (Option Byte)) : List Nat :=
  (List.range data.length).filterMap fun i => if (data.getD i none).isSome then some (a + i) else none

/-- A service write of memory. Bytes on a sum window are discarded: no leaf names a service access (R213). -/
def State.serviceWrite (s : State) (a : Nat) (data : List (Option Byte)) : State :=
  let as := enabledAt a data
  let bad := (as.map s.mapped).eraseDups
  let s := s.logService bad (as.filter fun x => s.mapped x == .retired)
  let s := if as.any s.overlapsPlan then (s.det 10).raise (causeEvent 13 .hmCause 13 srcHost []) else s
  let x := s.windowStray srcHost a data
  let r := (runsFrom a x.1).foldl State.writeRun ([], x.2)
  r.2.storeRuns 3 0xFF r.1

/-- A service access at a local address. -/
def State.service (s : State) (access : Bar2Access) (a : Nat) : State :=
  match access with
  | .read _ len => s.serviceRead a len
  | .write _ data => s.serviceWrite a data

/-- The register value that a write of 4 or 8 bytes with every byte enabled carries. -/
def wholeWrite (data : List (Option Byte)) : Option W64 :=
  if (data.length = 4 ∨ data.length = 8) ∧ data.all fun b => b.isSome then some (BitVec.ofNat 64 (leNat (data.map fun b => b.getD 0))) else none

/-- An access to the register range through BAR2: as through BAR0 (R494). -/
def State.bar2Reg (s : State) (access : Bar2Access) (o : Nat) : State :=
  match access with
  | .read _ len =>
    let r := s.hostRead o len
    { r.2 with host := { r.2.host with readData := leBytes len r.1.toNat } }
  | .write _ data =>
    match wholeWrite data with
    | some v => s.hostWriteReg o data.length v
    | none => s.blockNote o

/-- Whether service accesses wait for slots (R24). -/
def State.slotted (s : State) : Bool :=
  s.dev.state == .loaded || s.dev.state == .running || s.dev.state == .held || s.dev.state == .draining

/-- The offset of an access in its window. -/
def accessOffset : Bar2Access → Nat
  | .read o _ => o
  | .write o _ => o

/-- A read completes with zeros. -/
def State.readZeros (s : State) : Bar2Access → State
  | .read _ len => { s with host := { s.host with readData := List.replicate len 0 } }
  | .write _ _ => s

/-- The bytes of an access from `skip` on, at most `take`. -/
def accessPart (access : Bar2Access) (skip take : Nat) : Bar2Access :=
  match access with
  | .read o _ => .read (o + skip) take
  | .write o data => .write (o + skip) ((data.drop skip).take take)

/-- How many bytes an access covers. -/
def accessLen : Bar2Access → Nat
  | .read _ len => len
  | .write _ data => data.length

/-- The bytes of an access that a write enables, or that a read asks for. -/
def accessAsks : Bar2Access → Bool
  | .read _ len => decide (len ≠ 0)
  | .write _ data => data.any fun b => b.isSome

/-- An access at a local address that reaches the register range (R21, R494): its bytes in the range are one register access, and the others lie in
reserved ranges, which read as zero and log LOCAL_UNMAPPED. -/
def State.bar2Regs (s : State) (access : Bar2Access) (a : Nat) : State :=
  let n := accessLen access
  let skip := 0x30000000000 - a
  let take := min n (0x30001000000 - a) - skip
  let s' := s.bar2Reg (accessPart access skip take) (a + skip - 0x30000000000)
  let s' := if accessAsks (accessPart access 0 skip) || accessAsks (accessPart access (skip + take) (n - skip - take)) then
    s'.logBad srcHost [.unmapped] else s'
  match access with
  | .read _ _ =>
    { s' with host := { s'.host with
        readData := List.replicate skip 0 ++ s'.host.readData ++ List.replicate (n - skip - take) 0 } }
  | .write _ _ => s'

/-- BAR2_REQUEST. -/
def State.bar2Request (s : State) (access : Bar2Access) : State :=
  let a := s.fld .winBase 11 0 * 0x40000000 + accessOffset access
  if !s.linked then s
  else if !s.dev.everReady then s.readZeros access
  else if a < 0x30001000000 ∧ 0x30000000000 < a + accessLen access then s.bar2Regs access a
  else if s.slotted then { s with host := { s.host with services := s.host.services ++ [(access, a)] } }
  else s.service access a

/-- The lanes of main memory that an access reaches (R224). -/
def accessLanes (access : Bar2Access) (a : Nat) : List Nat :=
  if accessLen access = 0 then [] else ((linesOf a (accessLen access)).map fun l => laneKey l.1).eraseDups

/-- Whether a service access may be performed now: one to main memory needs a service slot of a plan frame of its half, 94 for a read and 95 for a write (R24,
R225, R226, R240); one elsewhere, a bank cycle in which no access of the plan takes a slot of the bank that it reaches: the slots that the loader reserves
there are not in the plan image (log entry 55). -/
def State.serviceMay (s : State) (access : Bar2Access) (a : Nat) : Bool :=
  match s.region a with
  | .main h => s.serviceNow (access matches .write _ _) && (accessLanes access a).all fun l => s.laneServes h l
  | _ => !s.onDie.reqs.any fun r => decide (r.cycle = s.cycleAt s.nowPs) && s.bankOf r.place == some (s.bankKey a)

/-- SERVICE_SLOT: the oldest waiting service access is performed; the lanes of main memory that it reaches serve the slot. -/
def State.serviceSlot (s : State) : State :=
  match s.host.services with
  | [] => s
  | (access, a) :: rest =>
    if s.serviceMay access a then
      ((accessLanes access a).foldl State.serveLane { s with host := { s.host with services := rest } }).service access a
    else s

/-! ### I3C (R422, R423) -/

/-- A byte of a whole number of degrees, and of nothing known. -/
def tempByte : Option Int → Byte
  | some t => BitVec.ofInt 8 t
  | none => 0xFF

/-- The hottest of some readings, where there is one. -/
def hottestOf (l : List Int) : Option Int :=
  match l with
  | [] => none
  | x :: xs => some (xs.foldl max x)

/-- Whether a cause stands in the logbook, its open records or its pins. -/
def State.logged (s : State) (cause : Nat) : Bool :=
  s.log.open_.any (fun r => r.cause == cause) || s.log.ring.any (fun r => r.cause == cause) || s.log.pins.any fun r => r.cause == cause

/-- Byte 0x17. -/
def State.i3cFlags (s : State) : Nat :=
  let b (x : Bool) (i : Nat) : Nat := if x then 2 ^ i else 0
  b s.host.condition 0 + b s.dev.tripW 1 + b s.dev.tripE 2 + b (s.logged 0x0404) 3 + b (s.logged 0x0403) 4 + b (s.tide.state == .locked) 5

/-- The 64 bytes of the I3C data; a field not yet known reads all ones. -/
def State.i3cData (s : State) : List Byte :=
  let found (n : Option Nat) : List Byte := match n with
    | some k => leBytes 1 k
    | none => [0xFF]
  let power : List Byte := match s.env.power with
    | some p => leBytes 2 (p / 1000)
    | none => [0xFF, 0xFF]
  let laser (e : Nat) : Byte := tempByte (Tab.find? s.env.lasers e)
  partNumber s.dev.grade ++ leBytes 1 s.dev.grade ++ found s.dev.foundW ++ found s.dev.foundE ++ leBytes 1 s.dev.state.code ++
    leBytes 2 (s.regNow .hmFault).toNat ++ leBytes 1 (s.dev.chartNo + if s.dev.fallback then 16 else 0) ++ leBytes 1 s.i3cFlags ++
    [tempByte s.env.tjW, tempByte s.env.tjE, tempByte (hottestOf (s.main.temps.map fun e => e.2)),
     tempByte (hottestOf (s.env.engines.map fun e => e.2))] ++
    power ++ leBytes 2 (s.govW.vcore / 10) ++ leBytes 2 (s.govE.vcore / 10) ++ (List.range 12).map laser ++ [0, 0] ++ sliceBytes s.sec.serial 0 16

/-- I3C_REFRESH: the data are refreshed; the port answers from the first refresh after BOOT entry on (R422). -/
def State.i3cRefresh (s : State) : State :=
  if s.dev.state = .off then s
  else { s with i3c := { s.i3c with on := true, image := s.i3cData } }

/-- The static address of the port (R422). -/
def i3cStatic : BitVec 7 := 0x4C

/-- Whether the port takes a transfer at an address: an SDR one at its dynamic address, an I²C one at the static address while it has no dynamic one. -/
def I3c.heard (t : I3c) (i2c : Bool) (address : BitVec 7) : Bool :=
  if i2c then t.address.isNone && address == i3cStatic else t.address == some address

/-- `n` bytes from the offset on; beyond 0x3F reads 0xFF. -/
def I3c.readFrom (t : I3c) (n : Nat) : List Byte := (List.range n).map fun i => t.image.getD (t.offset + i) 0xFF

/-- I3C_TRANSFER. The port NACKs while it does not answer, and every transfer at an address that is not its own. -/
def State.i3cTransfer (s : State) (x : I3cTransfer) : State :=
  let t := s.i3c
  let nack : I3c := { t with out := [] }
  let t' : I3c :=
    if !t.on then nack
    else match x with
      | .setOffset i2c a o => if t.heard i2c a then { t with offset := o.toNat, out := [] } else nack
      | .entdaa a => if t.address.isNone then { t with address := some a, out := [] } else nack
      | .setdasa st a => if t.address.isNone ∧ st = i3cStatic then { t with address := some a, out := [] } else nack
      | .i3cRead a n => if t.heard false a then { t with out := t.readFrom n } else nack
      | .i2cRead a n => if t.heard true a then { t with out := t.readFrom n } else nack
  { s with i3c := t' }

end Sys2Proof.Machine
end

