-- ==== Sys2Proof/Machine/Stroke.lean ====
section
/-! DEFINITION. The whole of a stroke boundary (R33–R37, R47, R56, R58, R138–R143, R166): what becomes visible, the slack, the start and the resume of
the plan, a PLAN reset (R405), the issue groups, holds, late waits and deadlines, and the end of a stop. -/

namespace Sys2Proof.Machine

/-- The waits of the strands that are late, and the deadlines that have passed. -/
def State.overdue (s : State) : State :=
  if s.dev.state = .running then
    let s := ((s.strands.map fun e => e.1) ++ s.run.injLate.map fun x => x.1).foldl State.scheduleLate s
    s.lockKeys.foldl State.lockDeadline s
  else s

/-- STOP_SCHED of a stop raised at boundary `b`: the operations scheduled for `b` have been issued (step 2 of R56). -/
def State.stampStop (s : State) (b : Nat) : State :=
  if s.dev.state = .running ∧ s.run.stopFrom = some (b + s.period) ∧ s.run.resumeAt.isNone then
    s.setReg .stopSched (BitVec.ofNat 64 (s.firstUnissued (b + s.period)))
  else s

/-- STROKE_BOUNDARY: the tide reaches its next stroke boundary. -/
def State.strokeBoundary (s : State) (delaysW delaysE late : List Nat) : State :=
  if s.tide.running then
    let b := s.boundaryAt (s.now + 1)
    let s := (s.settleBoundary b late).resetNow
    let s := (s.slackHalf .west delaysW).slackHalf .east delaysE
    let s := s.resumeStart.planStart.issueAll.stoppedWaits
    (s.hostHold.overdue.stampStop b).planEnd.enterHeld
  else s

end Sys2Proof.Machine
end

