-- ==== Sys2Proof/Machine/Rows.lean ====
section
/-! DEFINITION. The rows of the events after which waiting replies and commands go on, of the pilot commands (R377), of the host's registers and
windows, and of board management. -/

namespace Sys2Proof.Machine

/-! ### Time and strands -/

/-- STROKE_BOUNDARY: the tide reaches its next stroke boundary (R33). -/
def execStrokeBoundary (delaysW delaysE late : List Nat) (s : State) : Host.Outcome State Fault Refusal :=
  .next (s.strokeBoundary delaysW delaysE late).attend

/-- OPERATION_VISIBLE: an operation that is due becomes visible, or is late (R35, R37). -/
def execOperationVisible (op : Nat) (complete : Bool) (s : State) : Host.Outcome State Fault Refusal :=
  .next (match s.ops.find? fun o => o.id == op with
    | some o => if s.atBoundary then (s.visibleOp s.now (!complete) o).planEnd.attend else s
    | none => s)

/-- STRAND_RESUME: a waiting strand goes on when its wait condition holds (R140–R143). -/
def execStrandResume (st : StrandRef) (s : State) : Host.Outcome State Fault Refusal :=
  .next (if s.dev.state = .running ∧ !s.stoppedAt s.boundary ∧ s.atBoundary ∧ (s.strand st.key).status = .waiting then
      (s.turn st.key).1.planEnd.attend
    else s)

/-- END (R137). -/
def execEndStrand (st : StrandRef) (w : Word0) (s : State) : Host.Outcome State Fault Refusal :=
  .next (if s.mayIssue st.key then (s.endStrand st.key w.tagOf).attend else s)

/-- ENTER_HELD (R56). -/
def execEnterHeld (s : State) : Host.Outcome State Fault Refusal :=
  .next s.enterHeld.attend

/-- TIDE_PPS (R40). -/
def execTidePps (s : State) : Host.Outcome State Fault Refusal :=
  .next s.tidePps.attend

/-! ### The fabric -/

/-- LINK_TRAINING_ADVANCE (R248). -/
def execLinkTrainingAdvance (quay : Fin 48) (view : TrainView) (s : State) : Host.Outcome State Fault Refusal :=
  .next (s.trainAdvance quay.val view).attend

/-- TRAINING_TIMEOUT (R248). -/
def execTrainingTimeout (quay : Fin 48) (laser : Bool) (s : State) : Host.Outcome State Fault Refusal :=
  .next (s.trainTimeout quay.val laser).attend

/-- CELL_COMMIT (R278). -/
def execCellCommit (quay : Fin 48) (s : State) : Host.Outcome State Fault Refusal :=
  .next (s.cellCommit quay.val).attend

/-- REDUCE_CELL_COMMIT (R306). -/
def execReduceCellCommit (quay : Fin 48) (cell : List Byte) (s : State) : Host.Outcome State Fault Refusal :=
  if cell.length = 320 then .next (s.reduceCellCommit quay.val cell).attend else .fault .cellSize

/-! ### Pilot commands (R377) -/

/-- HELLO. -/
def execHello (d : Desc) (s : State) : Host.Outcome State Fault Refusal :=
  .next (s.send 0x01 d).attend

/-- IDENTIFY. -/
def execIdentify (d : Desc) (s : State) : Host.Outcome State Fault Refusal :=
  .next (s.send 0x02 d).attend

/-- STATUS. -/
def execStatus (d : Desc) (s : State) : Host.Outcome State Fault Refusal :=
  .next (s.send 0x03 d).attend

/-- CHART_READ. -/
def execChartRead (d : Desc) (s : State) : Host.Outcome State Fault Refusal :=
  .next (s.send 0x04 d).attend

/-- CHART_WRITE. -/
def execChartWrite (d : Desc) (s : State) : Host.Outcome State Fault Refusal :=
  .next (s.send 0x05 d).attend

/-- CHART_SELECT. -/
def execChartSelect (d : Desc) (s : State) : Host.Outcome State Fault Refusal :=
  .next (s.send 0x06 d).attend

/-- RESET with TYPE = PLAN. -/
def execResetPlan (d : Desc) (s : State) : Host.Outcome State Fault Refusal :=
  .next (s.send 0x07 d).attend

/-- RESET with TYPE = WARM. -/
def execResetWarm (d : Desc) (s : State) : Host.Outcome State Fault Refusal :=
  .next (s.send 0x07 d).attend

/-- RESET with TYPE = COLD. -/
def execResetCold (d : Desc) (s : State) : Host.Outcome State Fault Refusal := .next (s.send 0x07 d).attend

/-- TIDE_SET. -/
def execTideSet (d : Desc) (s : State) : Host.Outcome State Fault Refusal :=
  .next (s.send 0x10 d).attend

/-- FABRIC_CONFIG. -/
def execFabricConfig (d : Desc) (s : State) : Host.Outcome State Fault Refusal :=
  .next (s.send 0x11 d).attend

/-- QUAY_TRAIN. -/
def execQuayTrain (d : Desc) (s : State) : Host.Outcome State Fault Refusal :=
  .next (s.send 0x12 d).attend

/-- PLAN_UNLOAD. -/
def execPlanUnload (d : Desc) (s : State) : Host.Outcome State Fault Refusal :=
  .next (s.send 0x21 d).attend

/-- RUN. -/
def execRun (d : Desc) (s : State) : Host.Outcome State Fault Refusal :=
  .next (s.send 0x22 d).attend

/-- HOLD. -/
def execHold (d : Desc) (s : State) : Host.Outcome State Fault Refusal :=
  .next (s.send 0x23 d).attend

/-- DRAIN. -/
def execDrain (d : Desc) (s : State) : Host.Outcome State Fault Refusal :=
  .next (s.send 0x24 d).attend

/-- RECOVER_ENTER. -/
def execRecoverEnter (d : Desc) (s : State) : Host.Outcome State Fault Refusal :=
  .next (s.send 0x25 d).attend

/-- RECOVER_EXIT. -/
def execRecoverExit (d : Desc) (s : State) : Host.Outcome State Fault Refusal :=
  .next (s.send 0x26 d).attend

/-- RECOVER_COPY. -/
def execRecoverCopy (d : Desc) (s : State) : Host.Outcome State Fault Refusal :=
  .next (s.send 0x27 d).attend

/-- ALLOC_CREATE. -/
def execAllocCreate (d : Desc) (s : State) : Host.Outcome State Fault Refusal :=
  .next (s.send 0x30 d).attend

/-- ALLOC_FREE. -/
def execAllocFree (d : Desc) (s : State) : Host.Outcome State Fault Refusal :=
  .next (s.send 0x31 d).attend

/-- MANIFEST_CREATE. -/
def execManifestCreate (d : Desc) (s : State) : Host.Outcome State Fault Refusal :=
  .next (s.send 0x32 d).attend

/-- MANIFEST_DESTROY. -/
def execManifestDestroy (d : Desc) (s : State) : Host.Outcome State Fault Refusal :=
  .next (s.send 0x33 d).attend

/-- MANIFEST_QUERY. -/
def execManifestQuery (d : Desc) (s : State) : Host.Outcome State Fault Refusal :=
  .next (s.send 0x34 d).attend

/-- MEM_ERASE. -/
def execMemErase (d : Desc) (s : State) : Host.Outcome State Fault Refusal :=
  .next (s.send 0x38 d).attend

/-- MEM_RETIRE_PAGE. -/
def execMemRetirePage (d : Desc) (s : State) : Host.Outcome State Fault Refusal :=
  .next (s.send 0x39 d).attend

/-- MEM_RETIRE_LIST. -/
def execMemRetireList (d : Desc) (s : State) : Host.Outcome State Fault Refusal :=
  .next (s.send 0x3A d).attend

/-- LOG_CONFIG with OP = SET_RING. -/
def execLogSetRing (d : Desc) (s : State) : Host.Outcome State Fault Refusal :=
  .next (s.send 0x40 d).attend

/-- LOG_CONFIG with OP = READ_PINS. -/
def execLogReadPins (d : Desc) (s : State) : Host.Outcome State Fault Refusal :=
  .next (s.send 0x40 d).attend

/-- LOG_CLEAR. -/
def execLogClear (d : Desc) (s : State) : Host.Outcome State Fault Refusal :=
  .next (s.send 0x41 d).attend

/-- TRACE_CONFIG. -/
def execTraceConfig (d : Desc) (s : State) : Host.Outcome State Fault Refusal :=
  .next (s.send 0x42 d).attend

/-- TELEMETRY. -/
def execTelemetry (d : Desc) (s : State) : Host.Outcome State Fault Refusal :=
  .next (s.send 0x43 d).attend

/-- INJECT. -/
def execInject (d : Desc) (s : State) : Host.Outcome State Fault Refusal :=
  .next (s.send 0x50 d).attend

/-- ATTEST. -/
def execAttest (d : Desc) (s : State) : Host.Outcome State Fault Refusal :=
  .next (s.send 0x51 d).attend

/-- DEBUG_CHALLENGE. -/
def execDebugChallenge (d : Desc) (s : State) : Host.Outcome State Fault Refusal :=
  .next (s.send 0x52 d).attend

/-- DEBUG_UNLOCK. -/
def execDebugUnlock (d : Desc) (s : State) : Host.Outcome State Fault Refusal :=
  .next (s.send 0x53 d).attend

/-- ROLLBACK_ADVANCE, whole or cut by a loss of power (R461). -/
def execRollbackAdvance (d : FuseDesc) (s : State) : Host.Outcome State Fault Refusal :=
  .next (match d.cut with
    | none => (s.send 0x54 d.desc).attend
    | some n => s.fuseCut n)

/-- PLAN_LOAD. -/
def execPlanLoad (d : Desc) (image : HostImage) (s : State) : Host.Outcome State Fault Refusal :=
  .next (s.sendCommand 0x20 d image).attend

/-! ### The ends of long commands -/

/-- CHART_SELECT_COMPLETE (R399). -/
def execChartSelectComplete (failed : List (Fin 144)) (packages : List (Fin 36)) (s : State) : Host.Outcome State Fault Refusal :=
  .next (s.chartSelectComplete (failed.map fun p => p.val) (packages.map fun p => p.val)).attend

/-- DRAIN_COMPLETE (R380). -/
def execDrainComplete (s : State) : Host.Outcome State Fault Refusal :=
  .next s.drainComplete.attend

/-- RECOVER_TIMEOUT (R381). -/
def execRecoverTimeout (s : State) : Host.Outcome State Fault Refusal :=
  .next s.recoverTimeout.attend

/-- PLAN_LOAD_COMPLETE (R482). -/
def execPlanLoadComplete (s : State) : Host.Outcome State Fault Refusal :=
  .next s.planLoadComplete.attend

/-! ### Host registers and windows -/

/-- MB_CMD_DOORBELL (R369). -/
def execMbCmdDoorbell (mb : Fin 4) (value : W32) (entries : List (Option RingEntry)) (s : State) : Host.Outcome State Fault Refusal :=
  .next (if s.linked then (s.cmdDoorbell mb value.toNat entries).attend else s)

/-- MB_RPL_DOORBELL (R369). -/
def execMbRplDoorbell (mb : Fin 4) (value : W32) (s : State) : Host.Outcome State Fault Refusal :=
  .next (if s.linked then (s.rplDoorbell mb value.toNat).attend else s)

/-- MB_ENABLE (R368): a write of MB_CFG with ENABLE = 1. -/
def execMbEnable (mb : Fin 4) (value : W32) (s : State) : Host.Outcome State Fault Refusal :=
  .next (if s.linked ∧ bitOf value.toNat 31 then (s.mbConfig mb value.toNat).attend else s)

/-- MB_DISABLE (R368): a write of MB_CFG with ENABLE = 0. -/
def execMbDisable (mb : Fin 4) (value : W32) (s : State) : Host.Outcome State Fault Refusal :=
  .next (if s.linked ∧ !bitOf value.toNat 31 then (s.mbConfig mb value.toNat).attend else s)

/-- WIN_BASE_WRITE (R365). -/
def execWinBaseWrite (value : W64) (s : State) : Host.Outcome State Fault Refusal :=
  .next (if s.linked then s.deferWrite 8 8 value else s)

/-- RC_READ (R6, R75). -/
def execRcRead (offset width : Nat) (s : State) : Host.Outcome State Fault Refusal :=
  .next (if s.linked then s.rcRead offset width else s)

/-- SUMMARY_CLEAR (R388, R389). -/
def execSummaryClear (offset width : Nat) (value : W64) (s : State) : Host.Outcome State Fault Refusal :=
  .next (if s.linked ∧ treeReg offset then s.deferWrite offset width value else s)

/-- RING_TAIL_WRITE (R449). -/
def execRingTailWrite (ring : Fin 3) (value : W32) (s : State) : Host.Outcome State Fault Refusal :=
  .next (if s.linked then s.tailWrite ring value.toNat else s)

/-- REGISTER_WRITE (R6, R492), and the host's writes of the function's power state and MSI-X control, which the function takes in D3hot too (R361, R389). -/
def execRegisterWrite (offset width : Nat) (value : W64) (s : State) : Host.Outcome State Fault Refusal :=
  .next (if offset = cfgPower ∨ offset = cfgMsix then
      (if s.host.linkUp ∧ s.dev.state ≠ .off then s.configWrite offset value.toNat else s)
    else if s.linked then (s.hostWriteReg offset width value).attend else s)

/-- BAR2_REQUEST (R365). -/
def execBar2Request (access : Bar2Access) (s : State) : Host.Outcome State Fault Refusal :=
  .next (s.bar2Request access)

/-- SERVICE_SLOT (R24). -/
def execServiceSlot (s : State) : Host.Outcome State Fault Refusal :=
  .next s.serviceSlot

/-! ### Bring-up, pins and board management -/

/-- VERIFY_DONE (R459). -/
def execVerifyDone (s : State) : Host.Outcome State Fault Refusal := .next s.verifyDone.attend

/-- GESSO_DONE (R15, R393). -/
def execGessoDone (s : State) : Host.Outcome State Fault Refusal :=
  .next s.gessoDone.attend

/-- POWER_LOSS: OFF from any state (R400, R417). Until VIO has fallen too, which the row says when it is sent in OFF, the I3C port answers with what the
device's last refresh, at the loss, has put there. -/
def execPowerLoss (s : State) : Host.Outcome State Fault Refusal :=
  .next (if s.dev.state = .off then s.unpowered
    else { s.torn.unpowered with i3c := { s.i3c with image := if s.i3c.on then s.i3cData else s.i3c.image, out := [] } })

/-- RAIL_LOST (R391, R404). -/
def execRailLost (input : Fin 3) (s : State) : Host.Outcome State Fault Refusal :=
  .next (if s.powered then (((s.setPg input false).raise (plainEvent 0x0404 srcHm [input.val])).enterFault 6).attend else s)

/-- HM_WATCHDOG: the harbourmaster's watchdog expires, or its private SRAM returns an uncorrectable word, from GESSO to RECOVERY (R404). -/
def execHmWatchdog (sramWord : Bool) (s : State) : Host.Outcome State Fault Refusal :=
  let inj := sramWord && s.armed 0x1D 0
  .next (if s.powered ∧ s.dev.state ≠ .boot ∧ s.dev.state ≠ .verify then ((if inj then s.disarm 0x1D 0 else s).enterFaultBy inj 7).attend else s)

/-- I3C_TRANSFER (R422). -/
def execI3cTransfer (transfer : I3cTransfer) (s : State) : Host.Outcome State Fault Refusal :=
  .next (s.i3cTransfer transfer)

/-- I3C_REFRESH (R423). -/
def execI3cRefresh (s : State) : Host.Outcome State Fault Refusal := .next s.i3cRefresh

end Sys2Proof.Machine
end

