-- ==== Sys2Proof/Machine/Dispatch.lean ====
section
/-! DEFINITION. The meaning of every command: one arm for each constructor. -/

namespace Sys2Proof.Machine

/-- The effect of a command on everything but the queue. -/
def exec (i : Instr) (s : State) : Host.Outcome State Fault Refusal :=
  match i with
  | .strokeBoundary delaysW delaysE late => Sys2Proof.Machine.execStrokeBoundary delaysW delaysE late s
  | .operationVisible op complete => Sys2Proof.Machine.execOperationVisible op complete s
  | .strandResume st => Sys2Proof.Machine.execStrandResume st s
  | .scheduleLate st => Sys2Proof.Machine.execScheduleLate st s
  | .governorPeriod h => Sys2Proof.Machine.execGovernorPeriod h s
  | .regulatorReadback h sram ack statusError readMv => Sys2Proof.Machine.execRegulatorReadback h sram ack statusError readMv s
  | .railCurrentRead h coreMa sramMa => Sys2Proof.Machine.execRailCurrentRead h coreMa sramMa s
  | .thermal h reading => Sys2Proof.Machine.execThermal h reading s
  | .powerCap fixed => Sys2Proof.Machine.execPowerCap fixed s
  | .enterHeld => Sys2Proof.Machine.execEnterHeld s
  | .tidePps => Sys2Proof.Machine.execTidePps s
  | .tideServoUpdate => Sys2Proof.Machine.execTideServoUpdate s
  | .upstreamLost => Sys2Proof.Machine.execUpstreamLost s
  | .tideError => Sys2Proof.Machine.execTideError s
  | .tideRefLost => Sys2Proof.Machine.execTideRefLost s
  | .nop st w => Sys2Proof.Machine.execNop st w s
  | .add st w => Sys2Proof.Machine.execAdd st w s
  | .sub st w => Sys2Proof.Machine.execSub st w s
  | .and st w => Sys2Proof.Machine.execAnd st w s
  | .or st w => Sys2Proof.Machine.execOr st w s
  | .xor st w => Sys2Proof.Machine.execXor st w s
  | .shl st w => Sys2Proof.Machine.execShl st w s
  | .shr st w => Sys2Proof.Machine.execShr st w s
  | .sra st w => Sys2Proof.Machine.execSra st w s
  | .mul st w => Sys2Proof.Machine.execMul st w s
  | .mins st w => Sys2Proof.Machine.execMins st w s
  | .maxs st w => Sys2Proof.Machine.execMaxs st w s
  | .slt st w => Sys2Proof.Machine.execSlt st w s
  | .sltu st w => Sys2Proof.Machine.execSltu st w s
  | .li st w => Sys2Proof.Machine.execLi st w s
  | .li64 st w w1 => Sys2Proof.Machine.execLi64 st w w1 s
  | .sysrd st w => Sys2Proof.Machine.execSysrd st w s
  | .ld st w => Sys2Proof.Machine.execLd st w s
  | .st st w => Sys2Proof.Machine.execSt st w s
  | .jmp st w => Sys2Proof.Machine.execJmp st w s
  | .beqz st w => Sys2Proof.Machine.execBeqz st w s
  | .bnez st w => Sys2Proof.Machine.execBnez st w s
  | .blt st w => Sys2Proof.Machine.execBlt st w s
  | .spawn st w => Sys2Proof.Machine.execSpawn st w s
  | .endStrand st w => Sys2Proof.Machine.execEndStrand st w s
  | .waitt st w => Sys2Proof.Machine.execWaitt st w s
  | .twait st w => Sys2Proof.Machine.execTwait st w s
  | .eop st w w1 w2 => Sys2Proof.Machine.execEop st w w1 w2 s
  | .accrd st w => Sys2Proof.Machine.execAccrd st w s
  | .accwr st w => Sys2Proof.Machine.execAccwr st w s
  | .vst st w w1 => Sys2Proof.Machine.execVst st w w1 s
  | .pcvt st w w1 => Sys2Proof.Machine.execPcvt st w w1 s
  | .sketch st w w1 w2 => Sys2Proof.Machine.execSketch st w w1 w2 s
  | .vew st w w1 => Sys2Proof.Machine.execVew st w w1 s
  | .vred st w w1 => Sys2Proof.Machine.execVred st w w1 s
  | .upd st w w1 w2 => Sys2Proof.Machine.execUpd st w w1 w2 s
  | .mevo st w w1 w2 => Sys2Proof.Machine.execMevo st w w1 w2 s
  | .rng st w w1 => Sys2Proof.Machine.execRng st w w1 s
  | .vfin st w w1 => Sys2Proof.Machine.execVfin st w w1 s
  | .crc st w w1 => Sys2Proof.Machine.execCrc st w w1 s
  | .dcopy st w w1 => Sys2Proof.Machine.execDcopy st w w1 s
  | .dfeed st w w1 w2 => Sys2Proof.Machine.execDfeed st w w1 w2 s
  | .dset st w w1 => Sys2Proof.Machine.execDset st w w1 s
  | .fst st w w1 => Sys2Proof.Machine.execFst st w w1 s
  | .fld st w w1 => Sys2Proof.Machine.execFld st w w1 s
  | .fatom st w w1 => Sys2Proof.Machine.execFatom st w w1 s
  | .fsig st w => Sys2Proof.Machine.execFsig st w s
  | .fpush st w => Sys2Proof.Machine.execFpush st w s
  | .rcontrib st w w1 => Sys2Proof.Machine.execRcontrib st w w1 s
  | .rmerge st w w1 => Sys2Proof.Machine.execRmerge st w w1 s
  | .bpush st w => Sys2Proof.Machine.execBpush st w s
  | .bpop st w => Sys2Proof.Machine.execBpop st w s
  | .btry st w => Sys2Proof.Machine.execBtry st w s
  | .bcount st w => Sys2Proof.Machine.execBcount st w s
  | .lenter st w => Sys2Proof.Machine.execLenter st w s
  | .larrive st w => Sys2Proof.Machine.execLarrive st w s
  | .lwait st w => Sys2Proof.Machine.execLwait st w s
  | .sigadd st w => Sys2Proof.Machine.execSigadd st w s
  | .sigwait st w => Sys2Proof.Machine.execSigwait st w s
  | .fence st w => Sys2Proof.Machine.execFence st w s
  | .mma st w => Sys2Proof.Machine.execMma st w s
  | .ldf st w w1 => Sys2Proof.Machine.execLdf st w w1 s
  | .sta st w => Sys2Proof.Machine.execSta st w s
  | .cvt st w => Sys2Proof.Machine.execCvt st w s
  | .cpy st w => Sys2Proof.Machine.execCpy st w s
  | .vop st w => Sys2Proof.Machine.execVop st w s
  | .bar st w => Sys2Proof.Machine.execBar st w s
  | .qpush st w => Sys2Proof.Machine.execQpush st w s
  | .qpop st w => Sys2Proof.Machine.execQpop st w s
  | .swt st w => Sys2Proof.Machine.execSwt st w s
  | .rst st w w1 => Sys2Proof.Machine.execRst st w w1 s
  | .rsig st w => Sys2Proof.Machine.execRsig st w s
  | .fen st w => Sys2Proof.Machine.execFen st w s
  | .lockOpen core lock => Sys2Proof.Machine.execLockOpen core lock s
  | .lockDeadline core lock => Sys2Proof.Machine.execLockDeadline core lock s
  | .normPartAdd group part w2 g2 d2 => Sys2Proof.Machine.execNormPartAdd group part w2 g2 d2 s
  | .sketchCounterRead layer => Sys2Proof.Machine.execSketchCounterRead layer s
  | .sumContribution source slice tile values => Sys2Proof.Machine.execSumContribution source slice tile values s
  | .sramScrub bank upsets => Sys2Proof.Machine.execSramScrub bank upsets s
  | .memoryFrame temperatures => Sys2Proof.Machine.execMemoryFrame temperatures s
  | .memorySlot use core line data errors => Sys2Proof.Machine.execMemorySlot use core line data errors s
  | .memQueueStart op => Sys2Proof.Machine.execMemQueueStart op s
  | .dramScrub group lane errors => Sys2Proof.Machine.execDramScrub group lane errors s
  | .packageLost package => Sys2Proof.Machine.execPackageLost package s
  | .cellTransmit quay slot => Sys2Proof.Machine.execCellTransmit quay slot s
  | .cellReceive quay cell arrivalNs arrivalFrac => Sys2Proof.Machine.execCellReceive quay cell arrivalNs arrivalFrac s
  | .cellCommit quay => Sys2Proof.Machine.execCellCommit quay s
  | .loadResponseReady id => Sys2Proof.Machine.execLoadResponseReady id s
  | .signalApply id => Sys2Proof.Machine.execSignalApply id s
  | .linkDown quay => Sys2Proof.Machine.execLinkDown quay s
  | .laserLoss engine quarterDbm => Sys2Proof.Machine.execLaserLoss engine quarterDbm s
  | .linkTrainingAdvance quay view => Sys2Proof.Machine.execLinkTrainingAdvance quay view s
  | .trainingTimeout quay laser => Sys2Proof.Machine.execTrainingTimeout quay laser s
  | .channelArm channel => Sys2Proof.Machine.execChannelArm channel s
  | .reduceCellCommit quay cell => Sys2Proof.Machine.execReduceCellCommit quay cell s
  | .leafSumStart h entry cell => Sys2Proof.Machine.execLeafSumStart h entry cell s
  | .nodeCombine h entry cell => Sys2Proof.Machine.execNodeCombine h entry cell s
  | .nodeOutputComplete h entry cell => Sys2Proof.Machine.execNodeOutputComplete h entry cell s
  | .rootShardDone h entry => Sys2Proof.Machine.execRootShardDone h entry s
  | .backupDeadline h entry right cell => Sys2Proof.Machine.execBackupDeadline h entry right cell s
  | .hello d => Sys2Proof.Machine.execHello d s
  | .identify d => Sys2Proof.Machine.execIdentify d s
  | .status d => Sys2Proof.Machine.execStatus d s
  | .chartRead d => Sys2Proof.Machine.execChartRead d s
  | .chartWrite d => Sys2Proof.Machine.execChartWrite d s
  | .chartSelect d => Sys2Proof.Machine.execChartSelect d s
  | .chartSelectComplete failed packages => Sys2Proof.Machine.execChartSelectComplete failed packages s
  | .resetPlan d => Sys2Proof.Machine.execResetPlan d s
  | .resetWarm d => Sys2Proof.Machine.execResetWarm d s
  | .resetCold d => Sys2Proof.Machine.execResetCold d s
  | .tideSet d => Sys2Proof.Machine.execTideSet d s
  | .fabricConfig d => Sys2Proof.Machine.execFabricConfig d s
  | .quayTrain d => Sys2Proof.Machine.execQuayTrain d s
  | .planLoad d image => Sys2Proof.Machine.execPlanLoad d image s
  | .planUnload d => Sys2Proof.Machine.execPlanUnload d s
  | .run d => Sys2Proof.Machine.execRun d s
  | .planStart => Sys2Proof.Machine.execPlanStart s
  | .resumeStart => Sys2Proof.Machine.execResumeStart s
  | .hold d => Sys2Proof.Machine.execHold d s
  | .hostHold => Sys2Proof.Machine.execHostHold s
  | .drain d => Sys2Proof.Machine.execDrain d s
  | .drainAbandoned => Sys2Proof.Machine.execDrainAbandoned s
  | .drainComplete => Sys2Proof.Machine.execDrainComplete s
  | .recoverEnter d => Sys2Proof.Machine.execRecoverEnter d s
  | .recoverExit d => Sys2Proof.Machine.execRecoverExit d s
  | .recoverCopy d => Sys2Proof.Machine.execRecoverCopy d s
  | .recoverTimeout => Sys2Proof.Machine.execRecoverTimeout s
  | .allocCreate d => Sys2Proof.Machine.execAllocCreate d s
  | .allocFree d => Sys2Proof.Machine.execAllocFree d s
  | .manifestCreate d => Sys2Proof.Machine.execManifestCreate d s
  | .manifestDestroy d => Sys2Proof.Machine.execManifestDestroy d s
  | .manifestQuery d => Sys2Proof.Machine.execManifestQuery d s
  | .memErase d => Sys2Proof.Machine.execMemErase d s
  | .memRetirePage d => Sys2Proof.Machine.execMemRetirePage d s
  | .memRetireList d => Sys2Proof.Machine.execMemRetireList d s
  | .logSetRing d => Sys2Proof.Machine.execLogSetRing d s
  | .logReadPins d => Sys2Proof.Machine.execLogReadPins d s
  | .logClear d => Sys2Proof.Machine.execLogClear d s
  | .traceConfig d => Sys2Proof.Machine.execTraceConfig d s
  | .telemetry d => Sys2Proof.Machine.execTelemetry d s
  | .inject d => Sys2Proof.Machine.execInject d s
  | .attest d => Sys2Proof.Machine.execAttest d s
  | .debugChallenge d => Sys2Proof.Machine.execDebugChallenge d s
  | .debugUnlock d => Sys2Proof.Machine.execDebugUnlock d s
  | .rollbackAdvance d => Sys2Proof.Machine.execRollbackAdvance d s
  | .mbCmdDoorbell mb value entries => Sys2Proof.Machine.execMbCmdDoorbell mb value entries s
  | .mbRplDoorbell mb value => Sys2Proof.Machine.execMbRplDoorbell mb value s
  | .mbEnable mb value => Sys2Proof.Machine.execMbEnable mb value s
  | .mbDisable mb value => Sys2Proof.Machine.execMbDisable mb value s
  | .winBaseWrite value => Sys2Proof.Machine.execWinBaseWrite value s
  | .tideNowRead access => Sys2Proof.Machine.execTideNowRead access s
  | .rcRead offset width => Sys2Proof.Machine.execRcRead offset width s
  | .summaryClear offset width value => Sys2Proof.Machine.execSummaryClear offset width value s
  | .ringTailWrite ring value => Sys2Proof.Machine.execRingTailWrite ring value s
  | .registerWrite offset width value => Sys2Proof.Machine.execRegisterWrite offset width value s
  | .bar2Request access => Sys2Proof.Machine.execBar2Request access s
  | .serviceSlot => Sys2Proof.Machine.execServiceSlot s
  | .interruptEvaluate => Sys2Proof.Machine.execInterruptEvaluate s
  | .msixHoldoffExpiry => Sys2Proof.Machine.execMsixHoldoffExpiry s
  | .logWindowClose cause source line => Sys2Proof.Machine.execLogWindowClose cause source line s
  | .alarmEmit => Sys2Proof.Machine.execAlarmEmit s
  | .logMirrorWrite => Sys2Proof.Machine.execLogMirrorWrite s
  | .traceWrite source => Sys2Proof.Machine.execTraceWrite source s
  | .bootEntry => Sys2Proof.Machine.execBootEntry s
  | .coreSelfTestDone failed => Sys2Proof.Machine.execCoreSelfTestDone failed s
  | .memoryTrainingDone failed => Sys2Proof.Machine.execMemoryTrainingDone failed s
  | .bootDone => Sys2Proof.Machine.execBootDone s
  | .verifyDone => Sys2Proof.Machine.execVerifyDone s
  | .gessoDone => Sys2Proof.Machine.execGessoDone s
  | .powerLoss => Sys2Proof.Machine.execPowerLoss s
  | .railLost input => Sys2Proof.Machine.execRailLost input s
  | .railGlitch input => Sys2Proof.Machine.execRailGlitch input s
  | .thermtrip h => Sys2Proof.Machine.execThermtrip h s
  | .holdPin pins => Sys2Proof.Machine.execHoldPin pins s
  | .perstAssert => Sys2Proof.Machine.execPerstAssert s
  | .functionLevelReset => Sys2Proof.Machine.execFunctionLevelReset s
  | .hmWatchdog sramWord => Sys2Proof.Machine.execHmWatchdog sramWord s
  | .tideRefPresent present => Sys2Proof.Machine.execTideRefPresent present s
  | .ppsPresentLost => Sys2Proof.Machine.execPpsPresentLost s
  | .perstRelease => Sys2Proof.Machine.execPerstRelease s
  | .pcieLinkUp => Sys2Proof.Machine.execPcieLinkUp s
  | .i3cTransfer transfer => Sys2Proof.Machine.execI3cTransfer transfer s
  | .i3cRefresh => Sys2Proof.Machine.execI3cRefresh s
  | .planLoadComplete => Sys2Proof.Machine.execPlanLoadComplete s

end Sys2Proof.Machine
end

