-- ==== Sys2Proof/WellFormed.lean ====
section
/-! DEFINITION. Which operands of a command can occur: field widths, sizes that a rule fixes, and the words that an instruction may have (R146). -/

namespace Sys2Proof

open Sys2Proof.Machine

/-- A field of a descriptor fits its size (R370). -/
def fits (bytes v : Nat) : Bool := decide (v < 256 ^ bytes)

/-- A command descriptor with what the device reads for it: an inline payload has its 40 bytes, an indirect one PAYLOAD_LEN bytes where the read succeeds,
and the 32 bytes of the entry after its address (R370). -/
def Desc.wf (d : Desc) : Bool :=
  fits 4 d.payloadLen && fits 4 d.replyLen && fits 8 d.replyAddr && fits 8 d.indirect &&
    decide (d.rest.length = if bitOf d.flags.toNat 0 then 32 else 0) &&
    (if bitOf d.flags.toNat 0 then (match d.payload with
        | some p => decide (p.length = d.payloadLen)
        | none => true)
      else match d.payload with
        | some p => decide (p.length = 40)
        | none => false)

/-- The first payload byte of a descriptor: RESET's TYPE, LOG_CONFIG's OP. -/
def Desc.kind (d : Desc) : Nat := fieldAt (d.payload.getD []) 0 1

/-- An image with the scatter list that the device read for it: entries of 64-bit addresses and lengths (R482). -/
def HostImage.wf (i : HostImage) : Bool :=
  match i.scatter, i.bytes with
  | some l, some b => (l.all fun e => fits 8 e.1 && fits 8 e.2) && decide (b.length = (l.map fun e => e.2).sum)
  | some l, none => l.all fun e => fits 8 e.1 && fits 8 e.2
  | none, some _ => false
  | none, none => true

/-- An entry of a command ring. -/
def RingEntry.wf (e : RingEntry) : Bool := e.desc.wf && e.image.wf

/-- Whether no value of a list repeats. -/
def distinct : List Nat → Bool
  | [] => true
  | a :: l => !l.contains a && distinct l

/-- A BAR2 access within the window of 64 GiB (R365). -/
def Bar2Access.wf : Bar2Access → Bool
  | .read o n => decide (0 < n) && decide (o + n ≤ 2 ^ 36)
  | .write o b => decide (0 < b.length) && decide (o + b.length ≤ 2 ^ 36)

/-- A register access of 4 or 8 bytes in BAR0, with a value of its width (R6). -/
def accessWf (o width : Nat) (v : W64) : Bool := (width == 4 || width == 8) && decide (o + width ≤ 2 ^ 24) && fits width v.toNat

/-- A write of one of the function's two configuration registers, of 4 bytes (R361). -/
def configWf (o width : Nat) (v : W64) : Bool := width == 4 && (o == cfgPower || o == cfgMsix) && fits width v.toNat

/-- Symbol errors of a line: positions of a code word's 36, differences that are not zero (R230). -/
def burstsWf (l : List BurstError) : Bool := l.all fun e => decide (e.pos.val < 36) && e.diff != 0

/-- A cell of a physical row (R215). -/
def RowUpset.wf : RowUpset → Bool
  | .bits c _ => decide (c < 1024)
  | .row => true

/-- The words of a strand's instruction fit the shape of its opcode: no bit is set that its definition does not name (R146). -/
def wordsWf (i : Instr) : Bool :=
  match encodeSsi i with
  | none => true
  | some ws =>
    let w0 := ws.getD 0 0
    match (shapeOf false (opcodeOf w0)).orElse fun _ => shapeOf true (opcodeOf w0) with
    | none => false
    | some sh => shapeFits sh w0 (ws.getD 1 0) (ws.getD 2 0)

/-- The delays of a half's 32 replica paths, measured to 2 ps (R47). -/
def delaysWf (l : List Nat) : Bool := decide (l.length = 32) && l.all fun d => d % 2 == 0

/-- The operands of a command that no width of its type already bounds. -/
def operandsWf : Instr → Bool
  | .strokeBoundary w e late => delaysWf w && delaysWf e && distinct late
  | .memoryFrame t => decide (t.length = 36)
  | .memorySlot _ _ line data errors =>
    decide (line < 2 ^ 32) && (data.all fun d => decide (d.1 < 256)) && distinct (data.map fun d => d.1) && burstsWf errors
  | .dramScrub _ _ errors => burstsWf errors
  | .sramScrub _ ups => ups.all RowUpset.wf
  | .sumContribution _ _ _ values => (values.all fun v => decide (v.1 < 16384)) && distinct (values.map fun v => v.1)
  | .cellReceive _ c _ _ => decide (c.length = 320)
  | .reduceCellCommit _ c => decide (c.length = 320)
  | .linkTrainingAdvance _ v => decide (v.payload.length = 256)
  | .leafSumStart _ _ c => decide (c < 2 ^ 20)
  | .nodeCombine _ _ c => decide (c < 2 ^ 20)
  | .nodeOutputComplete _ _ c => decide (c < 2 ^ 20)
  | .backupDeadline _ _ _ c => decide (c < 2 ^ 20)
  | .coreSelfTestDone f => distinct (f.map fun p => p.val)
  | .memoryTrainingDone f => distinct (f.map fun p => p.val)
  | .chartSelectComplete f p => distinct (f.map fun x => x.val) && distinct (p.map fun x => x.val)
  | .powerCap fixed => decide (fixed.length = 8)
  | .thermal _ r => decide (r.engines.length = 6)
  | .resetPlan d => d.wf && d.kind == 1
  | .resetWarm d => d.wf && d.kind == 2
  | .resetCold d => d.wf && d.kind == 3
  | .logSetRing d => d.wf && d.kind == 0
  | .logReadPins d => d.wf && d.kind == 1
  | .hello d => d.wf
  | .identify d => d.wf
  | .status d => d.wf
  | .chartRead d => d.wf
  | .chartWrite d => d.wf
  | .chartSelect d => d.wf
  | .tideSet d => d.wf
  | .fabricConfig d => d.wf
  | .quayTrain d => d.wf
  | .planLoad d i => d.wf && i.wf
  | .planUnload d => d.wf
  | .run d => d.wf
  | .hold d => d.wf
  | .drain d => d.wf
  | .recoverEnter d => d.wf
  | .recoverExit d => d.wf
  | .recoverCopy d => d.wf
  | .allocCreate d => d.wf
  | .allocFree d => d.wf
  | .manifestCreate d => d.wf
  | .manifestDestroy d => d.wf
  | .manifestQuery d => d.wf
  | .memErase d => d.wf
  | .memRetirePage d => d.wf
  | .memRetireList d => d.wf
  | .logClear d => d.wf
  | .traceConfig d => d.wf
  | .telemetry d => d.wf
  | .inject d => d.wf
  | .attest d => d.wf
  | .debugChallenge d => d.wf
  | .debugUnlock d => d.wf
  | .rollbackAdvance f => f.desc.wf
  | .mbCmdDoorbell _ _ es => decide (es.length ≤ 4096) && es.all fun e => e.elim true RingEntry.wf
  | .mbEnable _ v => bitOf v.toNat 31
  | .mbDisable _ v => !bitOf v.toNat 31
  | .rcRead o w => accessWf o w 0
  | .summaryClear o w v => accessWf o w v && ((decide (0x40 ≤ o) && decide (o < 0x58)) || (decide (0x1000 ≤ o) && decide (o < 0x1430)))
  | .registerWrite o w v => accessWf o w v || configWf o w v
  | .bar2Request a => a.wf
  | _ => true

/-- Whether a command's operands can occur. -/
def Instr.wf (i : Instr) : Bool := operandsWf i && wordsWf i

end Sys2Proof
end

