-- ==== Sys2Proof/Safety.lean ====
section
/-! DEFINITION. The terms in which claims speak: the canonical form of memory, a strand that may issue, an operation put in flight, a mailbox that takes
a command at once. -/

namespace Sys2Proof.Safety

open Sys2Proof.Machine

/-- Local memory is in its canonical form. -/
def MemWf (s : State) : Prop := Memory.wf s.mem = true

/-- The sequencer issues for a strand at the present boundary: the device is RUNNING, issue is not stopped, the strand is READY (R56, R138). -/
def Ready (s : State) (st : StrandRef) : Prop :=
  s.dev.state = .running ∧ s.stoppedAt s.boundary = false ∧ (s.strand st.key).status = .ready

/-- No register that an instruction reads is the destination of an outstanding operation (R140). -/
def CanRead (s : State) (st : StrandRef) (regs : List Nat) : Prop := ∀ r ∈ regs, (s.strand st.key).isPending r = false

/-- The completion tag that an instruction counts on has room (R141). -/
def TagRoom (s : State) (st : StrandRef) (w : Word0) : Prop := w.tagEn = true → (s.strand st.key).tag w.tag.toNat < 255

/-- A strand goes on past an instruction of `words` words with `v` written to register `r` (R135, R138). -/
def WritesReg (s : State) (st : StrandRef) (r : Nat) (v : W64) (words : Nat) : State :=
  s.setStrand st.key (((s.strand st.key).setX r v).past words)

/-- A strand goes on past an instruction of one word that writes no register. -/
def Passes (s : State) (st : StrandRef) : State := s.setStrand st.key ((s.strand st.key).past 1)

/-- `t` is `s` with the operation `o` put in flight by an instruction of `words` words: the strand goes past it, and no other strand, no byte of memory, no
accumulator and no feed has changed (R34, R138). -/
def PutInFlight (s t : State) (st : StrandRef) (words : Nat) (o : InFlight) : Prop :=
  t.ops = s.ops ++ [o] ∧ o.strand = st.key ∧ o.core = st.core.val ∧ o.pc = (s.strand st.key).pc.toNat ∧ o.issue = s.boundary ∧
    (t.strand st.key).status = .ready ∧ (t.strand st.key).pc = (s.strand st.key).pc + BitVec.ofNat 15 words ∧
    (∀ k, k ≠ st.key → t.strand k = s.strand k) ∧ t.mem = s.mem ∧ t.acc = s.acc ∧ t.feed = s.feed ∧ t.signals = s.signals ∧ t.dev = s.dev ∧
    t.plan = s.plan

/-- An operation has been put in an easel's waiting slot or has started, by an instruction of `words` words (R83): it starts now, from the state `b` that its
inputs leave, where the units that it holds are free and `ready` is true, and holds them to its visibility boundary; else it keeps its operands in the slot and
samples nothing. `ps` is its rated duration, `effects` what it does when it starts now. -/
def Slotted (s b t : State) (st : StrandRef) (words : Nat) (w : Word0) (e : Engine) (l : LateStart) (units : List HeldUnit) (ready : Prop) (ps : Nat)
    (effects : List Effect) : Prop :=
  ∃ o, o.engine = e ∧ o.tag = w.tagOf ∧ o.holds = units ∧ o.vis = s.visibleAt o.start ps ∧
    (ready ∧ (∀ u ∈ units, s.freeFrom u ≤ s.boundary) →
      PutInFlight b t st words o ∧ o.start = s.boundary ∧ o.later = none ∧ o.effects = effects ∧ ∀ u ∈ units, t.freeFrom u = o.vis) ∧
    (¬ (ready ∧ ∀ u ∈ units, s.freeFrom u ≤ s.boundary) →
      PutInFlight s t st words o ∧ s.boundary + s.period ≤ o.start ∧ (∀ u ∈ units, s.freeFrom u ≤ o.start) ∧ o.later = some l ∧ o.effects = [] ∧
        ∀ u, t.freeFrom u = s.freeFrom u)

/-- An EOP with fields `p` has been put in flight: it becomes visible 16 + K steps after its start and holds the easels and banks of its mask until
then (R81–R85). -/
def EopInFlight (s t : State) (st : StrandRef) (w : Word0) (p : EopArgs) (words : Nat) : Prop :=
  let core := st.core.val
  let x := s.eopStart st.key (s.strand st.key).pc.toNat p
  Slotted s x.s t st words w .easel (.eop p) ((maskEasels p.mask).flatMap fun e => [.easel (easelNo core e), .bank (bankNo core e p.bank)]) True
    ((16 + p.k) * s.stepPs) x.effects

/-- A transfer whose work `x` is done is put in flight by command `c`, wherever it keeps the rules of sum windows (R210) and its core has a share of every half
that it needs (R228): rated by its sides, visible at the end of its rating, with the effects of its work and `more` (R35, R196); `parity` is an injection's.
`src`: the steps of a source side that adds its queues' ratings to its own (a DFEED's). -/
def Transfers (c : Instr) (s : State) (st : StrandRef) (words : Nat) (tag : Option Nat) (e : Engine) (x : State × Work) (steps extra : Nat)
    (clips : Bool) (more : List Effect) (src : Option Nat := none) : Prop :=
  x.2.sumBad = false → ∀ r, x.1.rate x.1.nextOp st.core.val x.1.boundary steps extra x.2.readUses x.2.writeUses src = some r →
    ∃ t o parity, exec c s = .next t ∧ PutInFlight x.1 t st words o ∧ o.engine = e ∧ o.tag = tag ∧ o.start = x.1.boundary ∧
      o.vis = x.1.visibleAt x.1.boundary r.1 ∧ o.later = none ∧
      o.effects = (x.2.struck parity).effects st.key (x.1.strand st.key).pc.toNat clips ++ more ++ parity ∧ (x.1.armed 1 st.core.val = false → parity = [])

/-- A work and its state with the lines that its rating reads. -/
def withLines (x : State × Work) (lines : List Nat) : State × Work := (x.1, { x.2 with rLines := lines })

/-- A vector-class operation is put in flight by command `c` on what its issue leaves, `b`, wherever it keeps the rules of sum windows: behind the unit's previous
operation, and behind the palette where it converts; it keeps its operands until it starts. It takes its rating in steps, or that of a sum window which it writes
into (R210), and `ps` beside, a rating of memory (R34, R74, R142). -/
def VectorIssues (c : Instr) (s b : State) (st : StrandRef) (a : VecArgs) (l : VecLaunch) (ps : Nat) : Prop :=
  let x := b.vectorEffects st.key (b.strand st.key).pc.toNat l.opcode a
  x.2.2.sumBad = false →
    ∃ t o, exec c s = .next t ∧ o.engine = .vector ∧ o.tag = a.w.tagOf ∧ o.start = b.vecStart st.core.val l.pal ∧
      o.vis = b.visibleAt o.start (x.2.2.withSums x.1 l.steps * b.stepPs + ps) ∧ Tab.get 0 t.vectorFree st.core.val = o.vis ∧
      (∀ r, r ∈ o.regs ↔ r ∈ l.regs ∧ r ≠ 0) ∧
      (o.start = b.boundary → o.later = none ∧ o.effects = x.2.1 ∧ PutInFlight x.1 t st l.words o) ∧
      (o.start ≠ b.boundary → o.later = some (.vector l.opcode a) ∧ o.effects = [] ∧ PutInFlight b t st l.words o)

/-- Nothing follows a command by itself: no ring entry is held, and no QUAY_TRAIN or RECOVER_COPY runs (R369, R373). -/
def Quiet (s : State) : Prop := s.host.held = [] ∧ s.running 0x12 = false ∧ s.running 0x27 = false

/-- `t` is `s` with one more cell queued on a flow, complete at the issue boundary and under the flow's next sequence number; the other flows are unchanged
(R263, R264). -/
def Queues (s t : State) (flow kind flags addr : Nat) (arg : W64) (payload : List Byte) : Prop :=
  (t.flow flow).queue = (s.flow flow).queue ++ [{ cell := s.cellOf (s.flow flow) kind flags addr arg payload, ready := s.boundary * 1000, issued := s.now }] ∧
    (t.flow flow).seq = ((s.flow flow).seq + 1) % 2 ^ 32 ∧ ∀ k, k ≠ flow → t.flow k = s.flow k

/-- The fabric issue port of a strand's core has room (R142). -/
def PortRoom (s : State) (st : StrandRef) : Prop := s.outstanding st.core.val .fabric < 32

/-- A mailbox takes a command at once: it is served and has room for the reply, nothing waits in its ring, no L command of its own runs, and no injection is armed
on the harbourmaster's private SRAM (R369, R372, R373). -/
def Takes (s : State) (d : Desc) : Prop :=
  s.linked = true ∧ s.serving = true ∧ s.mbEnabled d.mb = true ∧ s.mbStopped d.mb = false ∧ s.mbRoom d.mb = true ∧ s.cmdHead d.mb = s.cmdDb d.mb ∧
    s.host.held = [] ∧ s.armed 0x1C 0 = false ∧ s.armed 0x1D 0 = false ∧ ∀ r, s.host.busy = some r → r.mb ≠ d.mb

/-- What taking a command leaves: its doorbell and CMD_HEAD have advanced by one, and its mailbox is the one last served (R369, R372). -/
def taken (s : State) (d : Desc) : State :=
  let u := s.setFld (.mbCmdDb d.mb) 15 0 ((s.cmdDb d.mb + 1) % 65536)
  let u := u.setFld (.mbStatus d.mb) 63 48 (s.cmdHead d.mb + 1)
  { u with host := { u.host with lastServed := d.mb.val } }

/-- A command is taken, its descriptor is well formed with a payload of `size` bytes, and the device's state is one of `legal` (rows 3 to 5 and 7 of R376). -/
def Accepts (s : State) (d : Desc) (size legal : Nat) : Prop :=
  Takes s d ∧ d.badBits = false ∧ d.payloadLen = size ∧ (if d.isIndirect then d.payload.isSome = true else size ≤ 40) ∧
    bitOf legal s.dev.state.code = true

/-- A protocol version is fixed that defines the command, and the boot ROM's states are over (rows 1, 2 and 7 of R376, R404). -/
def Speaks (s : State) (v3 : Bool) : Prop :=
  s.host.proto ≠ 0 ∧ (v3 = true → s.host.proto ≠ 2) ∧ (s.dev.state = .fault → s.dev.faultFrom ≠ .boot ∧ s.dev.faultFrom ≠ .verify)

/-- An S or L command passes the checks of R376 up to its own payload and results. -/
def Accepted (s : State) (d : Desc) (size legal : Nat) (v3 : Bool) : Prop := Accepts s d size legal ∧ Speaks s v3 ∧ s.host.busy = none

/-- The reply buffer holds `n` bytes where they do not fit the entry (row 9 of R376). -/
def Holds (d : Desc) (n : Nat) : Prop := 48 < n → n ≤ d.replyLen ∧ d.replyAddr ≠ 0

/-- A Q command passes the checks of R376 up to its own payload and results, and no running L command ends by itself. -/
def Queried (s : State) (d : Desc) (size legal : Nat) (v3 : Bool) (n : Nat) : Prop :=
  Accepts s d size legal ∧ Speaks s v3 ∧ s.running 0x12 = false ∧ s.running 0x27 = false ∧ Holds d n

/-- A command is DONE: it leaves `t` and replies with `data`. -/
def Done (c : Instr) (s : State) (d : Desc) (opcode : Nat) (t : State) (data : List Byte) : Prop := exec c s = .next (t.reply d opcode 0 data)

/-- A long command goes on: it leaves `t`, with BUSY set for it. -/
def GoesOn (c : Instr) (s : State) (d : Desc) (opcode : Nat) (t : State) : Prop :=
  exec c s = .next { t with host := { t.host with busy := some { opcode := opcode, mb := d.mb, tag := d.tag, desc := d, cut := false } } }

/-- The descriptor, opcode and image of the row of a pilot command (R377). -/
def pilotRow : Instr → Option (Desc × Nat × HostImage)
  | .hello d => some (d, 0x01, { scatter := none, bytes := none })
  | .identify d => some (d, 0x02, { scatter := none, bytes := none })
  | .status d => some (d, 0x03, { scatter := none, bytes := none })
  | .chartRead d => some (d, 0x04, { scatter := none, bytes := none })
  | .chartWrite d => some (d, 0x05, { scatter := none, bytes := none })
  | .chartSelect d => some (d, 0x06, { scatter := none, bytes := none })
  | .resetPlan d => some (d, 0x07, { scatter := none, bytes := none })
  | .resetWarm d => some (d, 0x07, { scatter := none, bytes := none })
  | .resetCold d => some (d, 0x07, { scatter := none, bytes := none })
  | .tideSet d => some (d, 0x10, { scatter := none, bytes := none })
  | .fabricConfig d => some (d, 0x11, { scatter := none, bytes := none })
  | .quayTrain d => some (d, 0x12, { scatter := none, bytes := none })
  | .planUnload d => some (d, 0x21, { scatter := none, bytes := none })
  | .run d => some (d, 0x22, { scatter := none, bytes := none })
  | .hold d => some (d, 0x23, { scatter := none, bytes := none })
  | .drain d => some (d, 0x24, { scatter := none, bytes := none })
  | .recoverEnter d => some (d, 0x25, { scatter := none, bytes := none })
  | .recoverExit d => some (d, 0x26, { scatter := none, bytes := none })
  | .recoverCopy d => some (d, 0x27, { scatter := none, bytes := none })
  | .allocCreate d => some (d, 0x30, { scatter := none, bytes := none })
  | .allocFree d => some (d, 0x31, { scatter := none, bytes := none })
  | .manifestCreate d => some (d, 0x32, { scatter := none, bytes := none })
  | .manifestDestroy d => some (d, 0x33, { scatter := none, bytes := none })
  | .manifestQuery d => some (d, 0x34, { scatter := none, bytes := none })
  | .memErase d => some (d, 0x38, { scatter := none, bytes := none })
  | .memRetirePage d => some (d, 0x39, { scatter := none, bytes := none })
  | .memRetireList d => some (d, 0x3A, { scatter := none, bytes := none })
  | .logSetRing d => some (d, 0x40, { scatter := none, bytes := none })
  | .logReadPins d => some (d, 0x40, { scatter := none, bytes := none })
  | .logClear d => some (d, 0x41, { scatter := none, bytes := none })
  | .traceConfig d => some (d, 0x42, { scatter := none, bytes := none })
  | .telemetry d => some (d, 0x43, { scatter := none, bytes := none })
  | .inject d => some (d, 0x50, { scatter := none, bytes := none })
  | .attest d => some (d, 0x51, { scatter := none, bytes := none })
  | .debugChallenge d => some (d, 0x52, { scatter := none, bytes := none })
  | .debugUnlock d => some (d, 0x53, { scatter := none, bytes := none })
  | .rollbackAdvance f => some (f.desc, 0x54, { scatter := none, bytes := none })
  | .planLoad d image => some (d, 0x20, image)
  | _ => none

/-- The strand whose instruction a row is; `none` for a command that is no strand instruction. -/
def strandOf : Instr → Option StrandRef
  | .nop st _ => some st
  | .add st _ => some st
  | .sub st _ => some st
  | .and st _ => some st
  | .or st _ => some st
  | .xor st _ => some st
  | .shl st _ => some st
  | .shr st _ => some st
  | .sra st _ => some st
  | .mul st _ => some st
  | .mins st _ => some st
  | .maxs st _ => some st
  | .slt st _ => some st
  | .sltu st _ => some st
  | .li st _ => some st
  | .li64 st _ _ => some st
  | .sysrd st _ => some st
  | .ld st _ => some st
  | .st st _ => some st
  | .jmp st _ => some st
  | .beqz st _ => some st
  | .bnez st _ => some st
  | .blt st _ => some st
  | .spawn st _ => some st
  | .endStrand st _ => some st
  | .waitt st _ => some st
  | .twait st _ => some st
  | .eop st _ _ _ => some st
  | .accrd st _ => some st
  | .accwr st _ => some st
  | .vst st _ _ => some st
  | .pcvt st _ _ => some st
  | .sketch st _ _ _ => some st
  | .vew st _ _ => some st
  | .vred st _ _ => some st
  | .upd st _ _ _ => some st
  | .mevo st _ _ _ => some st
  | .rng st _ _ => some st
  | .vfin st _ _ => some st
  | .crc st _ _ => some st
  | .dcopy st _ _ => some st
  | .dfeed st _ _ _ => some st
  | .dset st _ _ => some st
  | .fst st _ _ => some st
  | .fld st _ _ => some st
  | .fatom st _ _ => some st
  | .fsig st _ => some st
  | .fpush st _ => some st
  | .rcontrib st _ _ => some st
  | .rmerge st _ _ => some st
  | .bpush st _ => some st
  | .bpop st _ => some st
  | .btry st _ => some st
  | .bcount st _ => some st
  | .lenter st _ => some st
  | .larrive st _ => some st
  | .lwait st _ => some st
  | .sigadd st _ => some st
  | .sigwait st _ => some st
  | .fence st _ => some st
  | .mma st _ => some st
  | .ldf st _ _ => some st
  | .sta st _ => some st
  | .cvt st _ => some st
  | .cpy st _ => some st
  | .vop st _ => some st
  | .bar st _ => some st
  | .qpush st _ => some st
  | .qpop st _ => some st
  | .swt st _ => some st
  | .rst st _ _ => some st
  | .rsig st _ => some st
  | .fen st _ => some st
  | _ => none

end Sys2Proof.Safety
end

