-- ==== Sys2Proof/Certificates/Slice0/Obligations.lean ====
section
/-! DEFINITION. The statements about the module for the provers. -/

open Sys2Proof Sys2Proof.Machine Sys2Proof.Safety

/-- The command at the front of the queue takes effect on the state with the queue's rest; a block with no command waiting idles (log entry 8, the model's
choice). -/
def Obligations.StepTakesFront : Prop :=
  (∀ (c : Instr) (rest : List Instr) (s : State), s.pending = c :: rest → step s = exec c { s with pending := rest }) ∧
  ∀ s : State, s.pending = [] → step s = .next s

/-- R400, R404–R406, R495: the module right after reset is in OFF; every register reads its Reset column, with the values written out here for the ones
that are not zero; no plan, strand, operation, open record or alarm exists; memory lists nothing. -/
def Obligations.ResetValues : Prop :=
  let s := State.reset
  s.dev.state = .off ∧ (∀ r : Reg, s.reg r = r.reset) ∧
  s.reg .hmCauseEn = 0x3FFF ∧ s.reg .stepFlags = 3 ∧ s.reg .lossScale = 0x07D01118F2000010 ∧ s.reg .fabricCauseEn = 0x3F ∧ s.reg .commitCauseEn = 0x7E ∧
  s.reg .stepNumber = 0 ∧ s.reg .detStatus = 0 ∧ s.reg .stopCause = 0 ∧ s.reg .winBase = 0 ∧
  (∀ mb : Fin 4, s.reg (.mbCfg mb) = 4 ∧ s.mbEnabled mb = false) ∧
  (∀ h : Half, s.reg (.memCauseEn h) = 0x1FE ∧ s.reg (.redStepStatus h) = 3 ∧ s.reg (.redCauseEn h) = 0xED) ∧
  (∀ q : Fin 48, s.reg (.quayCauseEn q) = 0x39 ∧ s.reg (.quayStatus q) = 0) ∧
  (∀ c : Fin 128, s.reg (.palCauseEn c) = 8 ∧ s.reg (.easelCauseEn c) = 7 ∧ s.reg (.sparseCauseEn c) = 0xDD ∧ s.reg (.seqCauseEn c) = 0x7F ∧
    s.reg (.dmaCauseEn c) = 0xF ∧ s.reg (.padCauseEn c) = 5 ∧ ∀ l : Fin 64, s.reg (.lockSideband c l) = 0xFFFFFFFF) ∧
  (∀ c : Fin 136, s.reg (.cvuCauseEn c) = 1) ∧
  s.plan = none ∧ s.strands = [] ∧ s.ops = [] ∧ s.manifests = [] ∧ s.log.open_ = [] ∧ s.log.alarms = [] ∧ s.mem = [] ∧ s.pending = []

/-- Local memory of the module right after reset is in its canonical form. -/
def Obligations.MemoryCanonicalReset : Prop :=
  MemWf State.reset

/-- R21: every step keeps local memory in its canonical form: addresses strictly rising, and no entry equal to what an unlisted address reads as. -/
def Obligations.MemoryCanonicalKept : Prop :=
  ∀ s t : State, MemWf s → step s = .next t → MemWf t

/-- R144, R146, R147, R486: the decoder reads the words of every well-formed instruction of SSI-2 and SSI-1 back as that instruction, every register
field, tag and immediate included. -/
def Obligations.InstructionWordsRoundTrip : Prop :=
  ∀ (i : Instr) (ws : List W64) (st : StrandRef), i.wf = true → encodeSsi i = some ws → strandOf i = some st →
    let op := opcodeOf (ws.getD 0 0)
    wordsOf (ws.getD 0 0) = ws.length ∧
    ∀ isa1 : Bool, (op < 0x20 ∨ isa1 = decide (0x80 ≤ op)) → decodeSsi isa1 st (ws.getD 0 0) (ws.getD 1 0) (ws.getD 2 0) = some i

/-- R35: the boundary at which an operation becomes visible is the first at or after the end of its rated duration, counted in strokes from its start.
R33: the instants that are stroke boundaries are those whose count is a multiple of the stroke period and whose fraction is zero, the same on every
chip with that period; the boundary of the present instant is the first that is not before it. -/
def Obligations.VisibilityBoundaries : Prop :=
  (
  ∀ (s : State) (start ps : Nat), 0 < s.period →
    ∃ k, s.visibleAt start ps = start + s.period * k ∧ ps ≤ 1000 * s.period * k ∧ ∀ j, ps ≤ 1000 * s.period * j → k ≤ j) ∧
  (
  (∀ s : State, s.tide.running = true → 0 < s.period → (s.atBoundary = true ↔ (∃ k, s.tide.count = k * s.period) ∧ s.tide.frac = 0)) ∧
  (∀ s t : State, s.tide.running = t.tide.running → s.tide.count = t.tide.count → s.tide.frac = t.tide.frac → s.period = t.period →
    s.atBoundary = t.atBoundary) ∧
  ∀ s : State, 0 < s.period →
    (∃ k, s.boundary = k * s.period) ∧ s.tide.count + (if s.tide.frac = 0 then 0 else 1) ≤ s.boundary ∧
    s.boundary < s.tide.count + (if s.tide.frac = 0 then 0 else 1) + s.period)

/-- R436, R439, R443: raising a cause sets its cause bit, puts the open records whose 100 µs have passed into the logbook, opens a log record that counts its
occurrences or adds them to the record of its key that is still open, and delivers an alarm to the alarm table; strands, memory, operations, the device state and every other register but the LOST counter stay as they were.
R55, R56, R401: a slip cause is recorded and raised as an alarm; in RUNNING, where the chip does not already stop, issue stops from the boundary after
the present one, and STOP_TIDE holds the present one.
R400, R421: a change of the device state sets STATE_CHANGE and logs the old state, the new state, the cause and the tide; after a thermal trip the
state stays as it is. -/
def Obligations.RecordsAndStops : Prop :=
  (
  ∀ (s : State) (e : Event) (r : Reg) (b : Nat), e.bit = some (r.offset, b) → b < 64 → r.reset = 0 →
    let t := s.raise e
    let still := s.log.open_.filter fun x => !decide (x.first + 100000 ≤ s.now)
    let past := s.log.open_.filter fun x => decide (x.first + 100000 ≤ s.now)
    (∀ x, still.find? e.sameKey = some x → t.log.open_ = still.map fun r =>
      if e.sameKey r then { r with last := s.now, count := min 0xFFFFFFFF (r.count + e.times) } else r) ∧
    (still.find? e.sameKey = none → still.length < 2048 → ∃ x, t.log.open_ = still ++ [x] ∧ x.cause = e.cause ∧ x.source = e.source ∧
      x.line = e.line ∧ x.count = min 0xFFFFFFFF e.times ∧ x.first = s.now ∧ x.last = s.now ∧ x.alarm = e.alarm ∧ x.payload = (payloadOf e.items e.structNo).1) ∧
    (still.find? e.sameKey = none → 2048 ≤ still.length → t.log.open_ = still ∧ (past = [] → r.offset ≠ (Reg.ringLost 0).offset →
      t.fld (.ringLost 0) 63 0 = min (2 ^ 64 - 1) (s.fld (.ringLost 0) 63 0 + e.times))) ∧
    t.log.nextSeq = s.log.nextSeq + past.length ∧ (past = [] → t.log.ring = s.log.ring) ∧
    (e.alarm = true → ∃ a ∈ t.log.alarms, a.cause = e.cause) ∧ (e.alarm = false → t.log.alarms = s.log.alarms) ∧
    (r.offset ≠ (Reg.ringLost 0).offset → t.reg r = s.reg r ||| (1#64 <<< b)) ∧
    (∀ x : Reg, x.offset ≠ r.offset → x.offset ≠ (Reg.ringLost 0).offset → t.reg x = s.reg x) ∧
    t.strands = s.strands ∧ t.mem = s.mem ∧ t.ops = s.ops ∧ t.dev = s.dev ∧ t.run = s.run ∧ t.host = s.host ∧ t.plan = s.plan ∧ t.fab = s.fab) ∧
  (
  ∀ (s : State) (bit source : Nat) (items : List Nat) (inj : Bool), bit < 64 →
    let t := s.slip bit source items inj
    t.reg .stopCause = s.reg .stopCause ||| (1#64 <<< bit) ∧
    (∃ r ∈ t.log.alarms, r.cause = unitCode 12 bit) ∧
    (s.dev.state = .running → (s.run.stopFrom = none ∨ s.run.resumeAt ≠ none) →
      t.run.stopFrom = some (s.boundary + s.period) ∧ t.run.resumeAt = none ∧ t.run.stopCode = unitCode 12 bit ∧
      t.reg .stopTide = BitVec.ofNat 64 s.boundary) ∧
    ((s.dev.state ≠ .running ∨ (s.run.stopFrom ≠ none ∧ s.run.resumeAt = none)) →
      t.run = s.run ∧ t.reg .stopTide = s.reg .stopTide ∧ t.reg .stopSched = s.reg .stopSched) ∧
    t.dev = s.dev ∧ t.strands = s.strands ∧ t.mem = s.mem ∧ t.ops = s.ops ∧ t.host = s.host) ∧
  (
  ∀ (s : State) (d : DevState) (cause : Nat),
    let t := s.enter d cause
    (s.tripped = true → t = s) ∧
    (s.tripped = false → t.dev = { s.dev with state := d } ∧ t.fld .hmCause 8 8 = 1 ∧
      ((∀ x, x ∈ s.log.open_ → (causeEvent 13 .hmCause 8 srcHm [s.dev.state.code, d.code, cause, s.now]).sameKey x = false) ∧ s.log.open_.length < 2048 →
        ∃ x ∈ t.log.open_, x.payload = (payloadOf [s.dev.state.code, d.code, cause, s.now] 0).1)))

/-- R34, R35, R140, R141: what an instruction does that puts an operation in flight. The operation notes its strand, PC, boundaries and destinations; the
strand goes past the instruction, its tag counts one more and its destinations are pending; an operation that starts now asks for its slots in the banks that it reaches
(which slots is the model's choice, log entry 71); nothing else of the module changes but the trace and the injection that was armed.
R138, R147: a strand that the sequencer does not issue executes nothing: no row of SSI-2 or SSI-1 changes the state.
R140, R141, R143: a strand that must wait is WAITING at its instruction, and nothing else changes; a condition that does not hold makes it wait with its schedule
noted, a register read while it is pending and a tag without room hold it before its schedule runs. The tide for which a WAITT waits is the model's
where a resume has moved the schedule (log entry 75).
R153: a fault at issue makes the context FAULTED with FAULT_CAUSE and PC, records the core's first fault in SEQ_FAULT and sets STRAND_FAULT; other
strands, memory and the operations in flight stay as they were. -/
def Obligations.IssueOutcomes : Prop :=
  (
  ∀ (s : State) (key : Nat) (l : Launch), (∀ r ∈ l.regs, r < 32) →
    let t := (s.launch key l).s
    (∃ o : InFlight, t.ops = s.ops ++ [o] ∧ o.id = s.nextOp ∧ o.strand = key ∧ o.core = coreOf key ∧ o.pc = (s.strand key).pc.toNat ∧
      o.engine = l.engine ∧ o.kind = kindOf l.kind l.effects ∧ o.holds = l.holds ∧ o.tag = l.tag ∧ o.issue = s.boundary ∧ o.start = l.start ∧ o.vis = l.vis ∧ o.effects = l.effects ∧
      o.later = l.later ∧ o.remote = l.remote ∧ (∀ r, r ∈ o.regs ↔ r ∈ l.regs ∧ r ≠ 0) ∧ o.late = s.armed 0x17 (coreOf key)) ∧
    t.nextOp = s.nextOp + 1 ∧
    (t.strand key).status = .ready ∧ (t.strand key).pc = (s.strand key).pc + BitVec.ofNat 15 l.words ∧
    (∀ r, (t.strand key).x r = (s.strand key).x r) ∧
    (∀ g, (t.strand key).tag g = (s.strand key).tag g + if l.tag = some g then 1 else 0) ∧
    (∀ r < 32, (t.strand key).isPending r = ((s.strand key).isPending r || (decide (r ≠ 0) && decide (r ∈ l.regs)))) ∧
    (∀ k, k ≠ key → t.strand k = s.strand k) ∧
    t.mem = s.mem ∧ t.poison = s.poison ∧ t.acc = s.acc ∧ t.feed = s.feed ∧ t.signals = s.signals ∧ t.lockx = s.lockx ∧ t.fab = s.fab ∧
    t.red = s.red ∧ t.com = s.com ∧ t.dev = s.dev ∧ t.tide = s.tide ∧ t.run = s.run ∧ t.main = s.main ∧ t.host = s.host ∧
    t.onDie = { s.onDie with reqs := t.onDie.reqs } ∧ (∃ new, t.onDie.reqs = s.onDie.reqs ++ new ∧ (l.later.isSome = true → new = [])) ∧ t.easelFree = s.easelFree ∧ t.bankFree = s.bankFree ∧ t.pipeFree = s.pipeFree ∧ t.varnishFree = s.varnishFree ∧ t.vectorFree = s.vectorFree ∧
    t.log.ring = s.log.ring ∧ t.log.open_ = s.log.open_ ∧ t.log.alarms = s.log.alarms ∧ t.freeCtr = s.freeCtr ∧
    (∀ r : Reg, r.offset ≠ 0x3080 → r.offset ≠ Reg.hmCause.offset → t.reg r = s.reg r)) ∧
  (
  ∀ (s : State) (i : Instr) (st : StrandRef) (ws : List W64), encodeSsi i = some ws → strandOf i = some st → ¬ Ready s st → exec i s = .next s) ∧
  (
  ∀ (s : State) (st : StrandRef) (w : Word0), Ready s st → (s.strand st.key).wait = none → s.armed 0x18 st.core.val = false →
    let x := s.strand st.key
    let waiting (kind : WaitKind) (sched due : Nat) := s.setStrand st.key
      { x with status := .waiting, wait := some { kind := kind, since := s.boundary, sched := sched, late := false, due := due } }
    let waits (sched : Nat) := waiting .retry sched (if sched = 0 then 0 else s.boundary + s.period * sched)
    let target := s.movedTide ((x.x w.b).toNat + w.f 15 0)
    ((s.strand st.key).isPending w.b = true →
      exec (.add st w) s = .next (waits 0) ∧ exec (.ld st w) s = .next (waits 0) ∧ exec (.blt st w) s = .next (waits 0) ∧
      exec (.spawn st w) s = .next (waits 0) ∧ exec (.waitt st w) s = .next (waits 0) ∧ exec (.bpush st w) s = .next (waits 0) ∧ exec (.lenter st w) s = .next (waits 0)) ∧
    (CanRead s st [w.b, w.c] → 255 ≤ x.tag w.tag.toNat → w.tagEn = true →
      exec (.add st w) s = .next (waits 0) ∧ exec (.waitt st w) s = .next (waits 0) ∧ exec (.twait st w) s = .next (waits 0) ∧
      exec (.endStrand st w) s = .next (waits 0).attend) ∧
    (TagRoom s st w →
      (CanRead s st [w.b] → s.boundary < target → exec (.waitt st w) s = .next (waiting .retry (w.f 28 16) target)) ∧
      (s.run.shifts = [] → target = (x.x w.b).toNat + w.f 15 0) ∧
      (∀ g < 16, w.imm.getLsbD g = true → x.tag g ≠ 0 → exec (.twait st w) s = .next (waits (w.f 28 16))) ∧
      (∀ o ∈ s.ops, o.strand = st.key → w.f 1 0 ≠ 3 → ∃ t, exec (.fence st w) s = .next t ∧ t.mem = s.mem ∧ t.ops = s.ops ∧ (t.strand st.key).status = .waiting ∧
        (t.strand st.key).pc = x.pc ∧
        (t.strand st.key).wait =
          some { kind := .fenced s.nextOp, since := s.boundary, sched := w.f 28 16, late := false, due := if w.f 28 16 = 0 then 0 else s.boundary + s.period * w.f 28 16 }))) ∧
  (
  ∀ (s : State) (st : StrandRef) (pc code : Nat) (items : List Nat), code < 256 → code ≠ 0x16 →
    let t := s.strandFault st.key pc code items
    (t.strand st.key).status = .faulted ∧ (t.strand st.key).pc = BitVec.ofNat 15 pc ∧ (t.strand st.key).fault.toNat = code ∧
    (∀ r, (t.strand st.key).x r = (s.strand st.key).x r) ∧ (∀ k, k ≠ st.key → t.strand k = s.strand k) ∧
    t.fld (.seqCause st.core) 0 0 = 1 ∧
    (s.fld (.seqFault st.core) 63 63 = 1 → t.reg (.seqFault st.core) = s.reg (.seqFault st.core)) ∧
    (s.fld (.seqFault st.core) 63 63 = 0 → t.fld (.seqFault st.core) 63 63 = 1 ∧ t.fld (.seqFault st.core) 33 23 = st.ctx.val ∧
      t.fld (.seqFault st.core) 22 15 = code ∧ t.fld (.seqFault st.core) 14 0 = pc % 2 ^ 15) ∧
    t.mem = s.mem ∧ t.ops = s.ops ∧ t.signals = s.signals ∧ t.lockx = s.lockx ∧ t.fab = s.fab ∧ t.dev = s.dev ∧ t.run = s.run)

/-- R147, R149: the scalar arithmetic and logic of SSI-2, complete within their issue group; x0 discards a write (R135).
R147, R150: constants and system values.
R136, R139, R147: a branch that is taken ends the group at its target, the first word of an instruction, and faults with PC_RANGE elsewhere; one that
is not taken goes on with the next word. -/
def Obligations.ScalarAndBranchResults : Prop :=
  (
  ∀ (s : State) (st : StrandRef) (w : Word0), Ready s st → CanRead s st [w.b, w.c] → TagRoom s st w →
    let b := (s.strand st.key).x w.b
    let c := (s.strand st.key).x w.c
    exec (.add st w) s = .next (WritesReg s st w.a (b + c + w.imm.signExtend 64) 1) ∧
    exec (.sub st w) s = .next (WritesReg s st w.a (b - c + w.imm.signExtend 64) 1) ∧
    exec (.and st w) s = .next (WritesReg s st w.a (b &&& (c ||| w.imm.zeroExtend 64)) 1) ∧
    exec (.or st w) s = .next (WritesReg s st w.a (b ||| c ||| w.imm.zeroExtend 64) 1) ∧
    exec (.xor st w) s = .next (WritesReg s st w.a (b ^^^ c ^^^ w.imm.zeroExtend 64) 1) ∧
    exec (.shl st w) s = .next (WritesReg s st w.a (b <<< ((c.toNat + w.imm.toNat) % 64)) 1) ∧
    exec (.shr st w) s = .next (WritesReg s st w.a (b >>> ((c.toNat + w.imm.toNat) % 64)) 1) ∧
    exec (.sra st w) s = .next (WritesReg s st w.a (b.sshiftRight ((c.toNat + w.imm.toNat) % 64)) 1) ∧
    exec (.mul st w) s = .next (WritesReg s st w.a (BitVec.ofNat 64 (b.toNat * c.toNat)) 1) ∧
    exec (.mins st w) s = .next (WritesReg s st w.a (if b.toInt < c.toInt then b else c) 1) ∧
    exec (.maxs st w) s = .next (WritesReg s st w.a (if b.toInt < c.toInt then c else b) 1) ∧
    exec (.slt st w) s = .next (WritesReg s st w.a (if b.toInt < c.toInt then 1 else 0) 1) ∧
    exec (.sltu st w) s = .next (WritesReg s st w.a (if b.toNat < c.toNat then 1 else 0) 1)) ∧
  (
  ∀ (s : State) (st : StrandRef) (w : Word0) (w1 : W64), Ready s st → TagRoom s st w →
    exec (.li64 st w w1) s = .next (WritesReg s st w.a w1 2) ∧
    exec (.li st w) s = .next (WritesReg s st w.a (w.imm.signExtend 64) 1) ∧
    (w.f 3 0 = 0 → exec (.sysrd st w) s = .next (WritesReg s st w.a (BitVec.ofNat 64 s.boundary) 1)) ∧
    (w.f 3 0 = 1 → exec (.sysrd st w) s = .next (WritesReg s st w.a (BitVec.ofNat 64 st.core.val) 1)) ∧
    (w.f 3 0 = 2 → exec (.sysrd st w) s = .next (WritesReg s st w.a (BitVec.ofNat 64 st.ctx.val) 1)) ∧
    (w.f 3 0 = 3 → exec (.sysrd st w) s = .next (WritesReg s st w.a (BitVec.ofNat 64 (2 * s.perHalf)) 1)) ∧
    (w.f 3 0 = 4 → exec (.sysrd st w) s = .next (WritesReg s st w.a (s.reg .stepNumber) 1)) ∧
    (w.f 3 0 = 5 → exec (.sysrd st w) s = .next (WritesReg s st w.a (BitVec.ofNat 64 s.fab.chip) 1)) ∧
    (5 < w.f 3 0 → exec (.sysrd st w) s = .next (s.strandFault st.key (s.strand st.key).pc.toNat 0x01 []))) ∧
  (
  ∀ (s : State) (st : StrandRef) (w : Word0), Ready s st → TagRoom s st w →
    let b := (s.strand st.key).x w.b
    let c := (s.strand st.key).x w.c
    let target := w.f 14 0
    let go := s.setStrand st.key { (s.strand st.key).past 1 with pc := BitVec.ofNat 15 target }
    let taken := if s.codeMark st.core.val target then go else s.strandFault st.key (s.strand st.key).pc.toNat 0x02 []
    exec (.jmp st w) s = .next taken ∧
    (CanRead s st [w.b] → exec (.beqz st w) s = .next (if b = 0 then taken else Passes s st)) ∧
    (CanRead s st [w.b] → exec (.bnez st w) s = .next (if b = 0 then Passes s st else taken)) ∧
    (CanRead s st [w.b, w.c] → exec (.blt st w) s = .next (if b.toInt < c.toInt then taken else Passes s st)))

/-- R147, R152, R217: LD and ST reach the 8 bytes of the core's own pad at xB + sext(IMM), 5 steps on; beyond the pad they fault with PAD_RANGE. A load of
a poisoned code word also faults its strand, with DATA_POISON, at the visibility boundary. -/
def Obligations.PadLoadAndStore : Prop :=
  ∀ (s : State) (st : StrandRef) (w : Word0), Ready s st →
    let x := s.strand st.key
    let off := (x.x w.b + w.imm.signExtend 64).toNat
    let a := padBase st.core.val + off
    let l := s.sense a 8
    let v := BitVec.ofNat 64 (leNat (l.readBytes a 8))
    let poison : List Effect := if l.poisonedRange a 8 then [.fault st.key x.pc.toNat 0x16] else []
    (CanRead s st [w.b] → TagRoom s st w → off + 8 ≤ 0x200000 →
      exec (.ld st w) s = .next (l.launchSimple st.key 0x11 1 5 .scalar .plain w.tagOf [w.a] (.reg st.key w.a v :: poison) [(a, 8)]).s) ∧
    (CanRead s st [w.b, w.c] → TagRoom s st w → off + 8 ≤ 0x200000 →
      exec (.st st w) s =
        .next (s.launchSimple st.key 0x12 1 5 .scalar .localWrite w.tagOf [] [.mem a (leBytes 8 (x.x w.c).toNat)]).s) ∧
    (CanRead s st [w.b, w.c] → 0x200000 < off + 8 →
      exec (.ld st w) s = .next (s.strandFault st.key x.pc.toNat 0x03 []) ∧
      exec (.st st w) s = .next (s.strandFault st.key x.pc.toNat 0x03 []))

/-- R147, R155, R162: SIGADD adds xC to its counter 2 steps on; a counter number beyond 1,023 faults with BERTH_RANGE.
R143, R147, R141, R155, R162, R170, R486: NOP, and a wait whose condition holds at the boundary, go past the instruction; LWAIT also takes the side
band of its lock. -/
def Obligations.SignalsAndWaits : Prop :=
  (
  ∀ (s : State) (st : StrandRef) (w : Word0), Ready s st → CanRead s st [w.b, w.c] →
    let x := s.strand st.key
    let n := (x.x w.b + BitVec.ofNat 64 (w.f 9 0)).toNat
    (n < 1024 → TagRoom s st w → exec (.sigadd st w) s =
      .next (s.launchSimple st.key 0x5B 1 2 .signal .plain w.tagOf [] [.signal (1024 * st.core.val + n) (x.x w.c)]).s) ∧
    (1024 ≤ n → exec (.sigadd st w) s = .next (s.strandFault st.key x.pc.toNat 0x0C []) ∧
      exec (.sigwait st w) s = .next (s.strandFault st.key x.pc.toNat 0x0C []))) ∧
  (
  ∀ (s : State) (st : StrandRef) (w : Word0), Ready s st → TagRoom s st w →
    let x := (s.strand st.key)
    exec (.nop st w) s = .next (Passes s st) ∧
    (CanRead s st [w.b] → s.waittTarget w x ≤ s.boundary → exec (.waitt st w) s = .next (Passes s st)) ∧
    (s.run.shifts = [] → x.wait = none → s.waittTarget w x = (x.x w.b).toNat + w.f 15 0) ∧
    ((∀ t < 16, w.imm.getLsbD t = true → x.tag t = 0) →
      exec (.twait st w) s = .next (Passes s st)) ∧
    (CanRead s st [w.b, w.c] → (x.x w.b + BitVec.ofNat 64 (w.f 9 0)).toNat < 1024 →
      (x.x w.c).toNat ≤ (Tab.get 0 s.signals (1024 * st.core.val + (x.x w.b + BitVec.ofNat 64 (w.f 9 0)).toNat)).toNat →
      exec (.sigwait st w) s = .next (Passes s st) ∧ exec (.swt st w) s = .next (Passes s st)) ∧
    ((∀ o ∈ s.ops, o.strand ≠ st.key) → (w.f 1 0 = 0 ∨ w.f 1 0 = 2) →
      exec (.fence st w) s = .next (Passes s st) ∧ exec (.fen st w) s = .next (Passes s st)) ∧
    ((∀ o ∈ s.ops, o.strand ≠ st.key ∧ ¬(o.core = st.core.val ∧ o.id < s.fenceMark x ∧ o.writesOnDie = true)) → w.f 1 0 = 1 →
      exec (.fence st w) s = .next (Passes s st) ∧ exec (.fen st w) s = .next (Passes s st)) ∧
    (CanRead s st [w.b] → s.fld (.lockCfg st.core (Fin.ofNat 64 (w.f 5 0))) 63 48 ≠ 0 →
      (x.x w.b).toNat < s.fld (.lockState st.core (Fin.ofNat 64 (w.f 5 0))) 63 32 →
      exec (.lwait st w) s =
        .next (WritesReg s st w.a (s.reg (.lockSideband st.core (Fin.ofNat 64 (w.f 5 0)))) 1)))

/-- R137, R147, R155: SPAWN starts context xB of the core at its target, with x1 := xC, READY from the boundary 2 steps on. That its other registers keep
what the context holds is the model's reading (log entry 33). It faults on a number beyond the core's contexts, a target that begins no instruction,
and a context that is neither FREE nor DONE.
R137, R171, R400: END makes its context DONE and goes past it. While another context of the task is neither DONE nor FREE, the plan runs on; with the last one
the state is checked, whatever is still in flight, and the device enters LOADED. -/
def Obligations.SpawnAndEnd : Prop :=
  (
  ∀ (s : State) (st : StrandRef) (w : Word0), Ready s st → CanRead s st [w.b, w.c] →
    let x := s.strand st.key
    let n := (x.x w.b).toNat
    let target := w.f 14 0
    let child := 2048 * st.core.val + n
    let fault (code : Nat) := s.strandFault st.key x.pc.toNat code []
    (2048 ≤ n → exec (.spawn st w) s = .next (fault 0x01)) ∧
    (n < 2048 → s.codeMark st.core.val target = false → exec (.spawn st w) s = .next (fault 0x02)) ∧
    (n < 2048 → s.codeMark st.core.val target = true → (s.strand child).status ≠ .free → (s.strand child).status ≠ .done →
      exec (.spawn st w) s = .next (fault 0x0B)) ∧
    (n < 2048 → s.codeMark st.core.val target = true → ((s.strand child).status = .free ∨ (s.strand child).status = .done) → TagRoom s st w →
      ∃ t, exec (.spawn st w) s = .next t ∧ (t.strand child).status = .ready ∧ (t.strand child).pc = BitVec.ofNat 15 target ∧
        (t.strand child).x 1 = x.x w.c ∧ (∀ r, r ≠ 1 → (t.strand child).x r = (s.strand child).x r) ∧
        (t.strand child).notBefore = s.visibleAt s.boundary (2 * s.stepPs) ∧ (t.strand child).wait = none ∧
        (t.strand st.key).pc = x.pc + 1 ∧ (t.strand st.key).status = .ready ∧ t.ops.length = s.ops.length + 1 ∧
        (∀ k, k ≠ child → k ≠ st.key → t.strand k = s.strand k) ∧ t.mem = s.mem)) ∧
  (
  ∀ (s : State) (st : StrandRef) (w : Word0), Ready s st → TagRoom s st w →
    let t := s.setStrand st.key { (s.strand st.key).past 1 with status := .done }
    ((t.taskDone = false ∨ s.plan = none) → exec (.endStrand st w) s = .next t.attend) ∧
    (∀ p, s.plan = some p → t.taskDone = true → s.run.stopFrom = none → s.run.startAt = none → s.running 0x23 = false →
      let u := (t.taskEnd p).enter .loaded 0
      exec (.endStrand st w) s = .next ({ u with run := { u.run with holdAt := none } } : State).attend) ∧
    (t.strand st.key).status = .done ∧ (∀ k, k ≠ st.key → t.strand k = s.strand k) ∧ t.mem = s.mem ∧ t.ops = s.ops)

/-- R156, R157: the occupancy of a berth is PUSHED − POPPED modulo 2^32, and slot n lies at 8 × BASE + 8 × (n mod DEPTH) of the pad. An entry is visible
once no push of its slot is in flight, and its visibility boundary writes it. A push that issues counts PUSHED, so that the occupancy rises by one,
and leaves the other fields and bytes; a pop counts POPPED and takes the oldest visible entry; on a full berth a push waits, and pops of the same boundary make
no room for it (R159). -/
def Obligations.BerthOccupancy : Prop :=
  (∀ d : Nat, ((berthOcc d : Nat) : Int) = ((berthPushed d : Int) - (berthPopped d : Int)) % 2 ^ 32) ∧
  (∀ core d n : Nat, berthEntry core d n = padBase core + 8 * berthBase d + 8 * (n % berthDepth d)) ∧
  (∀ (s : State) (core n d : Nat), s.berthHead core n d = true ↔
    berthOcc d ≠ 0 ∧ ∀ o ∈ s.ops, ∀ v, Effect.berthEntry (4096 * core + n) (berthEntry core d (berthPopped d)) v ∉ o.effects) ∧
  (∀ (o : InFlight) (s : State) (k a : Nat) (v : W64), 0x20040000000 ≤ a → (∀ i < 8, s.mapped (a + i) = .ok) →
    (s.applyEffect o (.berthEntry k a v)).bytes a 8 = leBytes 8 v.toNat) ∧
  ∀ (s : State) (st : StrandRef) (w : Word0), Ready s st → CanRead s st [w.b, w.c] → TagRoom s st w →
    let core := st.core.val
    let n := ((s.strand st.key).x w.b + BitVec.ofNat 64 (w.f 11 0)).toNat
    let u := s.sense (s.berthAddr core n) 16
    let d := u.berth core n
    let v := u.sense (berthEntry core d (berthPopped d)) 8
    let same (t : State) : Prop := berthDepth (t.berth core n) = berthDepth d ∧ berthBase (t.berth core n) = berthBase d ∧
      berthRemoteOk (t.berth core n) = berthRemoteOk d ∧ berthBroken (t.berth core n) = berthBroken d
    let others (x t : State) : Prop := ∀ a, (a < s.berthAddr core n ∨ s.berthAddr core n + 16 ≤ a) → t.byte a = x.byte a
    n < 4096 → (∀ i < 16, s.mapped (s.berthAddr core n + i) = .ok) → berthDepth d ≠ 0 →
      (berthOcc d + u.popsNow core n < berthDepth d →
        ∃ t o poison, exec (.bpush st w) s = .next t ∧ berthOcc (t.berth core n) = berthOcc d + 1 ∧ berthPopped (t.berth core n) = berthPopped d ∧ same t ∧
          others u t ∧ t.ops = s.ops ++ [o] ∧ o.vis = s.visibleAt s.boundary (2 * s.stepPs) ∧
          o.effects = .berthEntry (4096 * core + n) (berthEntry core d (berthPushed d)) ((s.strand st.key).x w.c) :: poison) ∧
      (berthDepth d ≤ berthOcc d + u.popsNow core n →
        ∃ t, exec (.bpush st w) s = .next t ∧ (t.strand st.key).status = .waiting ∧ t.mem = u.mem ∧ t.ops = s.ops) ∧
      (berthBroken d = false → u.berthHead core n d = true →
        ∃ t o poison, exec (.bpop st w) s = .next t ∧ berthPopped (t.berth core n) = (berthPopped d + 1) % 2 ^ 32 ∧ berthPushed (t.berth core n) = berthPushed d ∧
          same t ∧ t.popsNow core n = v.popsNow core n + 1 ∧ others v t ∧ t.ops = s.ops ++ [o] ∧
          o.effects = .reg st.key w.a (BitVec.ofNat 64 (leNat (v.bytes (berthEntry core d (berthPopped d)) 8))) :: poison)

/-- R155–R157, R159, R147, R486: BPUSH and QPUSH reserve the next slot of a berth that has room and write it 2 steps on; on a full berth the strand waits; a
berth number beyond 4,095 and a berth of DEPTH zero fault with BERTH_RANGE.
R147, R155, R157, R486: BPOP, QPOP and BTRY take the oldest visible entry of a berth; without one BPOP and QPOP wait and BTRY answers xD := 0; BCOUNT
gives the occupancy. The value of the one register that BTRY names twice is free (log entry 3).
R216, R217: the descriptor and the entry pass the decoder first; where one is poisoned the strand faults with DATA_POISON at the visibility boundary. -/
def Obligations.BerthOperations : Prop :=
  let bad (s : State) (a n key : Nat) : List Effect := if s.poisonedRange a n then [.fault key (s.strand key).pc.toNat 0x16] else []
  (
  ∀ (s : State) (st : StrandRef) (w : Word0), Ready s st → CanRead s st [w.b, w.c] →
    let x := s.strand st.key
    let core := st.core.val
    let n := (x.x w.b + BitVec.ofNat 64 (w.f 11 0)).toNat
    let u := s.sense (s.berthAddr core n) 16
    let d := u.berth core n
    let slot := berthEntry core d (berthPushed d)
    let at_ := (s.berthAddr core n, 16)
    let pushed (opcode : Nat) :=
      (((u.setBerth core n (withBits d 127 96 ((berthPushed d + 1) % 2 ^ 32))).bookIssue core (ctxOf st.key) .berth [at_] [at_]).launchSimple st.key opcode 1 2 .berth .localWrite w.tagOf []
        (.berthEntry (4096 * core + n) slot (x.x w.c) :: bad u (s.berthAddr core n) 16 st.key)).s
    let fault (t : State) := t.strandFault st.key x.pc.toNat 0x0C []
    (n < 4096 → berthDepth d ≠ 0 → berthOcc d + s.popsNow core n < berthDepth d → TagRoom s st w →
      exec (.bpush st w) s = .next (pushed 0x50) ∧ exec (.qpush st w) s = .next (pushed 0x91)) ∧
    (n < 4096 → berthDepth d ≠ 0 → berthDepth d ≤ berthOcc d + s.popsNow core n → TagRoom s st w →
      exec (.bpush st w) s = .next (u.waitHere st.key w.sched).s ∧ exec (.qpush st w) s = .next (u.waitHere st.key w.sched).s) ∧
    (n < 4096 → berthDepth d = 0 → exec (.bpush st w) s = .next (fault u) ∧ exec (.qpush st w) s = .next (fault u)) ∧
    (4096 ≤ n → exec (.bpush st w) s = .next (fault s) ∧ exec (.qpush st w) s = .next (fault s))) ∧
  (
  ∀ (s : State) (st : StrandRef) (w : Word0), Ready s st → CanRead s st [w.b] → TagRoom s st w →
    let x := s.strand st.key
    let core := st.core.val
    let n := (x.x w.b + BitVec.ofNat 64 (w.f 11 0)).toNat
    let u := s.sense (s.berthAddr core n) 16
    let d := u.berth core n
    let slot := berthEntry core d (berthPopped d)
    let v := u.sense slot 8
    let value := BitVec.ofNat 64 (leNat (v.bytes slot 8))
    let p : State := { v with run := { v.run with pops := Tab.set 0 v.run.pops (4096 * core + n) (v.popsNow core n + 1) } }
    let at_ := (s.berthAddr core n, 16)
    let popped := ((p.bookIssue core (ctxOf st.key) .berth [at_, (slot, 8)] [at_]).setBerth core n (withBits d 95 64 ((berthPopped d + 1) % 2 ^ 32))).popFlows core n
    let poison := bad u (s.berthAddr core n) 16 st.key
    let both := poison ++ bad v slot 8 st.key
    let launch (t : State) (opcode : Nat) (regs : List Nat) (fx : List Effect) (reads : List (Nat × Nat) := []) :=
      (t.launchSimple st.key opcode 1 2 .berth .plain w.tagOf regs fx reads).s
    n < 4096 → berthDepth d ≠ 0 →
      exec (.bcount st w) s = .next (launch u 0x53 [w.a] (.reg st.key w.a (BitVec.ofNat 64 (berthOcc d)) :: poison) [at_]) ∧
      (berthBroken d = false → u.berthHead core n d = true →
        exec (.bpop st w) s = .next (launch popped 0x51 [w.a] (.reg st.key w.a value :: both)) ∧
        exec (.qpop st w) s = .next (launch popped 0x92 [w.a] (.reg st.key w.a value :: both)) ∧
        (w.a ≠ w.d → exec (.btry st w) s = .next (launch popped 0x52 [w.a, w.d] (.reg st.key w.a value :: .reg st.key w.d 1 :: both))) ∧
        (w.a = w.d → exec (.btry st w) s =
          .next (launch popped.takeFree.2 0x52 [w.a] (.reg st.key w.a (Config.freeValue popped.freeCtr) :: both)))) ∧
      (berthBroken d = false → u.berthHead core n d = false →
        exec (.bpop st w) s = .next (u.waitHere st.key w.sched).s ∧ exec (.qpop st w) s = .next (u.waitHere st.key w.sched).s ∧
        exec (.btry st w) s = .next (launch u 0x52 [w.d] (.reg st.key w.d 0 :: poison) [at_])) ∧
      (berthBroken d = true →
        let e := u.raise (causeEvent 3 (.seqCause st.core) 3 (srcCore core) [n, st.ctx.val])
        let t := e.strandFault st.key (e.strand st.key).pc.toNat 0x0D []
        exec (.bpop st w) s = .next t ∧ exec (.qpop st w) s = .next t ∧ exec (.btry st w) s = .next t))

/-- R164, R155, R486: LENTER, LARRIVE and BAR complete: an entry to round ROUND or ROUND + 1 of a lock with room for it is counted in its chamber of the home
lock, its side band joins the round's, and its boundary is noted; an LENTER or BAR then waits for the opening of that round, which writes the side band to its xA,
and an LARRIVE goes on with its next instruction. BAR enters with a side band of zero.
R155, R163, R164: the entry two rounds ahead parks its strand, of an LARRIVE too, and is counted as LOCK_OVERRUN in both modes; in STRICT it also raises
LOCK_OVERRUN. An unconfigured lock, a closed or far round, and a full chamber fault an entry of any of the three. -/
def Obligations.LockEntries : Prop :=
  ∀ (s : State) (st : StrandRef) (w : Word0), Ready s st → CanRead s st [w.b] → TagRoom s st w →
    let x := s.strand st.key
    let lock : Fin 64 := Fin.ofNat 64 (w.f 5 0)
    let home := s.homeKey (64 * st.core.val + w.f 5 0)
    let m := (x.x w.b).toNat
    let round := s.fld (.lockState st.core lock) 63 32
    let cfg := s.fld (.lockCfg st.core lock) 63 48
    let fault (code : Nat) := s.strandFault st.key x.pc.toNat code []
    let band (t : State) := (Tab.get LockX.empty t.lockx home).side.getD (m % 2) 0
    let enters (c : Instr) (side : W64) (arrive : Bool) : Prop :=
      (cfg ≠ 0 → (m = round ∨ m = round + 1) → s.chamber home (m % 2) < s.expected home →
        (arrive = false → exec c s = .next ((s.waitOn st.key w.sched (.lock home m w.a)).s.lockEntry home m side)) ∧
        (arrive = true → exec c s = .next ((s.lockEntry home m side).launchSimple st.key 0x59 1 2 .lock .plain w.tagOf [] []).s) ∧
        (s.scope home ≠ 2 → (Tab.get LockX.empty s.lockx home).side.length = 2 →
          ∃ t, exec c s = .next t ∧ t.chamber home (m % 2) = s.chamber home (m % 2) + 1 ∧ band t = sideJoin (band s) side ∧ t.mem = s.mem ∧ t.fab = s.fab ∧
            (∀ k, k ≠ st.key → t.strand k = s.strand k) ∧ (∀ r, (t.strand st.key).x r = x.x r) ∧
            (arrive = false → (t.strand st.key).status = .waiting ∧ (t.strand st.key).pc = x.pc ∧ t.ops = s.ops ∧
              ∃ y, (t.strand st.key).wait = some y ∧ y.kind = .lock home m w.a) ∧
            (arrive = true → (t.strand st.key).status = .ready ∧ (t.strand st.key).pc = x.pc + 1 ∧ t.ops.length = s.ops.length + 1))) ∧
      (cfg = 0 → exec c s = .next (fault 0x0E)) ∧
      (cfg ≠ 0 → (m < round ∨ round + 2 < m) → exec c s = .next (fault 0x0F)) ∧
      (cfg ≠ 0 → (m = round ∨ m = round + 1) → s.expected home ≤ s.chamber home (m % 2) → exec c s = .next (fault 0x10)) ∧
      (cfg ≠ 0 → m = round + 2 → ∃ t, exec c s = .next t ∧ (t.strand st.key).status = .parked ∧ (t.strand st.key).pc = x.pc ∧
        (∀ r, (t.strand st.key).x r = x.x r) ∧ (∀ k, k ≠ st.key → t.strand k = s.strand k) ∧ t.lockx = s.lockx ∧ t.mem = s.mem ∧ t.ops = s.ops ∧
        (∃ y, (t.strand st.key).wait = some y ∧ y.kind = .parked home m w.a side arrive (if arrive then w.tagOf else none)) ∧
        (∀ g, (t.strand st.key).tag g = x.tag g + if arrive = true ∧ w.tagOf = some g then 1 else 0) ∧
        t.fld (.seqCount st.core) 63 48 = min 65535 (s.fld (.seqCount st.core) 63 48 + 1) ∧
        (s.strict = true → t.fld (.seqCause st.core) 2 2 = 1) ∧ (s.strict = false → t.reg (.seqCause st.core) = s.reg (.seqCause st.core)))
    enters (.bar st w) 0 false ∧ (CanRead s st [w.c] → enters (.lenter st w) (x.x w.c) false ∧ enters (.larrive st w) (x.x w.c) true)

/-- R163, R164: an entry to a lock that is not a hall lock adds one to its chamber, joins its side band to the round's, and notes its boundary; the other
chamber, ROUND, the other locks, the strands and memory stay as they were.
R163: joining side bands ORs bits 63 to 32 and ANDs bits 31 to 0; the order in which entries are joined does not matter, and the band of an empty
round changes nothing. -/
def Obligations.LockChambersAndSideBands : Prop :=
  (
  ∀ (s : State) (core : Fin 128) (lock : Fin 64) (m : Nat) (side : W64),
    let k := 64 * core.val + lock.val
    let t := s.lockEntry k m side
    let x := Tab.get LockX.empty s.lockx k
    s.fld (.lockCfg core lock) 47 46 ≠ 2 → s.chamber k (m % 2) < 65535 → x.side.length = 2 →
      t.chamber k (m % 2) = s.chamber k (m % 2) + 1 ∧ t.chamber k ((m + 1) % 2) = s.chamber k ((m + 1) % 2) ∧
      t.fld (.lockState core lock) 63 32 = s.fld (.lockState core lock) 63 32 ∧
      (Tab.get LockX.empty t.lockx k).side.getD (m % 2) 0 = sideJoin (x.side.getD (m % 2) 0) side ∧
      (Tab.get LockX.empty t.lockx k).side.getD ((m + 1) % 2) 0 = x.side.getD ((m + 1) % 2) 0 ∧
      (∀ j, j ≠ k → Tab.get LockX.empty t.lockx j = Tab.get LockX.empty s.lockx j) ∧
      (∀ r : Reg, r.offset ≠ (Reg.lockState core lock).offset → t.reg r = s.reg r) ∧
      t.strands = s.strands ∧ t.mem = s.mem ∧ t.ops = s.ops ∧ t.fab = s.fab ∧ t.log = s.log) ∧
  (
  (∀ (a b : W64) (i : Nat), i < 64 → (sideJoin a b).getLsbD i = if i < 32 then a.getLsbD i && b.getLsbD i else a.getLsbD i || b.getLsbD i) ∧
  (∀ a b : W64, sideJoin a b = sideJoin b a) ∧ (∀ a b c : W64, sideJoin (sideJoin a b) c = sideJoin a (sideJoin b c)) ∧
  (∀ a : W64, sideJoin sideUnit a = a))

/-- R164, R165: the opening of a CORE lock that arms nothing and has no realignment list. Its collecting round opens 6 steps after the later of its last
entry and its last opening: ROUND counts on, its chamber empties, the round's side band is published, and the strands that wait for the round take it
into their register and issue from the following boundary on.
R143, R164: what the opening of a round does to one strand. One that waits for the round resumes past its instruction with the side band in its
register; any other stays as it is.
R55, R166, R172: a deadline that passes while a strand waits for its round, the collecting one or a later one, is marked once and logged; in STRICT it stops the
chip under LOCK_DEADLINE, in RELAXED the run goes on. Before its deadline, without a period, or with nobody waiting, nothing happens. -/
def Obligations.LockOpenings : Prop :=
  (
  ∀ (s : State) (core : Fin 128) (lock : Fin 64),
    let key := 64 * core.val + lock.val
    let n := s.fld (.lockState core lock) 63 32
    let x := s.lockx_ key
    let side := match x.due with
      | some d => d.2
      | none => x.side.getD (n % 2) sideUnit
    let due := s.visibleAt (max (x.lastEntry.getD (n % 2) 0) x.lastOpen) (6 * s.stepPs)
    s.scope key = 0 → s.expected key ≠ 0 → s.lockF key 45 45 = 0 → s.chamber key (n % 2) = s.expected key →
      (s.boundary < due → exec (.lockOpen core lock) s = .next s) ∧
      (due ≤ s.boundary → s.red.channels = [] → s.commitKey ≠ key → s.stepKey ≠ key →
        (∀ e ∈ s.strands, ∀ w, e.2.wait = some w → ∀ r d b a g, w.kind ≠ .parked key r d b a g) →
        ∃ t, exec (.lockOpen core lock) s = .next t ∧ t.fld (.lockState core lock) 63 32 = (n + 1) % 2 ^ 32 ∧ t.chamber key (n % 2) = 0 ∧
          t.chamber key ((n + 1) % 2) = s.chamber key ((n + 1) % 2) ∧ t.reg (.lockSideband core lock) = side ∧ (t.lockx_ key).lastOpen = s.boundary ∧
          (∀ k, t.strand k = (s.strand k).resumeLock (s.boundary + s.period) key n side) ∧
          (∀ j, j ≠ key → t.lockx_ j = s.lockx_ j) ∧ t.mem = s.mem ∧ t.ops = s.ops ∧ t.fab = s.fab ∧ t.signals = s.signals ∧ t.run = s.run ∧ t.dev = s.dev)) ∧
  (
  ∀ (x : Strand) (b key round dest : Nat) (side : W64) (w : Wait),
    (x.wait = some w → w.kind = .lock key round dest → dest < 32 →
      let y := x.resumeLock b key round side
      y.status = .ready ∧ y.pc = x.pc + 1 ∧ y.notBefore = b ∧ y.wait = none ∧ (∀ r < 32, y.x r = if r = dest ∧ r ≠ 0 then side else x.x r) ∧ y.tags = x.tags) ∧
    (x.wait = some w → (∀ d, w.kind ≠ .lock key round d) → x.resumeLock b key round side = x) ∧ (x.wait = none → x.resumeLock b key round side = x)) ∧
  (
  ∀ (s : State) (core : Fin 128) (lock : Fin 64),
    let key := 64 * core.val + lock.val
    let period := s.fld (.lockDlPeriod core lock) 31 0
    let waited (r : Nat) : Prop := ∃ e ∈ s.strands, ∃ w, e.2.wait = some w ∧
      ((∃ d, w.kind = .lock key r d) ∨ w.kind = .opened key r ∨ ∃ d b a g, w.kind = .parked key r d b a g)
    let missed (r : Nat) : Prop := period ≠ 0 ∧ (s.reg (.lockDlBase core lock)).toNat + r * period ≤ s.tide.count ∧
      s.fld (.lockState core lock) 63 32 ≤ r ∧ r ∉ (s.lockx_ key).deadlined ∧ waited r
    ((∀ r, ¬ missed r) → exec (.lockDeadline core lock) s = .next s) ∧
    ((∃ r, missed r) →
      ∃ t, exec (.lockDeadline core lock) s = .next t ∧ (∀ r, r ∈ (t.lockx_ key).deadlined ↔ r ∈ (s.lockx_ key).deadlined ∨ missed r) ∧
        (t.lockx_ key).lastOpen = (s.lockx_ key).lastOpen ∧ (t.lockx_ key).side = (s.lockx_ key).side ∧ (∀ j, j ≠ key → t.lockx_ j = s.lockx_ j) ∧
        (t.fld .detStatus 3 3 = 1 ∨ 3 ∈ t.run.detDue) ∧ t.strands = s.strands ∧ t.mem = s.mem ∧ t.ops = s.ops ∧ t.dev = s.dev ∧
        (s.strict = false → t.run.stopFrom = s.run.stopFrom ∧ t.reg .stopCause = s.reg .stopCause) ∧
        (s.strict = true → s.dev.state = .running → s.run.stopFrom = none →
          t.fld .stopCause 10 10 = 1 ∧ t.run.stopFrom = some (s.boundary + s.period) ∧ t.reg .stopTide = BitVec.ofNat 64 s.boundary)))

/-- R81–R85, R151, R154, R486: EOP and MMA. A zero K, ROWS or COLS is a no-op; an EOP that no case of its table stops, with a free waiting slot on each
easel, is put in flight.
R80, R82, R92: at its visibility boundary an EOP, whatever its fed steps and open column blocks are, writes the accumulators of its own bank, in the easels of its mask and the rows and columns of its
active region, and no memory, feed or register of a strand. -/
def Obligations.OuterProducts : Prop :=
  (
  ∀ (s : State) (st : StrandRef) (w : Word0) (w1 w2 : W64), Ready s st → CanRead s st [w.b, w.c, w.d] → TagRoom s st w →
    let x := s.strand st.key
    let p := eopArgs w w1 w2 x
    let q := mmaArgs w x
    let free (m : Nat) := ∀ e ∈ maskEasels m, s.slotTaken st.core.val e = false
    ((p.k = 0 ∨ p.rows = 0 ∨ p.cols = 0) → exec (.eop st w w1 w2) s = .next (s.noopIssue st.key 3).s) ∧
    (p.k ≠ 0 → p.rows ≠ 0 → p.cols ≠ 0 → s.eopFault st.core.val p false = none → free p.mask →
      ∃ t, exec (.eop st w w1 w2) s = .next t ∧ EopInFlight s t st w p 3) ∧
    (q.k = 0 → exec (.mma st w) s = .next (s.noopIssue st.key 1).s) ∧
    (q.k ≠ 0 → (w.f 24 21 = 1 ∨ w.f 24 21 = 2 ∨ w.f 24 21 = 3 ∨ w.f 24 21 = 4 ∨ w.f 24 21 = 8) → s.eopFault st.core.val q true = none → free q.mask →
      ∃ t, exec (.mma st w) s = .next t ∧ EopInFlight s t st w q 1)) ∧
  (
  ∀ (s : State) (key pc : Nat) (p : EopArgs) (steps : List (Nat × Nat)) (gates : List Bool) (all : Bool) (f : Effect),
    f ∈ s.eopResult key pc p steps gates all →
    (∀ k vs, f = .acc k vs → ∃ e ∈ maskEasels p.mask, ∃ i < p.rows, ∃ m, k = accKey (coreOf key) e p.bank i (32 * m) ∧
      vs.length ≤ 32 ∧ 32 * m + vs.length ≤ p.cols) ∧
    (∀ a bs, f ≠ .mem a bs) ∧ (∀ k bs, f ≠ .feed k bs) ∧ (∀ k r v, f ≠ .reg k r v) ∧ (∀ k v, f ≠ .signal k v))

/-- R83, R95, R96, R155: ACCRD and ACCWR move a whole bank between an easel and 64 KiB of the core's pad, from the boundary at which the bank is free, 32
steps long, holding the bank to their visibility boundary; code words pass their decoders, and poison moves with them (R217, R429); a pad address that is not a multiple of 128 faults, and one waits in its strand while the easel's
waiting slot is taken.
R97–R100, R131, R152, R486: VST and STA to a manifest of the core. Zero ROWS or COLS is a no-op; a store that no case stops starts when its bank, the varnish
stage and the store pipe are free and no earlier store of the core waits, and keeps its operands in the easel's waiting slot until then; it takes 32 steps, 40
with a fuse operand, or as long as its transfer is rated. -/
def Obligations.BankStores : Prop :=
  (
  ∀ (s : State) (st : StrandRef) (w : Word0), Ready s st → CanRead s st [w.b] → TagRoom s st w →
    let x := s.strand st.key
    let core := st.core.val
    let easel := w.f 2 1
    let bank := w.f 0 0
    let addr := (x.x w.b).toNat
    let a := padBase core + addr
    let b := accStore + 4 * accKey core easel bank 0 0
    let l := s.sense a 65536
    let r := s.sense b 65536
    let moved (t : State) (x y : Nat) : List Effect :=
      (t.poison.filter fun u => decide (x ≤ u) && decide (u < x + 65536)).map fun u => .poison (u - x + y) 1
    (addr % 128 ≠ 0 → exec (.accrd st w) s = .next (s.strandFault st.key x.pc.toNat 0x01 []) ∧
      exec (.accwr st w) s = .next (s.strandFault st.key x.pc.toNat 0x01 [])) ∧
    (addr % 128 = 0 → addr + 65536 ≤ 0x200000 → s.slotTaken core easel = true →
      exec (.accrd st w) s = .next (s.waitHere st.key 0).s ∧ exec (.accwr st w) s = .next (s.waitHere st.key 0).s) ∧
    (addr % 128 = 0 → addr + 65536 ≤ 0x200000 → s.slotTaken core easel = false →
      (∃ t, exec (.accrd st w) s = .next t ∧
        Slotted s r t st 1 w .easel (.acc false easel bank addr) [.bank (bankNo core easel bank)] True (32 * s.stepPs)
          (.mem a ((List.range 16384).flatMap fun i => leBytes 4 (Tab.get 0 r.acc (accKey core easel bank 0 i)).toNat) ::
            (moved r b a ++ poisonFault (r.poisonedRange b 65536) st.key x.pc.toNat))) ∧
      (∃ t, exec (.accwr st w) s = .next t ∧
        Slotted s l t st 1 w .easel (.acc true easel bank addr) [.bank (bankNo core easel bank)] True (32 * s.stepPs)
          (.acc (accKey core easel bank 0 0) ((List.range 16384).map fun i => BitVec.ofNat 32 (leNat (l.readBytes (a + 4 * i) 4))) ::
            (moved l a b ++ poisonFault (l.poisonedRange a 65536) st.key x.pc.toNat))))) ∧
  (
  ∀ (s : State) (st : StrandRef) (w : Word0) (w1 : W64), Ready s st → CanRead s st [w.a, w.b, w.c, w.d] → TagRoom s st w →
    let core := st.core.val
    let pc := (s.strand st.key).pc.toNat
    let stores (c : Instr) (words : Nat) (p : VstArgs) : Prop :=
      ∀ (d : View) (f : Option View), s.vstViews core p = .ok (d, f) → d.man.empty = false → (∀ t ∈ s.vstTiles core p d, d.tileHeld t false = true) →
        (∀ v, f = some v → v.man.empty = false ∧ v.tileHeld p.stile true = true) →
        let spans := s.gateSpans core p.gate p.cols
        let bank := (List.range p.rows).map fun i => (accStore + 4 * accKey core p.easel p.bank i 0, 4 * p.cols)
        let x := (s.senseSpans (spans ++ bank)).runWork core fun k => k.vstWrite core p d f
        let fuseSteps := match f with
          | some v => s.readSide core v.man.allocBase x.2
          | none => 0
        let steps := max (max (if f.isSome then 40 else 32) fuseSteps) (s.writeSide core d.man.allocBase x.2)
        let k := if f.isSome then x.2 else { x.2 with rFirst := [], rLines := [] }
        (s.slotTaken core p.easel = true → exec c s = .next (s.waitHere st.key 0).s) ∧
        (s.slotTaken core p.easel = false → x.2.sumBad = false → ∀ r, x.1.rate s.nextOp core x.1.boundary steps 0 k.readUses k.writeUses = some r →
          ∃ t parity, exec c s = .next t ∧
            Slotted s x.1 t st words w .varnish (.vst p) (vstUnits core p) (s.vstAhead core s.nextOp = false) r.1
              ((k.struck parity).effects st.key pc true ++ ((Work.start (x.1.readBase core x.2) core).vstAudit core p f ++ poisonFault (x.1.poisonedSpans spans) st.key pc) ++
                parity) ∧ (x.1.armed 1 core = false → parity = []))
    let p := vstArgs w w1 (s.strand st.key)
    ((p.rows = 0 ∨ p.cols = 0) → exec (.vst st w w1) s = .next (s.noopIssue st.key 2).s) ∧
    (p.rows ≠ 0 → p.cols ≠ 0 → p.fuse ≠ 3 → p.rows ≤ 128 → p.cols ≤ 128 → (p.gate = none ∨ p.trans = false) → s.gateBeyond core p.gate = false →
      stores (.vst st w w1) 2 p) ∧
    stores (.sta st w) 1 (staArgs w (s.strand st.key)))

/-- R194, R195, R486: DFEED and LDF of operands that are held here, with an allowed format pair and records within the feed, by the core DMA; K = 0 is a
no-op. -/
def Obligations.FeedFillIssues : Prop :=
  ∀ (s : State) (st : StrandRef) (w : Word0) (w1 w2 : W64), Ready s st → CanRead s st [w.a, w.b, w.c, w.d] → TagRoom s st w →
    let core := st.core.val
    let feeds (c : Instr) (words : Nat) (p : FeedArgs) : Prop :=
      p.k ≠ 0 → p.mask % 16 ≠ 0 → p.pat ≠ 3 → (p.a = none ∨ p.w = none ∨ p.other = 0) → s.outstanding core .dma < 16 →
      ∀ (va vw : Option View) (l : RecLayout), s.feedViews core p = .ok (va, vw) → (∀ v, va = some v ∨ vw = some v → v.man.empty = false) →
        fmtInvalid p.other true false = false →
        let aF := (va.map fun v => v.man.format).getD p.other
        let wF := (vw.map fun v => v.man.format).getD p.other
        recLayout aF wF p.pat (scaledAcross aF p.aAxis) (scaledAcross wF p.wAxis) = some l →
        p.lead + p.k * (l.leadBytes / 128) ≤ 1024 → ((maskEasels p.mask).length = 1 ∨ p.follow + p.k * (l.followBytes / 128) ≤ 1024) →
        let reach := fillReach p l va vw (Work.start s core)
        (∀ v i, va = some v → i < (maskEasels p.mask).length → ∀ t ∈ v.feedTiles (p.aTile + i * p.aStep) p.aAxis reach, v.tileHeld t true = true) →
        (∀ v, vw = some v → ∀ t ∈ v.feedTiles p.wTile p.wAxis reach, v.tileHeld t true = true) →
        let x := s.runWork core fun w0 => (fillAll p l va vw core w0).work
        let f := fillAll p l va vw core (Work.start (x.1.readBase core x.2) core)
        let side (v : Option View) (bits : Nat) (far : Bool) : Nat := match v with
          | some v => s.readSteps core v.man.allocBase (ceilDiv bits 8) far
          | none => 0
        (p.bmReq = false ∨ 128 * p.bmAddr + f.map.length ≤ 0x200000) → (f.pal = 0 ∨ s.pipeIdle core 1 = true) →
        Transfers c s st words w.tagOf .dma (x.1, f.work) (4 + ceilDiv f.bytes 2048) (16 * f.pal + 8 * f.tp) false
          (f.feeds ++ if p.bmReq then [.mem (padBase core + 128 * p.bmAddr) (f.map.map fun b => BitVec.ofNat 8 b)] else [])
          (some (side va f.aBits f.aFar + side vw f.wBits f.wFar))
    ((feedArgs w w1 w2 (s.strand st.key)).k = 0 → exec (.dfeed st w w1 w2) s = .next (s.noopIssue st.key 3).s) ∧
    ((ldfArgs w w1 (s.strand st.key)).k = 0 → exec (.ldf st w w1) s = .next (s.noopIssue st.key 2).s) ∧
    feeds (.dfeed st w w1 w2) 3 (feedArgs w w1 w2 (s.strand st.key)) ∧ feeds (.ldf st w w1) 2 (ldfArgs w w1 (s.strand st.key))

/-- R74, R142, R191, R192, R486: DCOPY, CPY and DSET between manifests of the core that are held here, by the core DMA; zero tiles, rows or columns are a
no-op.
R74, R152, R486: PCVT and CVT convert T tiles through the palette's instruction pipe in 16 steps a tile; PCVT with OVERRIDE takes its destination
format from word 1. -/
def Obligations.CopiesAndConversions : Prop :=
  (
  ∀ (s : State) (st : StrandRef) (w : Word0) (w1 : W64), Ready s st → CanRead s st [w.a, w.b, w.c, w.d] → TagRoom s st w →
    let y := s.strand st.key
    let core := st.core.val
    let n := w.f 28 12
    let dt := (y.x w.b).toNat
    let vt := (y.x w.d).toNat
    let rows := fieldOf w1 63 56
    let cols := fieldOf w1 55 48
    let tr := bitOf w.imm.toNat 11
    let copies (c : Instr) (words rows cols : Nat) (tr : Bool) : Prop :=
      n ≠ 0 → rows ≠ 0 → cols ≠ 0 → rows ≤ 128 → cols ≤ 128 → s.outstanding core .dma < 16 →
      ∀ d v : View, s.operand core (y.x w.a) .writes = .ok d → s.operand core (y.x w.c) .reads = .ok v → d.man.empty = false → v.man.empty = false →
        d.tilesHeld dt n false = true → v.tilesHeld vt n true = true →
        let x := s.runWork core fun k => (k.copyTiles d v dt vt rows cols tr n).2
        let pal := ((Work.start (x.1.readBase core x.2) core).copyTiles d v dt vt rows cols tr n).1
        (pal = 0 ∨ s.pipeIdle core 1 = true) →
        Transfers c s st words w.tagOf .dma x (max (x.1.readSide core v.man.allocBase x.2) (x.1.writeSide core d.man.allocBase x.2))
          (16 * pal + 8 * s.copyTurns d v vt n tr) true []
    ((n = 0 ∨ rows = 0 ∨ cols = 0) → exec (.dcopy st w w1) s = .next (s.noopIssue st.key 2).s ∧ exec (.dset st w w1) s = .next (s.noopIssue st.key 2).s) ∧
    copies (.dcopy st w w1) 2 rows cols tr ∧ copies (.cpy st w) 1 128 128 false ∧
    (n ≠ 0 → rows ≠ 0 → cols ≠ 0 → rows ≤ 128 → cols ≤ 128 → s.outstanding core .dma < 16 →
      ∀ d : View, s.operand core (y.x w.a) .writes = .ok d → d.man.empty = false → d.tilesHeld dt n false = true →
        let plain := d.man.format = 0 ∧ d.man.stencilled = false
        let val := Val.ofF32 ((y.x w.c).setWidth 32)
        let x := s.runWork core fun k => k.fillTiles d dt ((cells rows cols).map fun c =>
          { r := c.1, q := c.2, val := val, nz := !val.isZero, pois := false, raw := none }) n
        (plain ∨ s.pipeIdle core 1 = true) →
        Transfers (.dset st w w1) s st 2 w.tagOf .dma (withLines x (if d.man.stencilled then [] else x.2.rLines))
          (max 0 (x.1.writeSide core d.man.allocBase x.2))
          (16 * (if plain then 0 else n) + 8 * 0) true [])) ∧
  (
  ∀ (s : State) (st : StrandRef) (w : Word0) (w1 : W64), Ready s st → CanRead s st [w.a, w.b, w.c, w.d] → TagRoom s st w →
    let y := s.strand st.key
    let core := st.core.val
    let n := w.f 28 12
    let dt := (y.x w.b).toNat
    let vt := (y.x w.d).toNat
    let converts (c : Instr) (words : Nat) (fmt : Option (BitVec 32)) : Prop :=
      n ≠ 0 → (∀ f, fmt = some f → fmtInvalid f false false = false) →
      ∀ d v : View, s.operand core (y.x w.a) .writes = .ok d → s.operand core (y.x w.c) .reads = .ok v → d.man.empty = false → v.man.empty = false →
        d.tilesHeld dt n false = true → v.tilesHeld vt n true = true → s.pipeIdle core 1 = true →
        let d' := (fmt.map d.withFormat).getD d
        let x := s.runWork core fun k => k.convertTiles d' v dt vt n
        x.2.sumBad = false →
        ∃ t o, exec c s = .next t ∧ PutInFlight x.1 t st words o ∧ o.engine = .palette ∧ o.tag = w.tagOf ∧ o.start = x.1.boundary ∧
          o.vis = x.1.visibleAt x.1.boundary (x.2.withSums x.1 (16 * n) * x.1.stepPs) ∧ o.effects = x.2.effects st.key y.pc.toNat true ∧
          Tab.get 0 t.pipeFree (2 * core + 1) = o.vis
    (n = 0 → exec (.pcvt st w w1) s = .next (s.noopIssue st.key 2).s ∧ exec (.cvt st w) s = .next (s.noopIssue st.key 1).s) ∧
    converts (.pcvt st w w1) 2 (if w.imm.getLsbD 0 then some (w1.setWidth 32) else none) ∧ converts (.cvt st w) 1 none)

/-- R142, R155, R486, R497, R498: VEW, VRED and VOP over manifests that are held here, on a vector unit with fewer than four operations outstanding.
R294, R319, R339, R340, R451–R453: RNG, VFIN, CRC and RMERGE over manifests that are held here; T = 0 is a no-op, and so is an RMERGE of a step with
nothing to merge. -/
def Obligations.VectorOperations : Prop :=
  (
  ∀ (s : State) (st : StrandRef) (w : Word0) (w1 : W64), Ready s st → CanRead s st [w.a, w.b, w.c, w.d] → TagRoom s st w →
    let core := st.core.val
    let a := vecArgs w w1 0 (s.strand st.key)
    let o := vecArgs w 0 0 (s.strand st.key)
    let bn := fieldOf w1 47 24
    let steps := 6 + ceilDiv (a.t * a.rows * a.cols) 64
    ((a.t = 0 ∨ a.rows = 0 ∨ a.cols = 0) → exec (.vew st w w1) s = .next (s.noopIssue st.key 2).s ∧ exec (.vred st w w1) s = .next (s.noopIssue st.key 2).s) ∧
    (s.outstanding core .vector < 4 → a.t ≠ 0 → a.rows ≠ 0 → a.cols ≠ 0 → a.rows ≤ 128 → a.cols ≤ 128 →
      (w.f 11 8 < 0xC → (bn ≠ 0 ↔ vewNeedsB (w.f 11 8) = true) → (bn = 0 → fieldOf w1 23 0 = 0) →
        ∀ (d x : View) (y : Option View), s.operand core a.ra .writes = .ok d → s.operand core a.rc .reads = .ok x →
          (if bn = 0 then Except.ok none else (s.operandNo core bn .reads).map some) = .ok y → d.man.empty = false → x.man.empty = false →
          (∀ v, y = some v → v.man.empty = false ∧ v.tilesHeld (fieldOf w1 23 0) a.t true = true) →
          d.tilesHeld a.rb.toNat a.t false = true → x.tilesHeld a.rd.toNat a.t true = true →
          VectorIssues (.vew st w w1) s s st a
            { opcode := 0x30, words := 2, steps := steps + (if d.plainF32 then 0 else 16 * a.t), pal := !d.plainF32, regs := [], kind := .localWrite } 0) ∧
      (w.f 9 8 ≠ 3 → ∀ d x : View, s.operand core a.ra .writes = .ok d → s.operand core a.rc .reads = .ok x → d.man.empty = false → x.man.empty = false →
        d.tileHeld a.rb.toNat false = true → x.tilesHeld a.rd.toNat a.t true = true →
        VectorIssues (.vred st w w1) s s st a
          { opcode := 0x31, words := 2, steps := steps + (if d.man.format = 0 then 0 else 16), pal := d.man.format != 0, regs := [], kind := .localWrite } 0)) ∧
    (s.outstanding core .vector < 4 → ∀ d x y : View, s.operand core o.ra .writes = .ok d → s.operand core o.rb .reads = .ok x →
      s.operand core o.rc .reads = .ok y → d.man.empty = false → x.man.empty = false → y.man.empty = false →
      d.tilesHeld 0 (tileCount d.ext) false = true → x.tilesHeld 0 (tileCount d.ext) true = true → y.tilesHeld 0 (tileCount d.ext) true = true →
      VectorIssues (.vop st w) s s st o
        { opcode := 0x88, words := 1, steps := 6 + ceilDiv (posCount d.ext) 64, pal := false, regs := [], kind := .localWrite } 0)) ∧
  (
  ∀ (s : State) (st : StrandRef) (w : Word0) (w1 : W64), Ready s st → CanRead s st [w.a, w.b, w.c, w.d] → TagRoom s st w →
    let core := st.core.val
    let a := vecArgs w w1 0 (s.strand st.key)
    let simple (opcode steps : Nat) (kind : OpKind) : VecLaunch := { opcode := opcode, words := 2, steps := steps, pal := false, regs := [], kind := kind }
    (a.t = 0 → exec (.rng st w w1) s = .next (s.noopIssue st.key 2).s ∧ exec (.vfin st w w1) s = .next (s.noopIssue st.key 2).s ∧
      exec (.crc st w w1) s = .next (s.noopIssue st.key 2).s ∧ exec (.rmerge st w w1) s = .next (s.noopIssue st.key 2).s) ∧
    (a.t ≠ 0 → s.outstanding core .vector < 4 →
      (fieldOf w1 31 0 < 0xFFFFFFFE → ∀ d : View, s.operand core a.ra .writes = .ok d → d.man.empty = false → (w.f 11 10 = 0 → d.man.format = 0) →
        d.tilesHeld a.rb.toNat a.t false = true → VectorIssues (.rng st w w1) s s st a (simple 0x34 (6 + ceilDiv (a.t * 16384) 64) .localWrite) 0) ∧
      (∀ v : View, s.operand core a.rb .reads = .ok v → v.man.empty = false → v.tilesHeld a.rc.toNat a.t false = true →
        VectorIssues (.vfin st w w1) s s st a (simple 0x35
          (6 + ceilDiv (((List.range a.t).map fun i => ((Work.start s core).storedCells v (a.rc.toNat + i)).length).sum) 64) .plain) 0) ∧
      (w.f 9 8 ≠ 3 → ∀ (v : View) (r : Nat × State), s.operand core a.rb .reads = .ok v → v.man.empty = false → v.tilesHeld a.rc.toNat a.t false = true →
        let m := ((Work.start s core).crcMessage a v).2
        s.rate s.nextOp core (s.vecStart core false) (s.readSide core v.man.allocBase m) 8 m.readUses [] = some r →
        VectorIssues (.crc st w w1) s r.2 st a { opcode := 0x36, words := 2, steps := 0, pal := false, regs := [w.a], kind := .plain } r.1) ∧
      (s.fld .stepFlags 3 3 = 1 → s.fld .stepFlags 4 4 = 1 → ∀ d v : View, s.operand core a.ra .both = .ok d → s.operand core a.rc .reads = .ok v →
        d.man.empty = false → v.man.empty = false → d.tilesHeld a.rb.toNat a.t false = true → v.tilesHeld a.rd.toNat a.t true = true →
        VectorIssues (.rmerge st w w1) s s st a (simple 0x49 (6 + ceilDiv (a.t * 16384) 64) .localWrite) 0)) ∧
    (a.t ≠ 0 → s.fld .stepFlags 3 3 = 1 → s.fld .stepFlags 4 4 = 0 → exec (.rmerge st w w1) s = .next (s.noopIssue st.key 2).s))

/-- R319, R329, R333, R334, R343, R346: UPD and MEVO while the step commits, on a master and moments that keep the rules of R334; outside COMMITTING they
and RMERGE fault with COMMIT_NOT_OPEN and do nothing.
R123, R125–R130, R152: SKETCH of a row tile with its descriptor and gate record within the pad and no other sketch outstanding: 12 steps and one for
each 4 of its blocks' ranks, the gate record written at its visibility boundary; its descriptor passes the decoder, and poison of it poisons the record. -/
def Obligations.UpdatesAndSketches : Prop :=
  (
  ∀ (s : State) (st : StrandRef) (w : Word0) (w1 w2 : W64), Ready s st → CanRead s st [w.a, w.b, w.c, w.d] → TagRoom s st w →
    let core := st.core.val
    let a := vecArgs w w1 w2 (s.strand st.key)
    let form := w.f 11 10
    let upd : ShardOp := { opcode := 0x32, t := a.t, needM1 := form != 0, needM2 := form == 2, cast := bitOf w.imm.toNat 9, tagBegin := bitOf w.imm.toNat 8 }
    let mevo : ShardOp := { opcode := 0x33, t := w.f 17 8, needM1 := false, needM2 := false, cast := bitOf w.imm.toNat 6, tagBegin := false }
    let ready (o : ShardOp) (u : UpdViews) : Prop :=
      s.fld .stepFlags 3 3 = 1 ∧ s.outstanding core .vector < 4 ∧ s.shardOperands core a o.cast = .ok u ∧ u.mast.man.empty = false ∧ u.badOperand a o = false ∧
        (∀ v ∈ u.mast :: u.others, v.tilesHeld a.rb.toNat o.t false = true) ∧ u.grad.tilesHeld a.rd.toNat o.t true = true
    (upd.t = 0 → exec (.upd st w w1 w2) s = .next (s.noopIssue st.key 3).s) ∧
    (mevo.t = 0 → exec (.mevo st w w1 w2) s = .next (s.noopIssue st.key 3).s) ∧
    (upd.t ≠ 0 → ∀ u, ready upd u →
      let factor := if form = 0 then 2 else if form = 2 then 6 else 3
      let steps := 6 + factor * ceilDiv (((List.range a.t).map fun n => s.storedCount u.mast (a.rb.toNat + n)).sum) 64
      let b := if upd.tagBegin then s.memWrite (s.tagAddr core a) (leBytes 8 (s.reg .stepNumber).toNat) else s
      VectorIssues (.upd st w w1 w2) s b st a
        { opcode := 0x32, words := 3, steps := steps + (if upd.cast then 16 * upd.t else 0), pal := upd.cast, regs := [], kind := .localWrite } 0) ∧
    (mevo.t ≠ 0 → ∀ u, ready mevo u → (w.f 28 18 ≤ 256 ∨ (w.f 28 18 ≤ 1024 ∧ ∀ n < mevo.t, ∀ e,
        s.entryOf u.mast (a.rb.toNat + n) = some e → stencilPattern e ≠ 2)) →
      VectorIssues (.mevo st w w1 w2) s s st a
        { opcode := 0x33, words := 3, steps := 6 + 336 * mevo.t + (if mevo.cast then 16 * mevo.t else 0), pal := mevo.cast, regs := [], kind := .localWrite } 0) ∧
    (let notOpen (c : Instr) : Prop :=
      ∃ t, exec c s = .next t ∧ (t.strand st.key).status = .faulted ∧ (t.strand st.key).fault = 0x1A ∧ (t.strand st.key).pc = (s.strand st.key).pc ∧
        (∀ r, (t.strand st.key).x r = (s.strand st.key).x r) ∧ (∀ k, k ≠ st.key → t.strand k = s.strand k) ∧ t.mem = s.mem ∧ t.ops = s.ops ∧ t.acc = s.acc ∧
        t.feed = s.feed ∧ t.fld .commitCause 3 3 = 1
    s.fld .stepFlags 3 3 = 0 → (upd.t ≠ 0 → notOpen (.upd st w w1 w2)) ∧ (mevo.t ≠ 0 → notOpen (.mevo st w w1 w2)) ∧
      (a.t ≠ 0 → notOpen (.rmerge st w w1)))) ∧
  (
  ∀ (s : State) (st : StrandRef) (w : Word0) (w1 w2 : W64), Ready s st → CanRead s st [w.a, w.b, w.c, w.d] → TagRoom s st w →
    let y := s.strand st.key
    let core := st.core.val
    let m := w.f 28 21
    let descr := (y.x w.a).toNat
    let gate := (y.x w.d).toNat
    let z := s.sense (padBase core + descr) 64
    let d := z.sketchDescr core descr
    let bad := z.poisonedRange (padBase core + descr) 64
    (m = 0 → exec (.sketch st w w1 w2) s = .next (s.noopIssue st.key 3).s) ∧
    (m ≠ 0 → m ≤ 128 → gate % 32 = 0 → descr + 64 ≤ 0x200000 → s.outstanding core .sketch = 0 →
      ∀ (p q b : View) (o : Option View), s.operandNo core (fieldOf w1 63 40) .reads = .ok p → s.operandNo core (fieldOf w1 39 16) .reads = .ok q →
        s.operandNo core (fieldOf w2 63 40) .reads = .ok b →
        (if w.c = 0 then Except.ok none else (s.operand core (y.x w.c) .writes).map some) = .ok o →
        gate + 0x20 + ceilDiv (ceilDiv d.blocks 4) 32 * 32 + 2 * (d.main + d.repair + d.audit) ≤ 0x200000 →
        p.man.empty = false → q.man.empty = false → b.man.empty = false →
        let tile := (y.x w.b).toNat
        sketchHeld p q b o d.blocks tile = true →
        let x := z.runWork core fun k => (k.sketch p q b o d m tile).2
        let r := ((Work.start (x.1.readBase core x.2) core).sketch p q b o d m tile).1
        x.2.sumBad = false →
        ∃ t f, exec (.sketch st w w1 w2) s = .next t ∧ PutInFlight x.1 t st 3 f ∧ f.engine = .sketch ∧ f.tag = w.tagOf ∧ f.start = x.1.boundary ∧
          f.vis = x.1.visibleAt x.1.boundary ((12 + ceilDiv (d.blocks * d.rank) 4) * x.1.stepPs) ∧
          f.effects = x.2.effects st.key y.pc.toNat true ++ sketchEffects core descr gate d r [descr, tile] ++
            poisonMarks (bad || x.2.poisoned) ((sketchEffects core descr gate d r [descr, tile]).take 1) ++
            poisonFault (bad && (x.2.faultOf true).isNone) st.key y.pc.toNat ∧
          .mem (padBase core + gate) (gateRecord d r) ∈ f.effects))

/-- R266–R268, R273, R274, R486: FST and RST on a fit flow. To the chip itself they are a DCOPY; to another chip the tiles that the destination's record
names there are formed here and leave as STORE cells of the flow, complete at the end of the transfer's rating, and the operation waits for the ack of
the last one. -/
def Obligations.RemoteStoreIssues : Prop :=
  ∀ (s : State) (st : StrandRef) (w : Word0) (w1 : W64), Ready s st → CanRead s st [w.a, w.b, w.c, w.d] → TagRoom s st w →
    let y := s.strand st.key
    let core := st.core.val
    let stores (c : Instr) (opcode : Nat) (a : FabArgs) : Prop :=
      ((a.t = 0 ∨ a.rows = 0 ∨ a.cols = 0) → exec c s = .next (s.noopIssue st.key 2).s) ∧
      (a.t ≠ 0 → a.rows ≠ 0 → a.cols ≠ 0 → a.rows ≤ 128 → a.cols ≤ 128 →
        (∀ sub, s.flowFault a.flow = some sub → exec c s = .next (s.strandFault st.key y.pc.toNat 0x12 [sub])) ∧
        (s.flowFault a.flow = none → (s.flow a.flow).peerChip = s.fab.chip →
          exec c s = .next (s.dcopy st.key opcode 2 w a.dst a.src a.dt a.st a.t a.rows a.cols a.tr).s) ∧
        (s.flowFault a.flow = none → (s.flow a.flow).peerChip ≠ s.fab.chip → PortRoom s st →
          ∀ d v : View, s.fabViews core a (s.flow a.flow).peerChip false = .ok (d, v) → d.man.empty = false → v.man.empty = false →
            (d.tilesHeld a.dt a.t false = false → exec c s = .next (s.strandFault st.key y.pc.toNat 0x12 [3])) ∧
            (d.tilesHeld a.dt a.t false = true → v.tilesHeld a.st a.t true = true →
              let form (k : Work) : Sent := (List.range a.t).foldl (fun x n => x.tile k.s core d v a n) { w := k, cells := [], pal := 0 }
              let x := s.runWork core fun k => (form k).w
              let r := form (Work.start (x.1.readBase core x.2) core)
              (r.pal = 0 ∨ s.pipeIdle core 1 = true) →
              ∀ q, x.1.rate x.1.nextOp core s.boundary (s.readSide core v.man.allocBase r.w) (16 * r.pal + 8 * s.copyTurns d v a.st a.t a.tr)
                  r.w.readUses [] = some q →
                ∃ t o, exec c s = .next t ∧ PutInFlight x.1 t st 2 o ∧ o.kind = .fabricWrite ∧ o.engine = .fabric ∧ o.tag = w.tagOf ∧ o.start = s.boundary ∧
                  o.vis = s.visibleAt s.boundary q.1 ∧ t.fab.flows = (q.2.sendStores a.flow (s.boundary * 1000 + q.1) r.cells).fab.flows ∧
                  o.remote = if r.cells = [] then .none else .ack a.flow (t.lastSeq a.flow))))
    stores (.fst st w w1) 0x40 (fabArgs w w1 y) ∧ stores (.rst st w w1) 0x98 { fabArgs w w1 y with tr := false, rows := 128, cols := 128 }

/-- R266, R267, R269, R270, R273, R274: FLD and FATOM on a fit flow. An FLD from another chip asks for its bytes in LOAD_REQ cells of at most 16 entries
and waits for the responses; an FATOM sends one ATOMIC_REQ and waits for its response, and at the chip itself performs the atomic as an access of the
on-die network.
R270: what an atomic writes for each OP: sum, FP32 sum in bits 31 to 0, signed maximum and minimum, exchange, compare-and-exchange, OR, AND; the
operation gives its strand the old word and stores the new one in the 8 bytes at its address.
R213: an atomic on a sum window stores nothing and is a stray write. -/
def Obligations.RemoteReadsAndAtomics : Prop :=
  (
  ∀ (s : State) (st : StrandRef) (w : Word0) (w1 : W64), Ready s st → CanRead s st [w.a, w.b, w.c, w.d] → TagRoom s st w →
    let y := s.strand st.key
    let core := st.core.val
    let a := fabArgs w w1 y
    let peer := (s.flow a.flow).peerChip
    let addr := (y.x w.b).toNat
    let op := fieldOf w1 3 0
    ((a.t = 0 ∨ a.rows = 0 ∨ a.cols = 0) → exec (.fld st w w1) s = .next (s.noopIssue st.key 2).s) ∧
    (∀ sub, s.flowFault a.flow = some sub → exec (.fatom st w w1) s = .next (s.strandFault st.key y.pc.toNat 0x12 [sub])) ∧
    (s.flowFault a.flow = none →
      (a.t ≠ 0 → a.rows ≠ 0 → a.cols ≠ 0 → a.rows ≤ 128 → a.cols ≤ 128 →
        (peer = s.fab.chip → exec (.fld st w w1) s = .next (s.dcopy st.key 0x41 2 w a.dst a.src a.dt a.st a.t a.rows a.cols a.tr).s) ∧
        (peer ≠ s.fab.chip → PortRoom s st → ∀ d v : View, s.fabViews core a peer true = .ok (d, v) → d.man.empty = false → v.man.empty = false →
          d.tilesHeld a.dt a.t false = true → v.tilesHeld a.st a.t true = true →
          let there : Work := { Work.start s.blank core with peer := some (peer, s.boundary, 2 ^ 60) }
          let x := (List.range a.t).foldl (fun x n => FldPlan.tile x core peer d v a n) { w := Work.start s core, peer := there, pairs := [] }
          let entries := fldRuns x.pairs
          ∃ t o, exec (.fld st w w1) s = .next t ∧ PutInFlight s t st 2 o ∧ o.kind = .localWrite ∧ o.tag = w.tagOf ∧ o.vis = s.boundary ∧
            o.remote = .loads (entries.map fun e => e.2.1) ∧ o.effects = x.work.effects st.key y.pc.toNat false ∧
            (t.flow a.flow).queue.length = (s.flow a.flow).queue.length + (groupsOf 16 (entries.length + 1) entries).length)) ∧
      (addr % 8 ≠ 0 ∨ 2 ^ 42 ≤ addr ∨ 8 ≤ op → exec (.fatom st w w1) s = .next (s.strandFault st.key y.pc.toNat 0x12 [4])) ∧
      (addr % 8 = 0 → addr < 2 ^ 42 → op < 8 → PortRoom s st →
        (peer ≠ s.fab.chip → ∃ t o, exec (.fatom st w w1) s = .next t ∧ PutInFlight s t st 2 o ∧ o.kind = .fabricWrite ∧ o.tag = w.tagOf ∧ o.vis = s.boundary ∧
          o.remote = .atomic w.a ∧ (∀ r, r ∈ o.regs ↔ r = w.a ∧ r ≠ 0) ∧
          Queues s t a.flow 4 0 addr (BitVec.ofNat 64 (op + core * 2 ^ 4 + st.ctx.val * 2 ^ 11 + w.a * 2 ^ 22))
            (leBytes 8 (y.x w.c).toNat ++ leBytes 8 (y.x w.d).toNat)) ∧
        (peer = s.fab.chip → ∀ q, s.rate s.nextOp core s.boundary (s.readSteps core addr 8 (s.acrossSeam core addr)) 0 [] (if addr < 0x10000000000 then [(addr / 256, 2)] else []) = some q →
          ∃ t o, exec (.fatom st w w1) s = .next t ∧ PutInFlight s t st 2 o ∧ o.tag = w.tagOf ∧ o.vis = s.visibleAt s.boundary q.1 ∧
            o.effects = [.atomic st.key w.a addr op (y.x w.c) (y.x w.d)])))) ∧
  (
  (∀ old x c : W64, atomicNew 0 old x c = old + x ∧ (atomicNew 1 old x c).setWidth 32 = f32 ((Val.ofF32 (old.setWidth 32)).add (Val.ofF32 (x.setWidth 32))) ∧
    (atomicNew 1 old x c).extractLsb' 32 32 = old.extractLsb' 32 32 ∧ (atomicNew 2 old x c).toInt = max old.toInt x.toInt ∧
    (atomicNew 3 old x c).toInt = min old.toInt x.toInt ∧ atomicNew 4 old x c = x ∧ atomicNew 5 old x c = (if old = c then x else old) ∧
    atomicNew 6 old x c = old ||| x ∧ atomicNew 7 old x c = old &&& x) ∧
  ∀ (s : State) (source core addr op : Nat) (x c : W64),
    let u := (s.sense addr 8).senseLines addr 8 1 core
    let r := s.atomic source core addr op x c
    r.1 = BitVec.ofNat 64 (leNat (u.readBytes addr 8)) ∧
      (u.sumWindow addr = none → r.2 = u.rewrite addr (leBytes 8 (atomicNew op r.1 x c).toNat)) ∧
      (∀ w, u.sumWindow addr = some w → r.2 = u.strayIn source w.1 w.2.1 w.2.2.1))

/-- R266, R267, R271–R274, R486: FSIG and RSIG send a SIGNAL that its cover's last cell holds back, and FPUSH sends a PUSH that takes one credit; at the
chip itself they add to the counter and push to the berth 2 steps on, 6 where the other core lies across the seam (R13). A target of FSIG with a bit that R267
does not list faults (R146). A cover that is no SEND flow to the same peer faults; without a credit, or with
a full berth, an FPUSH waits. -/
def Obligations.RemoteSignalIssues : Prop :=
  ∀ (s : State) (st : StrandRef) (w : Word0), Ready s st → CanRead s st [w.b, w.c, w.d] → TagRoom s st w → PortRoom s st →
    let y := s.strand st.key
    let flow := (y.x w.b).toNat
    let f := s.flow flow
    let cover := s.flow (w.f 15 0)
    let target := (y.x w.d).toNat
    let fault (sub : Nat) := s.strandFault st.key y.pc.toNat 0x12 [sub]
    let near (core : Nat) : Nat := if s.coreHalf core = s.coreHalf st.core.val then 2 else 6
    let listed := target < 2 ^ 23 ∧ bitsOf target 15 10 = 0
    (¬ listed → ∀ c : Instr, (c = .fsig st w ∨ c = .rsig st w) → exec c s = .next (s.strandFault st.key y.pc.toNat 0x01 [])) ∧
    (∀ sub, s.flowFault flow = some sub →
      (listed → exec (.fsig st w) s = .next (fault sub) ∧ exec (.rsig st w) s = .next (fault sub)) ∧ exec (.fpush st w) s = .next (fault sub)) ∧
    (s.flowFault flow = none →
      (listed → (cover.role ≠ 1 ∨ cover.peerChip ≠ f.peerChip) → exec (.fsig st w) s = .next (fault 5) ∧ exec (.rsig st w) s = .next (fault 5)) ∧
      (listed → cover.role = 1 → cover.peerChip = f.peerChip →
        (f.peerChip ≠ s.fab.chip → ∀ c : Instr, (c = .fsig st w ∨ c = .rsig st w) → ∃ t o, exec c s = .next t ∧ PutInFlight s t st 1 o ∧ o.kind = .fabricWrite ∧
          o.tag = w.tagOf ∧ o.vis = s.boundary ∧ o.remote = .ack flow (t.lastSeq flow) ∧
          Queues s t flow 6 0 (bitsOf target 22 16 * 2 ^ 42) (signalArg (bitsOf target 9 0) (s.lastSeq (w.f 15 0)) cover.peerFlow) (leBytes 8 (y.x w.c).toNat)) ∧
        (f.peerChip = s.fab.chip → ∀ c : Instr, (c = .fsig st w ∨ c = .rsig st w) → ∃ t o, exec c s = .next t ∧ PutInFlight s t st 1 o ∧ o.tag = w.tagOf ∧
          o.vis = s.visibleAt s.boundary (near (bitsOf target 22 16) * s.stepPs) ∧ o.effects = [.signal (1024 * bitsOf target 22 16 + bitsOf target 9 0) (y.x w.c)] ∧ t.fab = s.fab)) ∧
      (f.peerChip ≠ s.fab.chip → f.credits = 0 → exec (.fpush st w) s = .next (s.waitHere st.key w.sched).s) ∧
      (f.peerChip ≠ s.fab.chip → f.credits ≠ 0 → ∃ t o, exec (.fpush st w) s = .next t ∧ PutInFlight s t st 1 o ∧ o.kind = .fabricWrite ∧ o.tag = w.tagOf ∧
        o.vis = s.boundary ∧ o.remote = .ack flow (t.lastSeq flow) ∧ (t.flow flow).credits = f.credits - 1 ∧
        Queues s t flow 7 0 0 0 (leBytes 8 (y.x w.c).toNat)) ∧
      (f.peerChip = s.fab.chip →
        let r := s.flow f.peerFlow
        let at_ := s.berthAddr r.proxy r.berth
        let u := s.sense at_ 16
        let d := u.berth r.proxy r.berth
        (berthDepth d = 0 → exec (.fpush st w) s = .next (s.strandFault st.key y.pc.toNat 0x0C [])) ∧
        (berthDepth d ≠ 0 → berthDepth d ≤ berthOcc d + s.popsNow r.proxy r.berth → exec (.fpush st w) s = .next (s.waitHere st.key w.sched).s) ∧
        (berthDepth d ≠ 0 → berthOcc d + s.popsNow r.proxy r.berth < berthDepth d →
          let b := u.setBerth r.proxy r.berth (withBits d 127 96 ((berthPushed d + 1) % 2 ^ 32))
          ∃ t o, exec (.fpush st w) s = .next t ∧ PutInFlight b t st 1 o ∧ o.tag = w.tagOf ∧ o.vis = s.visibleAt s.boundary (near r.proxy * s.stepPs) ∧
            o.effects = .berthEntry (4096 * r.proxy + r.berth) (berthEntry r.proxy d (berthPushed d)) (y.x w.c) ::
              poisonFault (u.poisonedRange at_ 16) st.key y.pc.toNat)))

/-- R295, R296: RCONTRIB of bucket tiles that the channel takes: through the palette's instruction pipe, in 16 steps a tile beside its reads, with each
tile staged at its visibility boundary; T = 0 is a no-op, and a channel that does not take it faults with REDUCTION_FAULT. -/
def Obligations.ContributionIssues : Prop :=
  ∀ (s : State) (st : StrandRef) (w : Word0) (w1 : W64), Ready s st → CanRead s st [w.a, w.b, w.c, w.d] → TagRoom s st w →
    let y := s.strand st.key
    let core := st.core.val
    let a : ContribArgs :=
      { channel := (y.x w.a).toNat, b := (y.x w.b).toNat, src := y.x w.c, st := (y.x w.d).toNat, t := w.f 28 12, acc := fieldOf w1 63 40 }
    (a.t = 0 → exec (.rcontrib st w w1) s = .next (s.noopIssue st.key 2).s) ∧
    (a.t ≠ 0 → s.contribBad a = true → exec (.rcontrib st w w1) s = .next (s.strandFault st.key y.pc.toNat 0x18 [])) ∧
    (a.t ≠ 0 → s.contribBad a = false → PortRoom s st → s.pipeIdle core 1 = true →
      ∀ (c : Channel) (stage v : View) (acc : Option View), s.channel a.channel = some c → s.operandNo core c.stage .writes = .ok stage →
        s.operand core a.src .reads = .ok v → (if a.acc = 0 then Except.ok none else (s.operandNo core a.acc .reads).map some) = .ok acc → v.man.empty = false →
        v.plainF32 = true → (∀ z, acc = some z → z.plainF32 = true ∧ z.tilesHeld a.st a.t false = true) → v.tilesHeld a.st a.t false = true →
        let x := s.runWork core fun k => (List.range a.t).foldl (fun k n => k.contribTile c stage v acc a n) k
        Transfers (.rcontrib st w w1) s st 2 w.tagOf .fabric x
          (max ((v :: acc.toList).foldl (fun m z => max m (s.readSide core z.man.allocBase x.2)) 0) (s.writeSide core stage.man.allocBase x.2))
          (16 * a.t) true
          ((List.range a.t).map fun n => .staged a.channel (a.b + n)))

/-- R33–R37, R47, R56, R58, R138–R143, R166: what a stroke boundary does, in order. The tide stands at the next multiple of the stroke period; register
writes take effect, bank cycles and memory slots that have passed are performed, committed cells land, results
that are due become visible in the order of their issue, operations behind others start, due locks open, signals apply; a PLAN reset acts (R405); the slack of the
halves is read; a resume or a start takes effect; the strands issue; waits of a stop complete; holds, late waits and deadlines are seen; the plan or the stop
ends. The order of the steps within a boundary is the model's (log entry 34). -/
def Obligations.StrokeBoundaryOrder : Prop :=
  ∀ (s : State) (dw de late : List Nat),
    (s.tide.running = false → exec (.strokeBoundary dw de late) s = .next s.attend) ∧
    (s.tide.running = true → 0 < s.period →
      let b := s.boundaryAt (s.tide.count + 1)
      let s0 : State := { s with tide := { s.tide with count := b, frac := 0 }, run := { s.run with pops := [] } }
      let s1 := (((s0.applyRegWrites.settleTo b).passSlots b).recordDet.snapRegs).land
      let s2 := s1.ops.foldl (fun (x : State) o => x.visibleOp b (late.contains o.id) o) s1
      let s3 := s2.ops.foldl (fun (x : State) o => x.lateStart b o) s2
      let s4 := s3.lockKeys.foldl (fun (x : State) k => x.lockOpen k) s3
      let s5 := s4.fab.signals.foldl (fun (x : State) g => x.signalApply g.id) s4
      s.tide.count < b ∧ b ≤ s.tide.count + s.period ∧ (∃ k, b = k * s.period) ∧
      exec (.strokeBoundary dw de late) s =
        .next (((((s5.resetNow.slackHalf .west dw).slackHalf .east de).resumeStart.planStart.issueAll.stoppedWaits).hostHold.overdue.stampStop b).planEnd.enterHeld).attend)

/-- R35, R37, R140, R141, R207: an operation at its visibility boundary. One that is due and complete gives its result: its tag counts one less, its
destinations are pending no more unless another operation holds them; one that is due and not complete, or whose requests a meeting keeps waiting, is late,
stays for a stroke with the operations queued behind it on a vector unit, and in STRICT slips the chip
with LATE_RESULT; one that is not due stays.
R35, R140, R141: what the release of an operation changes when its effects are one register's value, one range of accumulators, or one count of a
signal.
R140–R143, R155: at a boundary a strand that waits to try its instruction again executes it; when that instruction ends its group, nothing follows it.
A strand that waits for its round of a lock resumes with the opening only, and a strand that is not WAITING is not resumed, nor is any strand while the chip
does not issue.
R55, R143, R172: a wait with a schedule that is unsatisfied SCHED + WAIT_TOLERANCE strokes after its issue is counted, logged and marked in
DET_STATUS; in STRICT it raises SCHEDULE_LATE and stops the chip, in RELAXED the strand keeps waiting. A wait that is not late changes nothing. -/
def Obligations.ResultsAndResumption : Prop :=
  (
  ∀ (s : State) (op : Nat) (complete : Bool),
    (s.atBoundary = false → exec (.operationVisible op complete) s = .next s) ∧
    (s.ops.find? (fun x => x.id == op) = none → exec (.operationVisible op complete) s = .next s) ∧
    (∀ o : InFlight, s.ops.find? (fun x => x.id == op) = some o → s.atBoundary = true →
      (s.opReady s.now o = false → exec (.operationVisible op complete) s = .next s.planEnd.attend) ∧
      (s.opReady s.now o = true → o.late = false → complete = true → s.deferredOp o.id = false →
        exec (.operationVisible op complete) s = .next (s.release o).planEnd.attend) ∧
      (s.opReady s.now o = true → (o.late = true ∨ complete = false ∨ s.deferredOp o.id = true) → s.strict = true → (o.late = true ∨ o.remote = .none) →
        ∃ t : State, exec (.operationVisible op complete) s = .next t.planEnd.attend ∧
          t.ops = s.ops.map (fun x => if x.id = o.id then { o with vis := s.now + s.period, late := false }
            else if x.engine = .vector ∧ x.later.isSome ∧ o.engine = .vector ∧ x.core = o.core then
              { x with start := x.start + s.period, vis := x.vis + s.period } else x) ∧
          t.fld .stopCause 7 7 = 1 ∧ t.fld .detStatus 1 1 = 1 ∧ t.strands = s.strands ∧ t.mem = s.mem ∧
          (s.dev.state = .running → s.run.stopFrom = none → t.run.stopFrom = some (s.boundary + s.period))))) ∧
  (
  ∀ (s : State) (o : InFlight), (∀ r ∈ o.regs, r < 32) →
    let t := s.release o
    let held (r : Nat) : Prop := ∃ p ∈ s.ops, p.id ≠ o.id ∧ p.strand = o.strand ∧ r ∈ p.regs
    let rest : Prop := t.ops = s.ops.filter (fun p => p.id != o.id) ∧ (∀ k, k ≠ o.strand → t.strand k = s.strand k) ∧ t.mem = s.mem ∧ t.feed = s.feed ∧ t.dev = s.dev ∧
      (t.strand o.strand).pc = (s.strand o.strand).pc ∧ (t.strand o.strand).status = (s.strand o.strand).status ∧
      (∀ g, (t.strand o.strand).tag g = (s.strand o.strand).tag g - if o.tag = some g then 1 else 0) ∧
      (∀ r < 32, r ∈ o.regs → ¬ held r → (t.strand o.strand).isPending r = false) ∧
      (∀ r < 32, (r ∉ o.regs ∨ held r) → (t.strand o.strand).isPending r = (s.strand o.strand).isPending r)
    o.eop = none →
    (∀ r v, o.effects = [.reg o.strand r v] → rest ∧ t.acc = s.acc ∧ t.signals = s.signals ∧
      (∀ x < 32, (t.strand o.strand).x x = if x = r ∧ x ≠ 0 then v else (s.strand o.strand).x x)) ∧
    (∀ k vs, o.effects = [.acc k vs] → t.acc = Tab.setMany 0 (s.storeWords (accStore + 4 * k) (4 * vs.length)).acc k vs ∧
      (s.onDie.rowErrs = [] → rest ∧ t.signals = s.signals ∧ t.acc = Tab.setMany 0 s.acc k vs ∧ ∀ x, (t.strand o.strand).x x = (s.strand o.strand).x x)) ∧
    (∀ k v, o.effects = [.signal k v] → rest ∧ t.acc = s.acc ∧ Tab.get 0 t.signals k = Tab.get 0 s.signals k + v ∧
      (∀ j, j ≠ k → Tab.get 0 t.signals j = Tab.get 0 s.signals j) ∧ ∀ x, (t.strand o.strand).x x = (s.strand o.strand).x x)) ∧
  (
  ∀ (s : State) (st : StrandRef),
    let x := s.strand st.key
    ((s.dev.state ≠ .running ∨ s.stoppedAt s.boundary = true ∨ s.atBoundary = false ∨ x.status ≠ .waiting) → exec (.strandResume st) s = .next s) ∧
    (∀ w : Wait, s.dev.state = .running → s.stoppedAt s.boundary = false → s.atBoundary = true → x.status = .waiting → x.wait = some w →
      ((∃ k r d, w.kind = .lock k r d ∨ ∃ b a g, w.kind = .parked k r d b a g) → exec (.strandResume st) s = .next s.planEnd.attend) ∧
      ((w.kind = .retry ∨ (∃ k r, w.kind = .opened k r) ∨ ∃ n, w.kind = .fenced n) →
        exec (.strandResume st) s = .next (State.issueGroup st.key 8 s).planEnd.attend ∧
        (s.codeMark st.core.val x.pc.toNat = true →
          ∀ i f, s.nextInstr st.key = some i → issueOf i = some f → (f st.key s).more = false →
            exec (.strandResume st) s = .next (f st.key s).s.planEnd.attend)))) ∧
  (
  ∀ (s : State) (st : StrandRef),
    (s.dev.state ≠ .running → exec (.scheduleLate st) s = .next s) ∧
    (s.dev.state = .running → (∀ x ∈ s.run.injLate, x.1 ≠ st.key) →
      ((s.strand st.key).wait = none → exec (.scheduleLate st) s = .next s) ∧
      ∀ w : Wait, (s.strand st.key).wait = some w →
        (s.waitLate w = false → exec (.scheduleLate st) s = .next s) ∧
        (0 < w.sched → w.late = false → w.since + s.period * (w.sched + s.dev.chart.waitTolerance) ≤ s.tide.count →
          ∃ t, exec (.scheduleLate st) s = .next t ∧ t.strand st.key = { s.strand st.key with wait := some { w with late := true } } ∧
            (∀ k, k ≠ st.key → t.strand k = s.strand k) ∧ t.mem = s.mem ∧ t.ops = s.ops ∧ (t.fld .detStatus 2 2 = 1 ∨ 2 ∈ t.run.detDue) ∧
            t.fld (.seqCause st.core) 1 1 = 1 ∧ t.fld (.seqCount st.core) 47 32 = min 65535 (s.fld (.seqCount st.core) 47 32 + 1) ∧
            (s.strict = false → t.run = { s.run with detDue := t.run.detDue }) ∧
            (s.strict = true → s.run.stopFrom = none → t.fld .stopCause 9 9 = 1 ∧ t.run.stopFrom = some (s.boundary + s.period) ∧
              t.reg .stopTide = BitVec.ofNat 64 s.boundary))))

/-- R47, R48, R51: a stroke of a half's slack. The filtered slack is the least of the last 16; it joins the period's least, and below SLACK_FLOOR, or at
once where a detector is armed, the half slips with HALF_SLACK. A disabled half is not read.
R48, R49, R51: the end of a governor period of 8,192 strokes. Below SLACK_MARGIN the core voltage rises by 10 mV, at most to VMAX, and with it the
SRAM voltage to the greater of VCORE + 30 mV and 700 mV; a period spent at VMAX slips instead. After four periods at the margin and 20 per mille or
more it falls by 2.5 mV, at least to VMIN. A raise writes VSRAM first and VCORE when VSRAM is confirmed; a lowering writes VCORE first. The rounding of the slack is the model's choice
(log entry 39).
R50, R51, R404, R413: what the sensors and regulators do. A rail that does not answer within 5 mV of its target slips the half, and in BOOT is the fault
REGULATOR_BOOT; in FAULT the governors hold; a junction of an enabled half at JUNCTION_LIMIT and a module power above POWER_CAP slip. The currents are kept; the
module power is the sum of voltage × current over the fixed rails as measured and the halves' rails, their average over the last ten reads. That the average over
1 ms is that of the last ten reads is the model's choice (log entry 39). No detector is armed here. -/
def Obligations.GovernorAndSensors : Prop :=
  (
  ∀ (s : State) (h : Half) (delays : List Nat) (x : Int), leastOf (delays.map s.slackOf) = some x → s.armed 0x12 h.index = false →
    let g := s.gov h
    let hist := (x :: g.history).take 16
    let floor : Int := s.dev.chart.slackFloor
    (s.halfOn h = false → s.slackHalf h delays = s) ∧
    (s.halfOn h = true → ∃ f, f ∈ hist ∧ (∀ y ∈ hist, f ≤ y) ∧
      let t := s.slackHalf h delays
      (t.gov h).slackNow = f ∧ (t.gov h).history = hist ∧ (t.gov h).strokes = g.strokes + 1 ∧ (t.gov h).vcore = g.vcore ∧ (t.gov h).vsram = g.vsram ∧
      (∀ m, g.periodMin = some m → (t.gov h).periodMin = some (min m x)) ∧ (g.periodMin = none → (t.gov h).periodMin = some x) ∧
      (floor ≤ f → t.log = s.log ∧ t.run = s.run ∧ t.regs = s.regs) ∧
      (f < floor → fieldOf (t.reg .stopCause) h.index h.index = 1 ∧
        (s.dev.state = .running → s.run.stopFrom = none → t.run.stopFrom = some (s.boundary + s.period))) ∧
      (∀ k, k ≠ h → t.gov k = s.gov k) ∧ t.strands = s.strands ∧ t.mem = s.mem ∧ t.dev = s.dev)) ∧
  (
  ∀ (s : State) (h : Half) (m : Int),
    let g := s.gov h
    let margin : Int := s.dev.chart.slackMargin
    let good := if m < margin + 20 then 0 else min 4 (g.goodPeriods + 1)
    let next (x : Governor) (action : Nat) (slip : Bool) : Governor :=
      { x with slackMin := m, periodMin := none, goodPeriods := good, strokes := 0, action := action, periodSlip := slip }
    let traced (x : Governor) (u : State) : State :=
      if bitOf s.log.trace.sources 6 then u.trace 6 0 h.index [unsignedOf 16 m, x.vcore, x.vsram, unsignedOf 16 g.tjMax, g.coreMa, g.sramMa] else u
    ((g.periodMin = none ∨ g.strokes < 8192 ∨ s.halfOn h = false ∨ s.dev.state = .fault) → exec (.governorPeriod h) s = .next s) ∧
    (g.periodMin = some m → 8192 ≤ g.strokes → s.halfOn h = true → s.dev.state ≠ .fault →
      (m < margin → g.atVmaxAll = false →
        let x := g.move (min (g.aim + 100) s.vmax)
        exec (.governorPeriod h) s = .next (traced x (s.setGov h (next x 1 false)))) ∧
      (m < margin → g.atVmaxAll = true →
        exec (.governorPeriod h) s = .next ((traced g (s.setGov h (next g 3 true))).slip h.index (srcHalf h) [h.index] false)) ∧
      (margin ≤ m → good = 4 → s.vmin < g.aim →
        let x := g.move (max (g.aim - 25) s.vmin)
        exec (.governorPeriod h) s = .next (traced x (s.setGov h (next x 2 false)))) ∧
      (margin ≤ m → (good < 4 ∨ g.aim ≤ s.vmin) → exec (.governorPeriod h) s = .next (traced g (s.setGov h (next g 0 false)))))) ∧
  (
  ∀ (g : Governor) (v : Nat),
    vsramFor v = max (v + 300) 7000 ∧
    (g.vcore < v → g.vsram < vsramFor v →
      g.move v = { g with vsram := vsramFor v, coreNext := some v, sramNext := none } ∧ ((g.move v).confirmed true).vcore = v) ∧
    (v ≤ g.vcore → vsramFor v < g.vsram →
      g.move v = { g with vcore := v, coreNext := none, sramNext := some (vsramFor v) } ∧ ((g.move v).confirmed false).vsram = vsramFor v)) ∧
  (
  ∀ (s : State) (h : Half),
    (s.dev.state = .off → (∀ core sram, exec (.railCurrentRead h core sram) s = .next s) ∧ (∀ r, exec (.thermal h r) s = .next s) ∧
      (∀ p, exec (.powerCap p) s = .next s) ∧ ∀ sram ack status mv, exec (.regulatorReadback h sram ack status mv) s = .next s) ∧
    (s.halfOn h = false → ∀ r, exec (.thermal h r) s = .next s) ∧
    (s.dev.state = .fault → ∀ sram ack status mv, exec (.regulatorReadback h sram ack status mv) s = .next s) ∧
    (s.dev.state ≠ .off →
    (∀ core sram, ∃ t, exec (.railCurrentRead h core sram) s = .next t ∧ t.gov h = { s.gov h with coreMa := core, sramMa := sram } ∧ (∀ k, k ≠ h → t.gov k = s.gov k) ∧
      (t.env.halfMw.filter fun e => e.1 == h.index) = (h.index, ((s.gov h).vcore * core + (s.gov h).vsram * sram) / 10000) ::
        (s.env.halfMw.filter fun e => e.1 == h.index).take 9 ∧
      t.env = { s.env with halfMw := t.env.halfMw } ∧ t.regs = s.regs ∧ t.log = s.log ∧ t.run = s.run ∧ t.dev = s.dev ∧ t.mem = s.mem) ∧
    (∀ (c : Int) (e : List Int), s.halfOn h = true → s.armed 0x13 h.index = false → e.length = 6 →
      ∃ t, exec (.thermal h ⟨c, e⟩) s = .next (if (s.dev.chart.junctionLimit : Int) ≤ c then t.slip (2 + h.index) (srcHalf h) [h.index] false else t) ∧
        (t.gov h).tjMax = c ∧ (h = .west → t.env.tjW = some c) ∧ (h = .east → t.env.tjE = some c) ∧
        (∀ k < 12, Tab.find? t.env.engines k = if k / 6 = h.index then e[k % 6]? else Tab.find? s.env.engines k) ∧ t.run = s.run ∧ t.regs = s.regs ∧ t.log = s.log ∧ t.mem = s.mem) ∧
    (∀ fixed, s.armed 0x15 0 = false →
      let mean (k : Half) : Nat :=
        let l := (s.env.halfMw.filter fun e => e.1 == k.index).map fun e => e.2
        l.sum / max 1 l.length
      let p := mean .west + mean .east + (fixed.map fun e => e.1 * e.2).sum / 1000
      let above := decide (1000 * s.dev.chart.powerCap < p)
      let t : State := { s with env := { s.env with fixed := fixed, power := some p, capOver := above } }
      exec (.powerCap fixed) s = .next (if above then t.slip 6 srcHm [] false else t)) ∧
    (∀ (sram ack status : Bool) (mv : Nat), s.dev.state ≠ .fault → (sram = false → s.armed 0x14 h.index = false) →
      let target := if sram then (s.gov h).vsram else (s.gov h).vcore
      let ok := ack = true ∧ status = false ∧ 10 * mv ≤ target + 50 ∧ target ≤ 10 * mv + 50
      let note (f : Bool) : Governor := if sram then { s.gov h with sramFailed := f } else { s.gov h with failed := f }
      (ok → exec (.regulatorReadback h sram ack status mv) s = .next (s.setGov h ((note false).confirmed sram))) ∧
      (¬ ok → s.dev.state = .boot → exec (.regulatorReadback h sram ack status mv) s = .next ((s.setGov h (note true)).enterFault 5)) ∧
      (¬ ok → s.dev.state ≠ .boot → exec (.regulatorReadback h sram ack status mv) s =
        .next ((s.setGov h (note true)).slip (4 + h.index) (srcHalf h) [h.index] false)))))

/-- R40, R45, R46, R378: a SOURCE's pulse. With a TIDE_SET pending its value takes effect and its reply is written; otherwise the tide is LOCKED with the
offset as its error, and an offset above 1 µs is stepped where no plan runs. A pulse to another role, and its loss, change the tide unit's state only.
R41, R42, R44, R45: a follower. Its servo takes the average of the offsets that its upstream quay has measured as its error, is LOCKED one stratum
below within TIDE_TOLERANCE, and without any offset keeps its state; it slews, steps an offset above 1 µs where no plan runs, and moves the tide by at most
100 ps when its upstream quay changes. Without an upstream quay a follower that had one is in HOLDOVER; an estimated error
above TIDE_TOLERANCE slips with TIDE_ERROR.
R39, R45: the tide reference and reads of TIDE_NOW. A read of the low half, or of the whole, latches the fraction, and the low half latches the high
one; a reference that goes while an upstream quay is in service is an alarm, and the recovered clock takes over until it returns. -/
def Obligations.TideUnitEvents : Prop :=
  (
  ∀ s : State,
    let p : State := { s with tide := { s.tide with ppsPresent := true } }
    ((s.tide.role ≠ .source ∨ s.tide.running = false) → exec .tidePps s = .next p.attend) ∧
    (s.tide.role = .source → s.tide.running = true →
      (∀ v, s.tide.pendingSet = some v →
        let t := ({ p with tide := { p.tide with count := v, frac := 0, pendingSet := none, state := .locked, estError := 0 } } : State).raise
          (plainEvent 0x0410 srcHm [s.tide.count, v])
        exec .tidePps s = .next (if s.running 0x10 then t.finishL 0 [] else t).attend) ∧
      (s.tide.pendingSet = none →
        let err := s.secondOffset.natAbs / 10
        let t : State := { p with tide := { p.tide with state := .locked, estError := err, lastError := err } }
        ((s.slewOnly = true ∨ s.secondOffset.natAbs ≤ 1000000) → exec .tidePps s = .next t.attend) ∧
        (s.slewOnly = false → 1000000 < s.secondOffset.natAbs →
          let ps := ((s.nowPs : Int) - s.secondOffset).toNat
          exec .tidePps s = .next (({ t with tide := { t.tide with count := ps / 1000, frac := ps % 1000 * 65536 / 1000 } } : State).raise
            (plainEvent 0x0410 srcHm [s.tide.count, ps / 1000])).attend))) ∧
    exec .ppsPresentLost s =
      .next { s with tide := { s.tide with ppsPresent := false, state := if s.tide.role = .source then .acquiring else s.tide.state } }) ∧
  (
  ∀ s : State,
    ((s.tide.role ≠ .follower ∨ s.tide.running = false) → exec .tideServoUpdate s = .next s) ∧
    (s.tide.role ≠ .follower → exec .upstreamLost s = .next s ∧ (s.armed 0x16 0 = false → exec .tideError s = .next s)) ∧
    (s.tide.role = .follower →
    (∀ q, s.tide.running = true → s.upstreamQuay = some q →
      let x := s.quay q
      let u : State := { s with fab := { s.fab with quays := s.fab.quays.map fun e => (e.1, { e.2 with offsetSum := 0, offsetNum := 0 }) } }
      let theta : Int := x.offsetSum / (2 * (x.offsetNum : Int))
      let err := theta.natAbs / 10
      let locked := err ≤ 100 * s.dev.chart.tideTolerance ∨ s.tide.state = .locked
      let moved := ∃ q', s.tide.upstream = some q' ∧ q' ≠ q
      (x.offsetNum = 0 → exec .tideServoUpdate s = .next u) ∧
      (x.offsetNum ≠ 0 → ∃ t, exec .tideServoUpdate s = .next t ∧ t.tide.upstream = some q ∧ t.tide.estError = err ∧
        t.tide.lastError = err ∧ t.fab = u.fab ∧ t.mem = s.mem ∧
        (locked → t.tide.state = .locked ∧ t.tide.stratum = bitsOf x.peerTide 3 0 + 1) ∧ (¬ locked → t.tide.state = .acquiring ∧ t.tide.stratum = 0xF) ∧
        ((s.slewOnly = true ∨ theta.natAbs ≤ 1000000 ∨ moved) → t.tide.count = s.tide.count ∧ t.tide.frac = s.tide.frac ∧ t.log = s.log) ∧
        (s.slewOnly = false → 1000000 < theta.natAbs → ¬ moved →
          let ps := ((s.nowPs : Int) - theta).toNat
          t.tide.count = ps / 1000 ∧ t.tide.frac = ps % 1000 * 65536 / 1000 ∧
            t.log = (s.raise (plainEvent 0x0410 srcHm [s.tide.count, ps / 1000])).log))) ∧
    (s.tide.running = true → s.upstreamQuay = none → exec .tideServoUpdate s = .next s) ∧
    (s.tide.follows = true → s.upstreamQuay = none → exec .upstreamLost s = .next
      { s with tide := { s.tide with state := .holdover, stratum := 0xF, upstream := none, estError := s.tide.lastError, errFrom := s.tide.count } }) ∧
    ((s.tide.follows = false ∨ s.upstreamQuay ≠ none) → exec .upstreamLost s = .next s) ∧
    (s.armed 0x16 0 = false → (s.tide.state = .locked ∨ s.tide.state = .holdover) →
      exec .tideError s = .next (if 100 * s.dev.chart.tideTolerance < s.estErr then s.slip 8 srcHm [] false else s)) ∧
    (s.armed 0x16 0 = false → s.tide.state ≠ .locked → s.tide.state ≠ .holdover → exec .tideError s = .next s))) ∧
  (
  ∀ t : Tide, t.follows = true ↔ t.state = .locked ∨ (t.state = .acquiring ∧ ∃ q, t.upstream = some q)) ∧
  (
  ∀ s : State,
    let lost : State := { s with tide := { s.tide with estError := s.estErr, errFrom := s.tide.count, refPresent := false } }
    (∀ access, s.servedNow 0x10000 = false → exec (.tideNowRead access) s = .next { s with host := { s.host with lastRead := 0 } }) ∧
    (s.servedNow 0x10000 = true →
      let f := s.setReg .tideFrac (BitVec.ofNat 64 (s.tide.frac % 65536))
      (∃ t, exec (.tideNowRead .whole) s = .next t ∧ t.host.lastRead = BitVec.ofNat 64 s.tide.count ∧ t.regs = f.regs ∧ t.tide = s.tide ∧ t.mem = s.mem) ∧
      (∃ t, exec (.tideNowRead .low) s = .next t ∧ t.host.lastRead = BitVec.ofNat 64 (s.tide.count % 2 ^ 32) ∧ t.regs = f.regs ∧
        t.tide = { s.tide with latchedHi := s.tide.count / 2 ^ 32 } ∧ t.mem = s.mem) ∧
      (∃ t, exec (.tideNowRead .high) s = .next t ∧ t.host.lastRead = BitVec.ofNat 64 s.tide.latchedHi ∧ t.regs = s.regs ∧ t.tide = s.tide ∧ t.mem = s.mem)) ∧
    (s.tide.refPresent = true → s.upstreamAlive = true →
      exec .tideRefLost s = .next (({ lost with tide := { lost.tide with recovered := true } } : State).raise (plainAlarm 0x0402 srcHm []))) ∧
    ((s.tide.refPresent = false ∨ s.upstreamAlive = false) → exec .tideRefLost s = .next s) ∧
    exec (.tideRefPresent true) s =
      .next { s with tide := { s.tide with estError := s.estErr, errFrom := s.tide.count, refPresent := true, recovered := false } } ∧
    (s.upstreamAlive = false → exec (.tideRefPresent false) s = .next lost) ∧ (s.upstreamAlive = true → exec (.tideRefPresent false) s = .next s))

/-- R123, R133, R336: norm parts are added in the order of their parts, whatever order they come in; a part whose predecessors are missing waits, and one
that finds 1,024 waiting is dropped with an alarm. The counters of a gated layer are read, through the decoder, and zeroed in its service slot (R216). -/
def Obligations.NormPartsAndSketchCounters : Prop :=
  ∀ s : State,
    (s.dev.state ≠ .running → (∀ g p w2 g2 d2, exec (.normPartAdd g p w2 g2 d2) s = .next s) ∧ ∀ i, exec (.sketchCounterRead i) s = .next s) ∧
    (∀ i, (∀ p : Plan, s.plan = some p → p.layers[i]? = none) → exec (.sketchCounterRead i) s = .next s) ∧
    (s.dev.state = .running → ∀ (g : Fin 4096) (p : Fin 64) (w2 g2 d2 : W64),
      let r := (Tab.find? s.com.norms g.val).getD NormRun.fresh
      let add (r : NormRun) (a b c : W64) : NormRun := { r with w2 := addF64 r.w2 a, g2 := addF64 r.g2 b, d2 := addF64 r.d2 c, next := r.next + 1 }
      (p.val = r.next → (∀ y ∈ s.com.waiting, y.group ≠ g.val) →
        ∃ t, exec (.normPartAdd g p w2 g2 d2) s = .next t ∧ Tab.find? t.com.norms g.val = some (add r w2 g2 d2) ∧ t.com.waiting = s.com.waiting ∧
          t.mem = s.mem ∧ t.regs = s.regs) ∧
      (∀ y : NormWait, p.val = r.next → y.group = g.val → y.part = p.val + 1 → s.com.waiting = [y] →
        ∃ t, exec (.normPartAdd g p w2 g2 d2) s = .next t ∧ Tab.find? t.com.norms g.val = some (add (add r w2 g2 d2) y.w2 y.g2 y.d2) ∧ t.com.waiting = []) ∧
      (p.val ≠ r.next → s.com.waiting.length < 1024 →
        ∃ t, exec (.normPartAdd g p w2 g2 d2) s = .next t ∧ Tab.find? t.com.norms g.val = some r ∧
          t.com.waiting = s.com.waiting ++ [{ group := g.val, part := p.val, w2 := w2, g2 := g2, d2 := d2 }]) ∧
      (p.val ≠ r.next → 1024 ≤ s.com.waiting.length →
        ∃ t, exec (.normPartAdd g p w2 g2 d2) s = .next t ∧ Tab.find? t.com.norms g.val = some { r with dropped := true } ∧ t.com.waiting = s.com.waiting ∧
          t.fld .commitCause 6 6 = 1)) ∧
    (s.dev.state = .running → ∀ (i : Nat) (p : Plan) (l : SketchLayer), s.plan = some p → p.layers[i]? = some l →
      let a := padBase l.core + l.descr
      let r := s.sketchRun i
      let u := s.sense (a + 0x20) 20
      let c (off : Nat) := leNat (u.bytes (a + off) 4)
      (∀ x < 20, s.mapped (a + 0x20 + x) = .ok) → ∃ t, exec (.sketchCounterRead i) s = .next t ∧
        t.sketchRun i = { r with pendAud := r.pendAud + c 0x20, pendMis := r.pendMis + c 0x24, pendSki := r.pendSki + c 0x28 } ∧
        (∀ j, j ≠ i → t.sketchRun j = s.sketchRun j) ∧ (∀ x, a + 0x20 ≤ x → x < a + 0x34 → t.byte x = 0) ∧
        (∀ x, (x < a + 0x20 ∨ a + 0x34 ≤ x) → t.byte x = u.byte x) ∧ t.regs = u.regs ∧ t.ops = s.ops)

/-- R209–R213: a contribution to a window tile. One that no leaf names, and any from a quay or the service path, is discarded and logged; one that is not
the last of its tile is held and counted in ARRIVED; one of a core whose leaf of a complete tile has come is held for the next round, which is an error in
STRICT and a stall in RELAXED. None of them writes the window. A slice's tile that lies in no window takes no contribution.
R211: the tree that adds the leaves of a tile: neighbours in leaf order level by level, the last of an odd level passes up, and an absent leaf passes
its neighbour through. -/
def Obligations.SumWindows : Prop :=
  (
  ∀ (s : State) (slice : Fin 128) (tile : Fin 64) (values : List (Nat × W32)),
    (s.sumWin slice.val tile.val = none → ∀ source, exec (.sumContribution source slice tile values) s = .next s) ∧
    (∀ w : SumWin, s.sumWin slice.val tile.val = some w →
      let vs := values.map fun v => (v.1, v.2, false)
      (∀ q : Fin 48, exec (.sumContribution (.quay q) slice tile values) s = .next (s.sumStray w tile.val (srcQuay q.val))) ∧
      exec (.sumContribution .service slice tile values) s = .next (s.sumStray w tile.val srcHost) ∧
      (∀ c : Fin 128, s.sumHolds w c.val tile.val = false →
        let x := s.sense (sumStore w.slice) (32 * 148)
        let key := ordinalKey w.slice tile.val c.val
        let n := Tab.get 0 x.onDie.ordinals key
        let u : State := { x with onDie := { x.onDie with ordinals := Tab.set 0 x.onDie.ordinals key (n + 1) } }
        ((∀ l ∈ u.sumLeaves w, l ≠ (c.val, n)) → exec (.sumContribution (.core c) slice tile values) s = .next (u.sumStray w tile.val (srcCore c.val))) ∧
        (∀ i, (u.sumLeaves w).findIdx? (fun l => l == (c.val, n)) = some i →
          (u.onDie.sumHeld.filter fun h => h.slice == w.slice && h.tile == tile.val).length + 1 < w.leaves →
          ∃ t, exec (.sumContribution (.core c) slice tile values) s = .next t ∧
            t.onDie.sumHeld = u.onDie.sumHeld ++ [{ slice := w.slice, tile := tile.val, leaf := i, values := vs }] ∧
            t.fld w.state 31 16 = (u.fld w.state 31 16 + 1) % 65536 ∧ t.fld w.state 63 32 = u.fld w.state 63 32 ∧ t.mem = u.mem ∧ t.log = u.log)) ∧
      (∀ c : Fin 128, s.sumHolds w c.val tile.val = true →
        let held : State := { s with onDie := { s.onDie with
          sumEarly := s.onDie.sumEarly ++ [{ slice := slice.val, tile := tile.val, leaf := c.val, values := vs }] } }
        (s.tileDone w tile.val = false → exec (.sumContribution (.core c) slice tile values) s = .next held) ∧
        (s.tileDone w tile.val = true → s.strict = true → exec (.sumContribution (.core c) slice tile values) s =
          .next (held.raise (causeEvent 6 (.galCause slice) 4 (srcSlice slice.val) [c.val, tile.val - w.base]))) ∧
        (s.tileDone w tile.val = true → s.strict = false → exec (.sumContribution (.core c) slice tile values) s =
          .next ((held.count (.galCount slice) 15 0 1).det 7))))) ∧
  (
  ∀ a b c d e : W32,
    treeSum [] = none ∧ treeSum [some a] = some a ∧ treeSum [some a, some b] = some (sumAdd a b) ∧ treeSum [none, some b] = some b ∧
    treeSum [some a, none] = some a ∧ treeSum [none, none] = none ∧ treeSum [some a, some b, some c] = some (sumAdd (sumAdd a b) c) ∧
    treeSum [some a, some b, some c, some d] = some (sumAdd (sumAdd a b) (sumAdd c d)) ∧
    treeSum [some a, some b, some c, some d, some e] = some (sumAdd (sumAdd (sumAdd a b) (sumAdd c d)) e) ∧
    ∀ (l r : List (Option W32)) (x y : W32), l.length = 2 ^ 14 → r.length = 2 ^ 14 → treeSum l = some x → treeSum r = some y →
      treeSum (l ++ r) = some (sumAdd x y))

/-- R24, R225–R229, R232, R233, R238, R239, R455: one use of a lane's slot, on a line with no stored error, mark, unfinished write or armed detector. A read
leaves the line as it is; a write stores its bytes and a whole-line write clears the line's poison; poisoned data leaves the line poisoned; a partial write reads in
one slot and writes in another; a service reads in slot 94 and writes in slot 95; a scrub takes the line that is due in its read slot, and writes back in the slot
behind. Plan slots are counted, scrub and service slots are not; the other bytes of memory are unchanged. When a
read meets a write is the model's reading (log entry 72). In a refresh frame, on a disabled half, before memory is up, in a slot that is not the core's, the scrubber's or the
service's, or where the lane has served the slot, nothing is served.
R228, R234, R235, R239, R455: a waiting transfer's uses join the totals at its first frame; a scrub slot
takes the oldest queued line of its lane, or the next of its sweep, and leaves a clean line as it is; a package with 256 BAD bursts within 1 ms is
marked DEAD for the next frame with PACKAGE_LOST, and with GROUP_LOST where another package of its group holds erasures or is about to.
R208, R215–R218: a scrub cycle of a bank of a pad or slice or of a slice's sum stores. It takes the oldest queued row, or the next of the sweep; a clean row
changes nothing else; one bit in error is corrected and counted in the bank's unit. An unpowered bank does nothing, nor does one before READY (R393).
R431: a bit in error met in another row-coded structure of a core or half is counted and is BIT_CORRECTED of the core's pad or of the half's first slice; two in a code word are uncorrectable,
with an alarm; those of feed buffers and accumulator banks stand until an operation reads the word. That they come with SRAM_SCRUB, and the rows of the stores, are the
model's choice (log entry 74). -/
def Obligations.MemorySlotsAndScrubs : Prop :=
  (
  ∀ (s : State) (core : Fin 128) (line : Nat) (data : List (Nat × Byte)),
    let h := (linePos line).half
    let served := s.serveLane (laneKey line)
    let counted : State := { served with totals := { s.totals with memSlots := s.totals.memSlots + 1 } }
    (∀ use errs, (s.laneServes h (laneKey line) = false ∨ 2 ^ 32 ≤ line ∨ s.slotFor use h core.val line = false) →
      exec (.memorySlot use core line data errs) s = .next s) ∧
    (s.laneServes h (laneKey line) = true ↔ s.memUp = true ∧ s.halfOn h = true ∧ s.tide.running = true ∧ s.refreshing h (s.tide.count / 160) = false ∧
      Tab.get 0 s.main.lastSlot (laneKey line) ≠ s.slotNow + 1) ∧
    (s.laneServes h (laneKey line) = true → line < 2 ^ 32 → s.lineAtRisk line = false → s.log.armings = [] → s.unfinished none line s.nowThirds = [] →
      (s.poison.contains (line * 256) = false →
        let g := (linePos line).group
        let q := Tab.get [] s.main.scrubQueue g
        (s.slotFor .read h core.val line = true → exec (.memorySlot .read core line data []) s = .next counted) ∧
        (s.serviceNow false = true → exec (.memorySlot .service core line data []) s = .next served) ∧
        (s.slotFor .partialWrite h core.val line = true → s.main.merging.contains (core.val, line) = false → ∀ use, (use = .partialWrite ∨ use = .partialPoison) →
          exec (.memorySlot use core line data []) s =
            .next { counted with main := { counted.main with merging := counted.main.merging ++ [(core.val, line)] } }) ∧
        (s.slotFor .scrub h core.val line = true → s.backSlot line = false → exec (.memorySlot .scrub core line data []) s = .next (if q.contains line then
            { served with main := { served.main with scrubQueue := Tab.set [] s.main.scrubQueue g (q.filter fun l => l != line) } }
          else { served with main := { served.main with
            sweep := Tab.set 0 s.main.sweep (laneKey line) ((Tab.get 0 s.main.sweep (laneKey line) + 1) % 2 ^ 27) } }))) ∧
      (s.backSlot line = true → exec (.memorySlot .scrub core line data []) s = .next (served.writeBack (line, s.slotBegan))) ∧
      (s.main.retired.contains (line / 1024) = false → (data.map fun d => d.1).Nodup → (∀ d ∈ data, d.1 < 256) →
        let stores (use : SlotUse) (from_ : State) (marks : List Nat → Prop) : Prop := ∃ t, exec (.memorySlot use core line data []) s = .next t ∧ marks t.poison ∧
          (∀ d ∈ data, t.byte (line * 256 + d.1) = d.2) ∧ (∀ a, (∀ d ∈ data, a ≠ line * 256 + d.1) → t.byte a = s.byte a) ∧ t.regs = s.regs ∧
          t.log = s.log ∧ t.totals = from_.totals ∧ t.ops = s.ops ∧ t.strands = s.strands
        let clean (ps : List Nat) : Prop := ∀ u, u ∈ ps ↔ u ∈ s.poison ∧ u ≠ line * 256
        let spoilt (ps : List Nat) : Prop := ∀ u, u ∈ ps ↔ u ∈ s.poison ∨ u = line * 256
        (s.slotFor .write h core.val line = true → stores .write counted clean ∧ stores .writePoison counted spoilt ∧
          (s.main.merging.contains (core.val, line) = true → stores .partialWrite counted (fun ps => ∀ u, u ∈ ps ↔ u ∈ s.poison) ∧ stores .partialPoison counted spoilt)) ∧
        (s.serviceNow true = true → (256 ≤ data.length → stores .service served clean) ∧
          (data.length < 256 → stores .service served fun ps => ∀ u, u ∈ ps ↔ u ∈ s.poison))))) ∧
  (
  ∀ s : State,
    (∀ op, s.main.waiting.find? (fun w => w.1 == op) = none → exec (.memQueueStart op) s = .next s) ∧
    (∀ (op first uses : Nat), s.main.waiting.find? (fun w => w.1 == op) = some (op, first, uses) →
      let t : State :=
        { s with main := { s.main with waiting := s.main.waiting.filter fun x => x.1 != op }, totals := { s.totals with memSlots := s.totals.memSlots + uses } }
      exec (.memQueueStart op) s = .next (if first ≤ s.tide.count / 160 then (t.traceFrames op .west).traceFrames op .east else s) ∧
      (bitOf s.log.trace.sources 3 = false → (t.traceFrames op .west).traceFrames op .east = t)) ∧
    (∀ (group : Fin 4) (lane : Fin 8),
      let h : Half := if group.val < 2 then .west else .east
      let q := Tab.get [] s.main.scrubQueue group.val
      let key := 8 * group.val + lane.val
      let u := s.serveLane key
      (∀ errs, (s.laneServes h key = false ∨ s.scrubSlot h = false ∨ s.scrubbed key = true) → exec (.dramScrub group lane errs) s = .next s) ∧
      (s.laneServes h key = true → s.scrubSlot h = true → s.scrubbed key = false → s.log.armings = [] →
        (∀ line, q.find? (fun l => (linePos l).lane == lane.val) = some line → s.lineAtRisk line = false → s.poison.contains (line * 256) = false →
          exec (.dramScrub group lane []) s =
            .next { u with main := { u.main with scrubQueue := Tab.set [] s.main.scrubQueue group.val (q.filter fun l => l != line) } }) ∧
        (q.find? (fun l => (linePos l).lane == lane.val) = none →
          let b := Tab.get 0 s.main.sweep key
          s.lineAtRisk (lineOf group.val lane.val b) = false → s.poison.contains (lineOf group.val lane.val b * 256) = false →
          exec (.dramScrub group lane []) s = .next { u with main := { u.main with sweep := Tab.set 0 s.main.sweep key ((b + 1) % 2 ^ 27) } }))) ∧
    (∀ package : Fin 36,
      let h : Half := if package.val < 18 then .west else .east
      let recent := (Tab.get [] s.main.badTimes package.val).filter fun t => decide (s.tide.count < t + 1000000)
      let erased := s.erasedPackages (package.val / 9) ++ s.markedPackages (package.val / 9)
      ((s.memUp = false ∨ recent.length < 256 ∨ s.main.dead.contains package.val = true ∨ s.main.marks.contains (0, package.val, 0) = true) →
        exec (.packageLost package) s = .next s) ∧
      (s.memUp = true → 256 ≤ recent.length → s.main.dead.contains package.val = false → s.main.marks.contains (0, package.val, 0) = false →
        ∃ t, exec (.packageLost package) s = .next t ∧ t.main = { s.main with marks := s.main.marks ++ [(0, package.val, 0)] } ∧ t.fld (.memCause h) 4 4 = 1 ∧
          ((∃ p ∈ erased, p ≠ package.val) → t.fld (.memCause h) 5 5 = 1) ∧
          ((∀ p ∈ erased, p = package.val) → t.fld (.memCause h) 5 5 = s.fld (.memCause h) 5 5) ∧
          (∃ a ∈ t.log.alarms, a.cause = unitCode 7 4) ∧ t.mem = s.mem ∧ t.run = s.run))) ∧
  (
  ∀ (s : State) (bank : RowBank),
    (∀ ups, (s.bankOn bank = false ∨ s.scrubs = false) → exec (.sramScrub bank ups) s = .next s) ∧
    (∀ g : BankGeom, s.bankOn bank = true → s.scrubs = true →
      ((∃ c b, bank = .pad c b ∧ g = padGeom c.val b.val) ∨ (∃ sl b, bank = .slice sl b ∧ g = sliceGeom sl.val b.val) ∨
        (∃ sl, bank = .sums sl ∧ g = sumsGeom sl.val)) →
      let q := Tab.get [] s.onDie.rowQueue g.key
      let next := Tab.get 0 s.onDie.rowSweep g.key
      let row := q.headD next
      let at_ := g.base + g.pitch * row
      let moved : State :=
        { s with onDie := match q with
          | _ :: rest => { s.onDie with rowQueue := Tab.set [] s.onDie.rowQueue g.key rest }
          | [] => { s.onDie with rowSweep := Tab.set 0 s.onDie.rowSweep g.key ((next + 1) % g.rows) } }
      let span := (at_, 32 * g.words)
      let booked := if s.plan.isSome then moved.bookAt .scrub s.nowPs [span] [span] else moved
      ((∀ i < g.words, Tab.find? s.onDie.rowErrs (at_ + 32 * i) = none) → exec (.sramScrub bank []) s = .next booked) ∧
      (∀ (b : Nat) (cause cnt : Reg) (u src : Nat), Tab.find? s.onDie.rowErrs at_ = some [b] →
        (∀ i, 0 < i → i < g.words → Tab.find? s.onDie.rowErrs (at_ + 32 * i) = none) → s.rowHome at_ = some (cause, cnt, u, src) →
        ∃ t, exec (.sramScrub bank []) s = .next t ∧ t.onDie = { booked.onDie with rowErrs := Tab.erase s.onDie.rowErrs at_, rowInj := Marks.erase s.onDie.rowInj at_ } ∧ t.mem = s.mem ∧
          t.poison = s.poison ∧ t.totals.corrected = s.totals.corrected + 1 ∧ t.fld cnt 63 48 = min 65535 (s.fld cnt 63 48 + 1) ∧ t.fld cause 1 1 = 1)) ∧
    (∀ (core : Fin 128) (row : Nat) (up : RowUpset), s.scrubs = true → s.coreOn core.val = true →
      (row < 8192 → exec (.sramScrub (.coreStore core 0 row) [up]) s = .next (s.addUpset (feedGeom core.val) row up)) ∧
      (row < 4096 → exec (.sramScrub (.coreStore core 1 row) [up]) s = .next (s.addUpset (accGeom core.val) row up))) ∧
    (∀ (cause cnt : Reg) (u src cell row : Nat), s.bankOn bank = true → s.scrubs = true →
      ((∃ c n, bank = .coreStore c n row ∧ padHome c.val = (cause, cnt, u, src) ∧ 2 ≤ n.val) ∨
        (∃ h n, bank = .halfStore h n row ∧ sliceHome (halfSlice h) = (cause, cnt, u, src))) →
      exec (.sramScrub bank []) s = .next s ∧
      (∃ t, exec (.sramScrub bank [.bits cell false]) s = .next t ∧ t.fld cause 1 1 = 1 ∧ t.fld cnt 63 48 = min 65535 (s.fld cnt 63 48 + 1) ∧
        t.totals.corrected = s.totals.corrected + 1 ∧ t.mem = s.mem ∧ t.onDie = s.onDie) ∧
      (∃ t, exec (.sramScrub bank [.bits cell true]) s = .next t ∧ t.fld cause 2 2 = 1 ∧ t.fld cnt 47 32 = min 65535 (s.fld cnt 47 32 + 1) ∧
        (∃ a ∈ t.log.alarms, a.cause = unitCode u 2) ∧ t.mem = s.mem ∧ t.onDie = s.onDie)))

/-- R225, R226, R234, R236, R240: a memory frame begins, at an instant whose count is a multiple of 160 and at no other. Marks take effect; the first refresh
frame of a cycle reads the temperatures of the enabled
halves' packages, and while all are at or below 80 °C nothing slips. With nothing marked no other frame changes anything. -/
def Obligations.MemoryFrames : Prop :=
  ∀ (s : State) (temps : List Int),
    ((s.memUp = false ∨ s.tide.running = false ∨ s.tide.count % 160 ≠ 0 ∨ s.tide.frac ≠ 0) → exec (.memoryFrame temps) s = .next s) ∧
    (s.memUp = true → s.frameStart = true → temps.length = 36 →
    (s.main.marks = [] → s.tide.count / 160 % 24 ≠ 22 → exec (.memoryFrame temps) s = .next s) ∧
    (∀ p < 36, s.main.marks = [(0, p, 0)] → s.readsUnderWay (p / 9) = [] → s.tide.count / 160 % 24 ≠ 22 →
      let h : Half := if p < 18 then .west else .east
      ∃ t, exec (.memoryFrame temps) s = .next t ∧ t.main = { s.main with dead := Marks.insert s.main.dead p, marks := [] } ∧
        t.fld (.memPkgState h) (2 * (p - 18 * h.index) + 1) (2 * (p - 18 * h.index)) = 2 ∧ t.mem = s.mem ∧ t.log = s.log) ∧
    (s.main.marks = [] → s.tide.count / 160 % 24 = 22 → (∀ x ∈ temps, x ≤ 80) → (∀ p, s.armed 0x19 p = false) →
      ∃ t, exec (.memoryFrame temps) s = .next t ∧
        (∀ p < 36, s.halfOn (if p < 18 then .west else .east) = true → Tab.find? t.main.temps p = temps[p]?) ∧
        (∀ p < 36, s.halfOn (if p < 18 then .west else .east) = false → Tab.find? t.main.temps p = Tab.find? s.main.temps p) ∧
        t.regs = s.regs ∧ t.run = s.run ∧ t.log = s.log ∧ t.mem = s.mem ∧ t.main.dead = s.main.dead))

/-- R231: the decoder of a burst, which sees the four syndromes of the word that is read. A burst as encoded is CLEAN; one wrong symbol at any of its 36
positions is CORRECTED there; the parity burst with the poison pattern is POISON, and a data burst with it is not. -/
def Obligations.BurstDecoder : Prop :=
  (∀ parity : Bool, classify parity (syndrome []) = .clean) ∧
  (∀ pos < 36, ∀ diff, 0 < diff → diff < 256 → ∀ parity : Bool, classify parity (syndrome [(pos, diff)]) = .corrected [(pos, diff)]) ∧
  classify true (syndrome poisonPattern) = .poison ∧ classify false (syndrome poisonPattern) ≠ .poison

/-- R258, R260: a cell on the fibre. Its 320 bytes give back every field of the cell and of its link part, both checks hold, and inverting a check makes
that check alone fail. -/
def Obligations.CellBytesRoundTrip : Prop :=
  ∀ (c : Cell) (l : LinkPart), c.kind < 2 ^ 8 → c.flags < 2 ^ 8 → c.len = c.payload.length → c.payload.length ≤ 256 → c.srcChip < 2 ^ 16 → c.dstChip < 2 ^ 16 →
    c.rxFlow < 2 ^ 16 → c.planCycle < 2 ^ 16 → c.seq < 2 ^ 32 → c.addr < 2 ^ 64 → l.seq < 2 ^ 16 → l.nakSeq < 2 ^ 16 → l.flags < 2 ^ 8 → l.txStamp < 2 ^ 48 →
    l.echoTx < 2 ^ 48 → l.echoRx < 2 ^ 48 →
    let bs (e2eBad linkBad : Bool) := linkCell (c.endToEnd e2eBad) c.body l linkBad
    ∀ a b : Bool, (bs a b).length = 320 ∧ cellOfBytes (bs a b) = c ∧ linkOf (bs a b) = l ∧ e2eOk (bs a b) = !a ∧ linkOk (bs a b) = !b

/-- R253, R255, R258, R259, R264, R283, R287, R455: one slot of a quay in service, with no detector armed. An EMPTY entry sends an IDLE cell; a FLOW entry sends the
flow's oldest cell when it was complete 2 ns before the slot, and takes it from its queue; both bear the plan's cycle number. The cell bears the next
LINK_SEQ and is kept for resending. A quay out of service, and a slot beyond the cycle, send nothing.
The cells sent are counted, IDLE cells apart.
R248, R249, R251: a quay in EXCHANGE sends a TRAIN cell with its chip, its quay and what it expects of its peer, as the host had supplied them when its
training began, its stroke period and its cycle.
R257, R260, R279, R283, R285, R287: a cell arrives at a quay in service. One whose LINK_CHECK fails is asked for again; one in sequence that the
slot's FLOW entry, the plan's cycle, the context and the end-to-end check admit waits for its commit. A quay out of service discards it, and an
operand of another size than a cell's stops the machine. -/
def Obligations.CellsOnTheLink : Prop :=
  (
  ∀ (s : State) (quay : Fin 48) (slot : Nat),
    let q := quay.val
    let x := s.quay q
    let at_ := s.slotPs slot
    let e := s.txEntry q slot
    let sent (t : State) (bs : List Byte) (ops : List InFlight) (idle : Bool) : Prop :=
      exec (.cellTransmit quay slot) s = .next t ∧ (t.quay q).history = (x.history ++ [(x.txSeq, bs)]).drop (x.history.length + 1 - 512) ∧
        (t.quay q).txSeq = (x.txSeq + 1) % 65536 ∧ linkOk bs = true ∧ fieldAt bs 0x24 2 = x.txSeq % 65536 ∧ t.totals.cellsSent = s.totals.cellsSent + (if idle then 0 else 1) ∧
        t.mem = s.mem ∧ t.strands = s.strands ∧ t.ops = ops
    let cycle := s.planCycle (at_ / 1000 / max 1 s.cycleNs)
    ((s.inService q = false ∧ s.quayState q ≠ 3 ∨ s.slotCount ≤ slot) → exec (.cellTransmit quay slot) s = .next s) ∧
    (s.quayState q = 3 → slot < s.slotCount →
      let c := s.trainCell q cycle
      let l : LinkPart := { seq := x.txSeq, nakSeq := 0, flags := s.linkFlags false, txStamp := stampOf at_, echoTx := x.echoTx, echoRx := x.echoRx }
      exec (.cellTransmit quay slot) s = .next (s.setQuay q { x with trainTx := linkCell (c.endToEnd false) c.body l false }) ∧ c.kind = 0x0C ∧
        fieldAt c.payload 2 2 = x.ownChip % 2 ^ 16 ∧ fieldAt c.payload 4 1 = q ∧ fieldAt c.payload 6 2 = x.trainChip % 2 ^ 16 ∧
        fieldAt c.payload 8 1 = x.trainQuay % 2 ^ 8 ∧ fieldAt c.payload 9 1 = s.period % 2 ^ 8 ∧ fieldAt c.payload 0x0A 4 = s.cycleNs % 2 ^ 32) ∧
    (s.inService q = true → slot < s.slotCount → s.log.armings = [] → x.naks = [] →
      (entryKind e = 0 → ∃ t bs, sent t bs s.ops true ∧ fieldAt bs 0 1 = 0 ∧ fieldAt bs 0x0A 2 = cycle ∧ t.fab.flows = s.fab.flows) ∧
      (∀ c rest, entryKind e = 1 → (s.flow (entryFlow e)).ackCarrier = false → (s.flow (entryFlow e)).queue = c :: rest → c.ready + 2000 ≤ at_ →
        (∀ b, s.run.stopFrom = some b → c.issued < b) → c.cell.kind ≠ 0x0A → (c.cell.kind = 6 → ∀ n ∈ s.red.channels, n.2.mirrorFlow ≠ entryFlow e) →
        ∃ t bs l, sent t bs (if c.cell.kind = 2 then s.ops.map (fun o => if o.strand = copyKey then { o with issue := ceilDiv at_ 1000 } else o) else s.ops) false ∧
          bs = linkCell (({ c.cell with planCycle := cycle } : Cell).endToEnd false) c.cell.body l false ∧
          t.flow (entryFlow e) = { s.flow (entryFlow e) with queue := (s.flow (entryFlow e)).queue.erase c } ∧ ∀ k, k ≠ entryFlow e → t.flow k = s.flow k) ∧
      (∀ c rest, entryKind e = 1 → (s.flow (entryFlow e)).ackCarrier = false → (s.flow (entryFlow e)).queue = c :: rest → at_ < c.ready + 2000 →
        ∃ t bs, sent t bs s.ops true ∧ fieldAt bs 0 1 = 0 ∧ t.fab.flows = s.fab.flows))) ∧
  (
  ∀ (s : State) (quay : Fin 48) (bs : List Byte) (ns : Nat) (frac : W16),
    let q := quay.val
    let x := s.quay q
    let c := cellOfBytes bs
    let at_ := ns * 1000 + frac.toNat * 1000 / 65536
    let stamp := ns % 2 ^ 32 * 65536 + frac.toNat
    let left := at_ - (stampDiff stamp (linkOf bs).txStamp).toNat
    let k := left / (max 1 s.cycleNs * 1000)
    let e := s.rxEntry q (left % (max 1 s.cycleNs * 1000) / 3200)
    (bs.length ≠ 320 → exec (.cellReceive quay bs ns frac) s = .fault .cellSize) ∧
    (bs.length = 320 → s.inService q = false → exec (.cellReceive quay bs ns frac) s = .next s) ∧
    (bs.length = 320 → s.inService q = true → linkOk bs = false → x.checkFails = [] →
      ∃ t, exec (.cellReceive quay bs ns frac) s = .next t ∧ (t.quay q).naks = x.naks ++ [x.rxSeq % 65536] ∧ (t.quay q).rxSeq = (x.rxSeq + 1) % 65536 ∧
        (t.quay q).arrived = x.arrived ∧ t.fld (.quayCause quay) 1 1 = 1 ∧ t.inService q = true ∧ t.fab.flows = s.fab.flows ∧ t.mem = s.mem) ∧
    (bs.length = 320 → s.inService q = true → linkOk bs = true → (linkOf bs).seq = x.rxSeq → (linkOf bs).flags / 64 % 2 = 0 → entryKind e = 1 → e2eOk bs = true →
      c.kind ≠ 0 → entryFlow e = c.rxFlow → (s.cycleWrong q k false c).1 = false → (s.flow c.rxFlow).role = 2 → (s.flow c.rxFlow).peerChip = c.srcChip →
      (s.flow c.rxFlow).broken = false →
      let due := match c.mainBytes with
        | some m => (s.cellSlots (s.flow c.rxFlow).proxy m.1 m.2 at_).1
        | none => none
      ∃ t, exec (.cellReceive quay bs ns frac) s = .next t ∧ (t.quay q).arrived = x.arrived ++ [{ cell := c, arrival := at_, due := due }] ∧
        (t.quay q).rxSeq = (x.rxSeq + 1) % 65536 ∧ (t.quay q).naks = x.naks ∧ t.fab.flows = s.fab.flows ∧ t.regs = s.regs ∧ t.mem = s.mem ∧ t.log = s.log))

/-- R247–R251, R284, R288, R425: training and loss of a quay. A training state that sees what it waits for leads to the next, up to IN_SERVICE; the exchange of
protocols, peers and parameters and the delay bound fail it with their causes, and so does a state that passes its limit. A link that goes down, and
an engine whose laser falls below +15 dBm, take quays out of service and of training; on a quay in an earlier state the low laser is an alarm, and its training
does not go on until the laser returns. -/
def Obligations.QuayStates : Prop :=
  ∀ (s : State) (quay : Fin 48) (v : TrainView),
    let q := quay.val
    let to_ (c : Instr) (state cause : Nat) : Prop :=
      ∃ t : State, exec c s = .next t.attend ∧ t.quayState q = state ∧ (cause ≠ 0 → t.fld (.quayStatus quay) 7 4 = cause) ∧ t.mem = s.mem ∧ t.strands = s.strands
    let adv : Instr := .linkTrainingAdvance quay v
    (s.quayState q = 1 → v.laser = true → s.laserLit q = true → v.peerLight = true → to_ adv 2 0) ∧ (s.quayState q = 2 → v.aligned = true → to_ adv 3 0) ∧
    (s.quayState q = 3 → s.trainCause q v.payload = 0 → to_ adv 4 0) ∧ (s.quayState q = 3 → s.trainCause q v.payload ≠ 0 → to_ adv 6 (s.trainCause q v.payload)) ∧
    (s.quayState q = 4 → v.delayPs ≤ 750000 → ∃ t : State, exec adv s = .next t.attend ∧ t.quayState q = 5 ∧ (t.reg (.quayDelay quay)).toNat = v.delayPs) ∧
    (s.quayState q = 4 → 750000 < v.delayPs → to_ adv 6 8) ∧
    ((s.quayState q = 1 ∧ (v.laser = false ∨ s.laserLit q = false ∨ v.peerLight = false)) ∨ (s.quayState q = 2 ∧ v.aligned = false) ∨ s.quayState q = 0 ∨ 5 ≤ s.quayState q →
      exec adv s = .next s.attend) ∧
    (∀ laser : Bool, (s.quayState q = 1 → to_ (.trainingTimeout quay laser) 6 (if laser && s.laserLit q then 3 else 2)) ∧ (s.quayState q = 2 → to_ (.trainingTimeout quay laser) 6 4) ∧
      (s.quayState q = 3 → to_ (.trainingTimeout quay laser) 6 5) ∧ (s.quayState q = 4 → to_ (.trainingTimeout quay laser) 6 8) ∧
      ((s.quayState q = 0 ∨ 5 ≤ s.quayState q) → exec (.trainingTimeout quay laser) s = .next s.attend)) ∧
    (s.inService q = false → exec (.linkDown quay) s = .next s) ∧
    (s.inService q = true → ∃ t, exec (.linkDown quay) s = .next t ∧ t.quayState q = 6 ∧ t.fld (.quayStatus quay) 7 4 = 9 ∧ t.fld (.quayCause quay) 5 5 = 1 ∧
      (t.fld .detStatus 4 4 = 1 ∨ 4 ∈ t.run.detDue) ∧ (∃ a ∈ t.log.alarms, a.cause = unitCode 8 5) ∧ (∀ j, j ≠ q → t.quay j = s.quay j) ∧ t.mem = s.mem ∧ t.fab.flows = s.fab.flows) ∧
    (∀ (engine : Fin 12) (level : Int), s.armed 0x1A engine.val = false → q / 4 = engine.val → s.dev.state ≠ .off →
      (60 ≤ level → exec (.laserLoss engine level) s = .next { s with env := { s.env with lasers := Tab.put s.env.lasers engine.val level } }) ∧
      (level < 60 → bitOf s.dev.chart.quayEnable q = true → 2 ≤ s.quayState q → s.quayState q ≤ 5 → ∃ t, exec (.laserLoss engine level) s = .next t ∧
        t.quayState q = 6 ∧ t.fld (.quayStatus quay) 7 4 = 10 ∧ t.fld (.quayCause quay) 4 4 = 1 ∧
        (s.inService q = true → t.fld .detStatus 4 4 = 1 ∨ 4 ∈ t.run.detDue) ∧ (∃ a ∈ t.log.alarms, a.cause = unitCode 8 4) ∧
        (∀ j < 48, j / 4 ≠ engine.val → t.quayState j = s.quayState j) ∧ t.mem = s.mem) ∧
      (level < 60 → bitOf s.dev.chart.quayEnable q = true → s.quayState q < 2 → (∀ l, Tab.find? s.env.lasers engine.val = some l → 60 ≤ l) →
        ∃ t, exec (.laserLoss engine level) s = .next t ∧ t.quayState q = s.quayState q ∧ t.fld (.quayCause quay) 4 4 = 1 ∧ t.laserLit q = false)) ∧
    (s.dev.state = .off → ∀ (engine : Fin 12) (level : Int), exec (.laserLoss engine level) s = .next s)

/-- R265, R269–R271, R275–R278, R285: the cell of a quay whose commit instant comes first, on its flow in sequence, commits, where no other cell or signal
waits. A STORE's bytes stand in main memory, and wait for the next stroke boundary where they go elsewhere, if its flow's window allows them, and it falls due
for an ack; a PUSH waits for the boundary; a cell already committed is a duplicate, and one outside its window changes nothing but the counts and the
sequence. A quay none of whose cells is due commits none.
R35, R159–R161, R278: committed bytes become visible at the boundary, in commit order, with their poison. A push then takes the next slot of the berth that its
flow feeds; a full berth is marked and the push dropped, and one that no remote push may reach is left as it is.
R35, R162, R264, R269, R276: signals and load responses that have waited. A signal whose cover and whose own turn have committed adds its count to its
counter at a stroke boundary and goes; one whose cover is missing waits. The response to a load entry leaves on the flow's return flow once its data has been
read, with its destination and bytes. -/
def Obligations.CommitsAndResponses : Prop :=
  (
  ∀ (s : State) (quay : Fin 48) (x : RxCell),
    let q := quay.val
    let y := s.quay q
    let c := x.cell
    let flow := c.rxFlow
    let f := s.flow flow
    let u := s.setQuay q { y with arrived := y.arrived.erase x }
    let commits (t : State) : Prop := exec (.cellCommit quay) s = .next t.attend
    (s.firstDue q = none → commits s) ∧
    ((∀ z ∈ y.arrived, s.nowPs < s.commitAt q z) → s.firstDue q = none) ∧
    (s.firstDue q = some x → x ∈ y.arrived ∧ s.commitAt q x ≤ s.nowPs ∧ ∀ z ∈ y.arrived, s.commitAt q z ≤ s.nowPs → s.commitAt q x ≤ s.commitAt q z) ∧
    (s.firstDue q = some x → (∀ p < q, ∀ z, s.firstDue p = some z → s.commitAt p z ≠ s.commitAt q x) → s.fab.signals = [] → (∀ j, (s.quay j).heldCells = []) →
      f.above = [] → f.seq < 2 ^ 32 →
      (sequenced c.kind = true → seqLe c.seq f.seq = true → ∃ t, commits t ∧ t.fld .fabricCount 15 0 = min 65535 (s.fld .fabricCount 15 0 + 1) ∧ t.mem = s.mem ∧
        t.fab = u.fab) ∧
      (c.seq = (f.seq + 1) % 2 ^ 32 →
        let next : Flow := { f with seq := c.seq, ackDue := some (f.ackDue.getD s.nowPs) }
        (c.kind = 1 → f.allows c = false → ∃ t, commits t ∧ t.mem = s.mem ∧ t.flow flow = next ∧ t.fld .fabricCause 1 1 = 1 ∧
          t.fld .fabricCount 47 32 = min 65535 (s.fld .fabricCount 47 32 + 1)) ∧
        (c.kind = 1 → f.allows c = true → c.payload ≠ [] → (∀ i < c.payload.length, s.sumWindow (c.addr % 2 ^ 42 + i) = none) →
          s.badRanges (c.addr % 2 ^ 42) c.payload.length = [] →
          ∃ t, commits t ∧ t.flow flow = next ∧ (∀ k, k ≠ flow → t.flow k = s.flow k) ∧ t.signals = s.signals ∧ t.fab.pushes = s.fab.pushes ∧
            ((∀ m, s.region (c.addr % 2 ^ 42) ≠ .main m) → t.mem = s.mem ∧
              t.fab.landing = s.fab.landing ++ [{ addr := c.addr % 2 ^ 42, bytes := c.payload, poison := c.flags % 2 == 1, core := f.proxy }]) ∧
            (∀ m, s.region (c.addr % 2 ^ 42) = .main m → t.fab.landing = s.fab.landing ∧
              ∀ i < c.payload.length, s.mapped (c.addr % 2 ^ 42 + i) = .ok → t.readByte (c.addr % 2 ^ 42 + i) = c.payload.getD i 0)) ∧
        (c.kind = 7 → ∃ t, commits t ∧ t.flow flow = next ∧ t.mem = s.mem ∧ t.regs = s.regs ∧ t.fab.landing = s.fab.landing ∧
          t.fab.pushes = s.fab.pushes ++ [{ flow := flow, srcChip := c.srcChip, value := sliceBytes c.payload 0 8, poison := c.flags % 2 == 1 }])))) ∧
  (
  ∀ (s : State) (l : Landing) (rest : List Landing), s.fab.landing = l :: rest →
    let u := if l.poison then s.memWritePoison l.core l.addr l.bytes else s.memWriteFrom 1 l.core l.addr l.bytes
    s.land.fab.landing = [] ∧ s.land.fab.pushes = [] ∧ s.land.mem = (({ u with fab := { u.fab with landing := rest } } : State).land).mem) ∧
  (
  ∀ (s : State) (p : RemotePush), s.fab.landing = [] → s.fab.pushes = [p] → s.onDie.rowErrs = [] →
    let f := s.flow p.flow
    let d := s.berth f.proxy f.berth
    let u := s.setBerth f.proxy f.berth (withBits d 127 96 ((berthPushed d + 1) % 2 ^ 32))
    let e := berthEntry f.proxy d (berthPushed d)
    (f.berthEn = true → berthRemoteOk d = true → berthDepth d ≠ 0 → berthOcc d ≠ berthDepth d →
      s.land.mem = (if p.poison then u.memWritePoison f.proxy e p.value else u.memWriteFrom 1 f.proxy e p.value).mem ∧ s.land.fab.pushes = [] ∧
        s.land.regs = s.regs) ∧
    (f.proxy < 128 → f.berthEn = true → berthRemoteOk d = true → berthDepth d ≠ 0 → berthOcc d = berthDepth d →
      s.land.mem = (s.setBerth f.proxy f.berth (withBits d 48 48 1)).mem ∧ s.land.fld (.seqCause (Fin.ofNat 128 f.proxy)) 3 3 = 1) ∧
    (f.proxy < 128 → f.berthEn = false ∨ berthRemoteOk d = false → s.land.mem = s.mem ∧ s.land.fld (.seqCause (Fin.ofNat 128 f.proxy)) 4 4 = 1)) ∧
  (
  ∀ (s : State) (id : Nat),
    (∀ w, s.fab.signals.find? (fun x => x.id == id) = some w →
      (s.signalDone w = false ∨ s.atBoundary = false → exec (.signalApply id) s = .next s) ∧
      (s.signalDone w = true → s.atBoundary = true → ∃ t, exec (.signalApply id) s = .next t ∧ Tab.get 0 t.signals w.counter = Tab.get 0 s.signals w.counter + w.count ∧
        (∀ j, j ≠ w.counter → Tab.get 0 t.signals j = Tab.get 0 s.signals j) ∧ t.fab = { s.fab with signals := s.fab.signals.filter fun x => x.id != id } ∧
        t.mem = s.mem ∧ t.strands = s.strands)) ∧
    (s.fab.signals.find? (fun x => x.id == id) = none → exec (.signalApply id) s = .next s) ∧
    (∀ l, s.fab.loads.find? (fun x => x.id == id) = some l →
      (s.nowPs < l.ready → exec (.loadResponseReady id) s = .next s) ∧
      (l.ready ≤ s.nowPs → s.onDie.rowErrs = [] → s.lineAtRisk (l.src / 256) = false → s.badRanges l.src l.len = [] →
        let r := (s.flow l.flow).returnFlow
        let f := s.flow r
        ∃ t, exec (.loadResponseReady id) s = .next t ∧
          t.flow r = { f with queue := f.queue ++ [{ cell := s.cellOf f 3 (if s.poisonedRange l.src l.len then 1 else 0) l.dst 0 (s.readBytes l.src l.len), ready := s.nowPs, issued := s.now }],
                              seq := (f.seq + 1) % 2 ^ 32 } ∧
          (∀ k, k ≠ r → t.flow k = s.flow k) ∧ t.fab.loads = s.fab.loads.filter (fun x => x.id != id) ∧ t.mem = s.mem ∧ t.regs = s.regs)))

/-- R297, R302, R303, R315: the arming of a reduction channel. It arms at the boundary where it is enabled, in a reduction step, neither armed nor done,
and full and opened (a channel that does not contribute: opened). Arming sets ARMED, counts in PENDING and takes the boundary as its arm instant; its
F16W leaves send their cells and its IQW leaves their groups of exponents. Where a condition fails nothing happens. -/
def Obligations.ChannelArms : Prop :=
  ∀ (s : State) (channel : Fin 256),
    let ch := channel.val
    (s.channel ch = none → exec (.channelArm channel) s = .next s) ∧
    ∀ c, s.channel ch = some c →
      let st := Reg.redChanState c.half channel
      let step := Reg.redStepStatus c.half
      let may := s.tripped = false ∧ c.enabled = true ∧ s.stepNo % max 1 c.accumN + 1 = c.accumN ∧ s.fld st 1 1 = 0 ∧ s.fld st 2 2 = 0 ∧
        (c.contributes = true → s.fld st 0 0 = 1 ∧ (c.express = true ∨ (s.chanRun ch).lockOpen = true)) ∧
        (c.contributes = false → (s.chanRun ch).lockOpen = true)
      (¬ may → exec (.channelArm channel) s = .next s) ∧
      (may → (∃ e ∈ s.chanNodes ch, e.2.level ≠ 0 ∧ 0 < e.2.count c) → (∀ e ∈ s.chanNodes ch, e.2.level ≠ 0) →
        ∃ t, exec (.channelArm channel) s = .next t ∧ t.fld st 1 1 = 1 ∧ t.fld st 2 2 = 0 ∧ t.fld st 63 32 = s.fld st 63 32 ∧
          t.fld step 31 16 = (s.fld step 31 16 + 1) % 65536 ∧ t.fld step 63 32 = s.stepNo % 2 ^ 32 ∧
          (s.fld step 63 32 ≠ s.stepNo % 2 ^ 32 → t.fld step 1 0 = 3) ∧ (s.fld step 63 32 = s.stepNo % 2 ^ 32 → t.fld step 1 0 = s.fld step 1 0) ∧
          (t.chanRun ch).armAt = some s.boundary ∧ (t.chanRun ch).lockOpen = false ∧ (t.chanRun ch).started = [] ∧ (t.chanRun ch).finished = [] ∧
          (t.chanRun ch).staged = (s.chanRun ch).staged ∧ (∀ j, j ≠ ch → t.chanRun j = s.chanRun j) ∧
          t.fab = s.fab ∧ t.mem = s.mem ∧ t.strands = s.strands ∧ t.ops = s.ops) ∧
      (∀ k n, may → s.chanNodes ch = [(k, n)] → n.level = 0 → n.outFlow ≠ 0xFFFF →
        ∃ t, exec (.channelArm channel) s = .next t ∧ t.mem = s.mem ∧ t.ops = s.ops ∧
          (t.flow n.outFlow).queue.length = (s.flow n.outFlow).queue.length + (if c.iqw then ceilDiv (n.count c) 256 else n.count c) ∧
          (∀ j, j ≠ n.outFlow → t.flow j = s.flow j) ∧
          t.fld st 63 32 = (s.fld st 63 32 + if c.iqw then 0 else n.count c) % 2 ^ 32)

/-- R301–R305, R308: cells of a reduction inside the chip. An IQW leaf that holds a cell's agreed exponent encodes its elements, counts the clamped ones
and sends the cell with its residue. A formed node with both inputs of its next cell adds them (or takes the larger exponents), and its output is
complete 12 ns later; it then leaves on OUT_FLOW, goes to the local entry that consumes it, or, at the root, is written as a result. -/
def Obligations.ReductionCells : Prop :=
  ∀ (s : State) (h : Half) (entry : Fin 4096) (cell : Nat) (n : Node) (c : Channel),
    let key := 4096 * h.index + entry.val
    let ch := n.channel
    let st := Reg.redChanState c.half (Fin.ofNat 256 ch)
    let run := s.chanRun ch
    let armed := s.fld st 1 1 = 1 ∧ s.tripped = false
    let queued (t : State) (phase : Nat) (values : List Int) (residue : Nat) (finite poison : Bool) : Prop :=
      (t.flow n.outFlow).queue = (s.flow n.outFlow).queue ++ [{
        cell := s.cellOf (s.flow n.outFlow) 0x0B (if poison then 1 else 0) (cell % 2 ^ 32 + ch * 2 ^ 32) (redArg c n phase residue s.stepNo finite)
          (values.flatMap fun v => leBytes (c.valueBytes phase n.level) (unsignedOf (8 * c.valueBytes phase n.level) v))
        ready := s.nowPs, issued := run.armAt.getD s.now }]
    s.node key = some n → s.channel ch = some c →
      ((¬ (c.iqw = true ∧ n.level = 0 ∧ armed ∧ (Tab.find? run.exps (2 ^ 20 * key + cell)).isSome = true ∧ (key, 0, cell) ∉ run.started)) →
        exec (.leafSumStart h entry cell) s = .next s) ∧
      (∀ e, c.iqw = true → n.level = 0 → armed → Tab.find? run.exps (2 ^ 20 * key + cell) = some e → (key, 0, cell) ∉ run.started →
        n.outFlow ≠ 0xFFFF → s.armed 0x10 c.half.index = false →
        let xs := s.stageCell c cell
        let vs := xs.map fun x => (iqwField e x).1
        ∃ t, exec (.leafSumStart h entry cell) s = .next t ∧ queued t 0 vs (residueOf vs) (e != 0xFF) (s.stagePoison c cell) ∧ (∀ j, j ≠ n.outFlow → t.flow j = s.flow j) ∧
          t.fld (.redCount c.half) 31 16 = min 65535 (s.fld (.redCount c.half) 31 16 + (xs.filter fun x => (iqwField e x).2).length) ∧
          t.fld st 63 32 = (s.fld st 63 32 + 1) % 2 ^ 32 ∧ t.mem = s.mem ∧ t.ops = s.ops) ∧
      ((n.level = 0 ∨ ¬ armed ∨ s.ready ch c key n cell = none) → exec (.nodeCombine h entry cell) s = .next s) ∧
      (∀ phase l r, n.level ≠ 0 → armed → s.ready ch c key n cell = some (phase, l, r) → l.phase = phase → r.phase = phase →
        (c.iqw = true ∧ phase = 0 ∨ l.residue = residueOf l.values ∧ r.residue = residueOf r.values) →
        let pairs := l.values.zip r.values
        ∃ t out, exec (.nodeCombine h entry cell) s = .next t ∧ t.red.outputs = s.red.outputs ++ [out] ∧ out.entry = key ∧ out.phase = phase ∧ out.cell = cell ∧
          out.doneAt = s.nowPs + 12000 ∧ out.poison = (l.poison || r.poison) ∧ (t.chanRun ch).started = run.started ++ [(key, phase, cell)] ∧
          (phase ≠ 0 → out.values = pairs.map (fun p => max p.1 p.2) ∧ out.residue = residueOf out.values) ∧
          (phase = 0 → c.iqw = true →
            out.residue = (l.residue + r.residue) % 65535 ∧
            (n.root = false → out.values = pairs.map (fun p => p.1 + p.2) ∧ out.finite = (l.finite && r.finite)) ∧
            (n.root = true → out.values = pairs.map (fun p => (iqwResult (Tab.get 0 run.exps (2 ^ 20 * key + cell)) (p.1 + p.2)).1))) ∧
          (phase = 0 → c.iqw = false → out.residue = residueOf out.values ∧
            (n.root = true → out.values = pairs.map (fun p => (((f32 ((c.widen p.1).add (c.widen p.2))).toNat : Nat) : Int))) ∧
            (n.root = false → out.values = pairs.map (fun p => (c.narrow (Val.ofF32 (f32 ((c.widen p.1).add (c.widen p.2))))).1))) ∧
          (∀ x ∈ t.red.store, x ∈ s.red.store ∧ ¬ (x.entry = key ∧ x.phase = phase ∧ x.cell = cell ∧ (x.input = 0 ∨ x.input = 1))) ∧
          t.mem = s.mem ∧ t.fab = s.fab ∧ t.ops = s.ops ∧ t.strands = s.strands) ∧
      (s.tripped = true ∨ s.red.outputs.find? (fun x => x.entry == key && x.cell == cell && decide (x.doneAt ≤ s.nowPs)) = none →
        exec (.nodeOutputComplete h entry cell) s = .next s) ∧
      (∀ x, s.tripped = false → s.red.outputs.find? (fun x => x.entry == key && x.cell == cell && decide (x.doneAt ≤ s.nowPs)) = some x →
        ∃ t, exec (.nodeOutputComplete h entry cell) s = .next t ∧ t.red.outputs = s.red.outputs.erase x ∧ t.mem = s.mem ∧
          (x.phase = 0 → t.fld st 63 32 = (s.fld st 63 32 + 1) % 2 ^ 32) ∧
          (n.root = false → n.outFlow ≠ 0xFFFF → s.armed 0x10 c.half.index = false →
            queued t x.phase x.values x.residue x.finite x.poison ∧ (∀ j, j ≠ n.outFlow → t.flow j = s.flow j) ∧ t.ops = s.ops) ∧
          (∀ k right, n.root = false → n.outFlow = 0xFFFF → s.consumer key ch = some (k, right) →
            t.red.store = s.red.store ++ [{ x with entry := k, input := if right then 1 else 0 }] ∧ t.fab = s.fab ∧ t.ops = s.ops) ∧
          (n.root = true → x.phase = 0 → t.ops.length = s.ops.length + 1 ∧ (∃ o ∈ t.ops, Effect.rootCell ch x.cell ∈ o.effects) ∧ t.fab = s.fab ∧
            (x.finite = false → t.fld (.redStepStatus c.half) 0 0 = 0 ∧ t.fld (.redCause c.half) 1 1 = 1)))

/-- R285, R306, R307, R310, R311: a root whose shard is written adds 1 to its DONE_COUNTER and sends the shard and the signal that covers it to its
mirror; the deadline of a backed-up input settles which copy its node uses; a REDUCE cell commits into the input store of its half or is discarded and
counted. -/
def Obligations.ReductionEdges : Prop :=
  ∀ s : State,
    (∀ (h : Half) (entry : Fin 4096) (n : Node) (c : Channel),
      let key := 4096 * h.index + entry.val
      let ch := n.channel
      let armed := s.fld (.redChanState c.half (Fin.ofNat 256 ch)) 1 1 = 1 ∧ s.tripped = false
      let run := s.chanRun ch
      s.node key = some n → s.channel ch = some c →
        (let written := ∀ i < n.count c, n.first c + i ∈ run.written
        (¬ (n.root = true ∧ armed ∧ written ∧ run.mirrored = false) → exec (.rootShardDone h entry) s = .next s) ∧
        (n.root = true → armed → written → run.mirrored = false →
          ∃ t, exec (.rootShardDone h entry) s = .next t ∧ Tab.get 0 t.signals (1024 * c.proxy + c.doneCounter) = Tab.get 0 s.signals (1024 * c.proxy + c.doneCounter) + 1 ∧
            (∀ j, j ≠ 1024 * c.proxy + c.doneCounter → Tab.get 0 t.signals j = Tab.get 0 s.signals j) ∧ t.mem = s.mem ∧ t.ops = s.ops ∧
            (∀ j, j ≠ c.mirrorFlow → t.flow j = s.flow j) ∧ (c.mirrorFlow = 0xFFFF → t.fab = s.fab) ∧
            (∀ v, c.mirrorFlow ≠ 0xFFFF → s.view c.proxy c.result = some v →
              (t.flow c.mirrorFlow).queue.length = (s.flow c.mirrorFlow).queue.length + 256 * n.shardTiles + 1 ∧
              ∃ last, (t.flow c.mirrorFlow).queue.getLast? = some last ∧ last.cell.kind = 6 ∧ last.cell.payload = [1, 0, 0, 0, 0, 0, 0, 0]))) ∧
        (∀ (right : Bool) (cell arm : Nat), run.armAt = some arm →
          let i := if right then n.in1 else n.in0
          let idx := if right then 1 else 0
          let due := (arm + n.deadline) * 1000 + (cell - n.first c) * c.cellPitch * 100 ≤ s.nowPs
          let mine := s.tripped = false ∧ n.level ≠ 0 ∧ i.remote = true ∧ i.backup ≠ 0xFFFF ∧ n.first c ≤ cell ∧ cell < n.first c + n.count c
          let here := s.red.store.filter fun x => x.entry == key && x.input == idx && x.phase == 0 && x.cell == cell
          let settles (t : State) (how : Nat) : Prop :=
            exec (.backupDeadline h entry right cell) s = .next t ∧ (t.chanRun ch).settled = run.settled ++ [(2 * key + idx, 0, cell, how)] ∧
              t.red.store = s.red.store ∧ t.mem = s.mem ∧ t.ops = s.ops ∧ t.fab = s.fab
          (¬ (due ∧ mine) → exec (.backupDeadline h entry right cell) s = .next s) ∧
          (due → mine → c.iqw = false → (key, 0, cell) ∉ run.started → (∀ x ∈ run.settled, ¬ (x.1 = 2 * key + idx ∧ x.2.1 = 0 ∧ x.2.2.1 = cell)) →
            (∀ p b, here.find? (fun x => !x.backup) = some p → here.find? (fun x => x.backup) = some b → p.values ≠ b.values →
              ∃ t, settles t 0 ∧ t.fld (.redCause c.half) 5 5 = 1 ∧ (t.fld .detStatus 9 9 = 1 ∨ 9 ∈ t.run.detDue)) ∧
            (∀ p, here.find? (fun x => !x.backup) = some p → s.armed 0x11 c.half.index = false →
              (∀ b, here.find? (fun x => x.backup) = some b → p.values = b.values) → ∃ t, settles t 0 ∧ t.regs = s.regs ∧ t.log = s.log) ∧
            (∀ b, here.find? (fun x => !x.backup) = none → here.find? (fun x => x.backup) = some b →
              ∃ t, settles t 1 ∧ t.fld (.redCount c.half) 63 48 = min 65535 (s.fld (.redCount c.half) 63 48 + 1) ∧ t.fld (.redCause c.half) 4 4 = 1 ∧
                (t.fld .detStatus 6 6 = 1 ∨ 6 ∈ t.run.detDue)) ∧
            (here = [] → ∃ t, settles t 2 ∧ t.fld (.redCount c.half) 47 32 = min 65535 (s.fld (.redCount c.half) 47 32 + 1) ∧ t.fld (.redCause c.half) 3 3 = 1)))) ∧
    (∀ (quay : Fin 48) (bytes : List Byte),
      let x := cellOfBytes bytes
      let f := s.flow x.rxFlow
      let g := quayHalf quay.val
      let taken : Flow := { f with seq := x.seq, ackDue := some (f.ackDue.getD s.nowPs) }
      let at_ := s.leftSlot s.nowPs (stampOf s.nowPs) (linkOf bytes)
      let e := s.rxEntry quay.val at_.1
      (bytes.length ≠ 320 → exec (.reduceCellCommit quay bytes) s = .fault .cellSize) ∧
      (bytes.length = 320 → x.kind ≠ 0x0B → exec (.reduceCellCommit quay bytes) s = .next s.attend) ∧
      (bytes.length = 320 → x.kind = 0x0B → e2eOk bytes = true → f.role = 2 → f.peerChip = x.srcChip → f.broken = false → s.entryWrong e x = false →
        (s.cycleWrong quay.val at_.2 (entryKind e == 2) x).1 = false → f.above = [] → f.seq < 2 ^ 32 →
        x.seq = (f.seq + 1) % 2 ^ 32 → s.fab.signals = [] → (∀ j, (s.quay j).heldCells = []) →
        ((∀ p ∈ s.redPorts g x.rxFlow, s.redFits g x p = false) →
          ∃ t : State, exec (.reduceCellCommit quay bytes) s = .next t.attend ∧ t.fld (.redCount g) 15 0 = min 65535 (s.fld (.redCount g) 15 0 + 1) ∧
            t.fld (.redCause g) 6 6 = 1 ∧ t.red = s.red ∧ t.mem = s.mem ∧ t.flow x.rxFlow = taken) ∧
        (∀ p n c, (s.redPorts g x.rxFlow).find? (fun q => s.redFits g x q) = some p → s.node p.key = some n → s.channel n.channel = some c → p.input ≠ 2 →
          (s.armedNow c n.channel = true ∨ s.doneNow c n.channel = true) → (p.key, fieldOf x.arg 40 39, x.addr % 2 ^ 32) ∈ (s.chanRun n.channel).started →
          ∃ t : State, exec (.reduceCellCommit quay bytes) s = .next t.attend ∧ t.fld (.redCount g) 15 0 = min 65535 (s.fld (.redCount g) 15 0 + 1) ∧
            t.red = s.red ∧ t.mem = s.mem ∧ t.flow x.rxFlow = taken) ∧
        (∀ p n, (s.redPorts g x.rxFlow).find? (fun q => s.redFits g x q) = some p → s.node p.key = some n → p.input ≠ 2 →
          (p.key, fieldOf x.arg 40 39, x.addr % 2 ^ 32) ∉ (s.chanRun n.channel).started →
          (s.red.store.filter fun z => nodeHalf z.entry == g && z.srcChip != s.fab.chip).length < 8192 →
          ∃ (t : State) (y : RedCell), exec (.reduceCellCommit quay bytes) s = .next t.attend ∧ t.red = { s.red with store := s.red.store ++ [y] } ∧ y.entry = p.key ∧ y.input = p.input ∧
            y.backup = p.backup ∧ y.cell = x.addr % 2 ^ 32 ∧ y.phase = fieldOf x.arg 40 39 ∧ y.residue = fieldOf x.arg 15 0 ∧ y.srcChip = x.srcChip ∧
            t.mem = s.mem ∧ t.flow x.rxFlow = taken ∧ (∀ j, j ≠ x.rxFlow → t.flow j = s.flow j))))

/-- R368, R371, R372, R388: the reply of a command. Its 64 bytes are at the tail of the reply ring with echo, result, state and length; data above 48
bytes is in the reply buffer; RPL_TAIL advances, the phase turns at the end of the ring and MB_REPLY is set unless the command asked for no interrupt.
A failed write of the entry stops the mailbox; a mailbox that is not served gets none. -/
def Obligations.ReplyWritten : Prop :=
  ∀ (s : State) (d : Desc) (opcode result : Nat) (data : List Byte),
    let t := s.reply d opcode result data
    let at_ := (s.reg (.mbRplBase d.mb)).toNat / 4096 * 4096 + 64 * (s.rplTail d.mb % s.mbSize d.mb)
    let phase := s.host.phase.getD d.mb.val true
    let long := 48 < data.length
    let entry (res len : Nat) (inBuffer : Bool) (inline : List Byte) : List Byte :=
      leBytes 1 opcode ++ leBytes 1 ((if phase then 1 else 0) + if inBuffer then 2 else 0) ++ leBytes 2 res ++ leBytes 4 d.tag.toNat ++
        leBytes 1 s.dev.state.code ++ leBytes 1 0 ++ leBytes 2 0 ++ leBytes 4 len ++ inline ++ List.replicate (48 - inline.length) 0
    let written (res len : Nat) (inBuffer : Bool) (inline : List Byte) : Prop :=
      Tab.getMany 0 t.host.mem at_ 64 = entry res len inBuffer inline ∧ t.rplTail d.mb = (s.rplTail d.mb + 1) % 65536 ∧
        t.cmdHead d.mb = s.cmdHead d.mb ∧ t.host.phase.getD d.mb.val true = (if (s.rplTail d.mb + 1) % s.mbSize d.mb = 0 then !phase else phase) ∧
        (bitOf d.flags.toNat 1 = false → t.fld .hmCause d.mb.val d.mb.val = 1) ∧ (bitOf d.flags.toNat 1 = true → t.reg .hmCause = s.reg .hmCause)
    (s.mbEnabled d.mb = true → s.mbStopped d.mb = false → d.replyOk = true → s.host.phase.length = 4 →
      (¬ long → written result data.length false data) ∧
      (long → d.bufOk = true → written result data.length true [] ∧
        ((d.replyAddr + data.length ≤ at_ ∨ at_ + 64 ≤ d.replyAddr) → Tab.getMany 0 t.host.mem d.replyAddr data.length = data)) ∧
      (long → d.bufOk = false → written 0x17 0 false [])) ∧
    (s.mbEnabled d.mb = true → s.mbStopped d.mb = false → d.replyOk = false →
      t.mbStopped d.mb = true ∧ t.fld (.mbStatus d.mb) 7 4 = 3 ∧ t.fld .hmCause (4 + d.mb.val) (4 + d.mb.val) = 1 ∧ t.rplTail d.mb = s.rplTail d.mb) ∧
    ((s.mbEnabled d.mb = false ∨ s.mbStopped d.mb = true) →
      t.host = s.host ∧ t.reg (.mbStatus d.mb) = s.reg (.mbStatus d.mb) ∧ t.reg .hmCause = s.reg .hmCause) ∧
    t.mem = s.mem ∧ t.strands = s.strands ∧ t.dev = s.dev ∧ t.ops = s.ops ∧ t.fab = s.fab ∧ t.plan = s.plan

/-- R372, R373, R375, R376: the checks on every command, in their order. The first failing row decides the reply, and a refusal changes nothing except the
reply ring and CMD_HEAD. -/
def Obligations.CommandRefusals : Prop :=
  ∀ (s : State) (c : Instr) (d : Desc) (op : Nat) (image : HostImage), pilotRow c = some (d, op, image) → Takes s d → Quiet s →
    let refused (code legal : Nat) (data : List Byte) : Prop := exec c s = .next ((taken s d).replyWith d op code legal none data)
    let early := op = 0x01 ∨ op = 0x02 ∨ op = 0x03
    (s.host.proto = 0 → ¬ early → refused 0x13 0 []) ∧
    ∀ i, cmdInfo op = some i → (early ∨ s.host.proto ≠ 0) →
      (i.v3 = true → s.host.proto = 2 → refused 0x10 0 []) ∧
      ((i.v3 = true → s.host.proto ≠ 2) →
        (d.badBits = true → refused 0x11 0 []) ∧
        (d.badBits = false →
          ((d.payloadLen ≠ i.size ∨ d.isIndirect = false ∧ 40 < d.payloadLen) → refused 0x12 0 []) ∧
          (d.payloadLen = i.size → (d.isIndirect = false → d.payloadLen ≤ 40) →
            (d.isIndirect = true → d.payload = none → refused 0x17 0 []) ∧
            ((d.isIndirect = true → d.payload ≠ none) →
              ((bodyOf op image).reserved (taken s d) d.bytes = true → refused 0x11 0 []) ∧
              ((bodyOf op image).reserved (taken s d) d.bytes = false → op ≠ 0x07 →
                (bitOf i.legal s.dev.state.code = false → refused 0x14 i.legal []) ∧
                (∀ r, bitOf i.legal s.dev.state.code = true → s.dev.state ≠ .fault → s.host.busy = some r → i.kind ≠ .q →
                  refused 0x15 0 ([BitVec.ofNat 8 r.opcode, BitVec.ofNat 8 r.mb.val, 0, 0] ++ leBytes 4 r.tag.toNat)))))))

/-- R374, R383, R395, R442, R385, R242, R455, R464: HELLO fixes the protocol, and the queries reply with what they show and change nothing else. -/
def Obligations.QueriesReply : Prop :=
  ∀ (s : State) (d : Desc),
    let u := taken s d
    let p := d.bytes
    (∀ v : Nat, Accepts s d 2 0x7F8 → s.host.busy = none → s.host.proto = 0 → (v = 3 ∨ v = 2) → fieldAt p 0 1 ≤ v → v ≤ fieldAt p 1 1 →
      (v = 2 → fieldAt p 1 1 = 2) →
      Done (.hello d) s d 0x01 { u with host := { u.host with proto := v } } (leBytes 1 v ++ leBytes 3 0 ++ leBytes 4 s.sec.fwVersion)) ∧
    (Accepts s d 2 0x7F8 → s.host.busy = none → s.host.proto ≠ 0 →
      (fieldAt p 0 1 ≤ s.host.proto → s.host.proto ≤ fieldAt p 1 1 →
        Done (.hello d) s d 0x01 u (leBytes 1 s.host.proto ++ leBytes 3 0 ++ leBytes 4 s.sec.fwVersion)) ∧
      (¬ (fieldAt p 0 1 ≤ s.host.proto ∧ s.host.proto ≤ fieldAt p 1 1) → exec (.hello d) s = .next (u.reply d 0x01 0x0101 []))) ∧
    (Accepts s d 0 0x7F8 → Quiet s → Holds d 352 → Done (.identify d) s d 0x02 u s.identity) ∧
    (Accepts s d 0 0x7F8 → Quiet s → Holds d 80 → Done (.status d) s d 0x03 u u.statusData) ∧
    (Queried s d 0 0x7F8 false 192 → Done (.telemetry d) s d 0x43 u.telemetryData.2 u.telemetryData.1) ∧
    (Queried s d 1 0x7F8 false 512 → fieldAt p 0 1 < 4 → Done (.chartRead d) s d 0x04 u ((s.chartAt (fieldAt p 0 1)).image (fieldAt p 0 1))) ∧
    (Queried s d 0 0x7F8 false (8 + 8 * s.main.retired.length) →
      Done (.memRetireList d) s d 0x3A u (leBytes 8 s.main.retired.length ++ s.main.retired.flatMap fun n => leBytes 8 (n * 0x40000))) ∧
    (Queried s d 6 0x3F0 true 168 →
      let chip := if fieldAt p 4 2 = 0xFFFF then s.fab.chip else fieldAt p 4 2
      (s.manifestNo (fieldAt p 0 4) = none → exec (.manifestQuery d) s = .next (u.reply d 0x34 0x0604 [])) ∧
      (∀ m, s.manifestNo (fieldAt p 0 4) = some m →
        (∀ data, s.queryData m chip = some data → Done (.manifestQuery d) s d 0x34 u data) ∧
        (s.queryData m chip = none → exec (.manifestQuery d) s = .next (u.reply d 0x34 0x011F [])))) ∧
    (Accepted s d 16 0x7F8 false → fieldAt p 0 1 = 1 → fieldAt p 3 1 = 0 → Holds d (64 * (u.logExpire fun _ => true).log.pins.length) →
      Done (.logReadPins d) s d 0x40 (u.logExpire fun _ => true) ((u.logExpire fun _ => true).log.pins.flatMap LogRec.bytes)) ∧
    (Accepted s d 32 0x2F0 false → Holds d 80432 → Done (.attest d) s d 0x51 u (u.identityCert ++ u.report p))

/-- R40, R251, R252, R395, R397, R399, R454: the configuration commands. The image of a chart passes a check-value unit of the harbourmaster (which one is the
model's choice, log entry 83). CHART_WRITE stores a valid chart; CHART_SELECT takes the quays that the chart disables down with cause DISABLED, takes the power
and with it the contents of a half that it disables, moves the rails and goes on; TIDE_SET waits for the next pulse; FABRIC_CONFIG sets the own chip, the
expected peers, the asymmetries and the hall, which a quay uses from its next training on; QUAY_TRAIN starts the training of the named quays that the chart
enables. -/
def Obligations.ConfigurationCommands : Prop :=
  ∀ (s : State) (d : Desc),
    let u := taken s d
    let p := d.bytes
    (Accepted s d 576 0x010 false → (∀ i, 1 ≤ i → i < 64 → fieldAt p i 1 = 0) → fieldAt p 0 1 < 4 →
      let n := fieldAt p 0 1
      let img := sliceBytes p 0x40 512
      chartReserved img = false →
      (n = 0 → exec (.chartWrite d) s = .next (u.reply d 0x05 0x0102 [])) ∧
      let k := u.hmCompare 0 (fieldAt img 4 4 == crc32c (img.drop 8)) (img.drop 8)
      let armed := s.armed 0x1B 0x100 = true
      (k.2 = true ↔ fieldAt img 4 4 = crc32c (img.drop 8) ∧ ¬ armed) ∧ k.1.mem = s.mem ∧ k.1.dev = s.dev ∧
      (¬ armed → k.1.fld (.cvuCount 128) 63 32 = min (2 ^ 32 - 1) (s.fld (.cvuCount 128) 63 32 + 1)) ∧
      (n ≠ 0 → (chartOf img n).valid = false ∨ k.2 = false → exec (.chartWrite d) s = .next (k.1.reply d 0x05 0x0103 [])) ∧
      (n ≠ 0 → (chartOf img n).valid = true → k.2 = true →
        Done (.chartWrite d) s d 0x05 { k.1 with dev := { u.dev with stored := u.dev.stored.set (n - 1) (chartOf img n) } } [])) ∧
    (Accepted s d 1 0x010 false → fieldAt p 0 1 < 4 →
      let n := fieldAt p 0 1
      let c := s.chartAt n
      let k := u.hmCompare 0 c.intact ((c.image n).drop 8)
      (c.valid = false ∨ k.2 = false → exec (.chartSelect d) s = .next (k.1.reply d 0x06 0x0103 [])) ∧
      (c.valid = true → k.2 = true → k.1.chartInUse c = true → exec (.chartSelect d) s = .next (k.1.reply d 0x06 0x0104 [])) ∧
      (c.valid = true → k.2 = true → k.1.chartInUse c = false →
        ∃ t, GoesOn (.chartSelect d) s d 0x06 t ∧ t.dev.selecting = some (n, d, d.mb) ∧ t.dev.state = s.dev.state ∧ t.dev.chartNo = s.dev.chartNo ∧
          t.dev.chart.west = (s.dev.chart.west && c.west) ∧ t.dev.chart.east = (s.dev.chart.east && c.east) ∧ t.dev.chart.opPoint = s.dev.chart.opPoint ∧
          (∀ q : Fin 48, t.reg (.quayStatus q) = if c.quayOn q.val then s.reg (.quayStatus q) else 0x10) ∧ t.ops = s.ops ∧
          (∀ a, a < 0x8000000000 → t.byte a = if s.dev.chart.west = true ∧ c.west = false then Memory.unlisted else s.byte a) ∧
          (c.west = false → t.govW.vcore = 5500 ∧ (t.govW.vsram = 7000 ∨ t.govW.sramNext = some 7000)) ∧
          (c.east = false → t.govE.vcore = 5500 ∧ (t.govE.vsram = 7000 ∨ t.govE.sramNext = some 7000)) ∧
          (c.west = true → c.opPoint ≠ s.dev.chart.opPoint → t.govW = s.govW.move (reference c.opPoint).1) ∧
          (c.east = true → c.opPoint ≠ s.dev.chart.opPoint → t.govE = s.govE.move (reference c.opPoint).1))) ∧
    (Accepted s d 8 0x010 false →
      let v := fieldAt p 0 8
      (s.tide.role ≠ .source → exec (.tideSet d) s = .next (u.reply d 0x10 0x0105 [])) ∧
      (s.tide.role = .source → v % 1000000000 ≠ 0 → exec (.tideSet d) s = .next (u.reply d 0x10 0x0106 [])) ∧
      (s.tide.role = .source → v % 1000000000 = 0 → s.tide.ppsPresent = false → exec (.tideSet d) s = .next (u.reply d 0x10 0x0107 [])) ∧
      (s.tide.role = .source → v % 1000000000 = 0 → s.tide.ppsPresent = true → GoesOn (.tideSet d) s d 0x10 { u with tide := { u.tide with pendingSet := some v } })) ∧
    (Accepted s d 8584 0x010 false → (∀ i, 2 ≤ i → i < 8 → fieldAt p i 1 = 0) → (∀ q < 48, fieldAt p (8 + 8 * q + 3) 1 = 0) →
      (fabricConfigOk p = false → exec (.fabricConfig d) s = .next (u.reply d 0x11 0x0108 [])) ∧
      (fabricConfigOk p = true →
        ∃ t, Done (.fabricConfig d) s d 0x11 t [] ∧ t.fab.chip = fieldAt p 0 2 ∧ t.fab.configured = true ∧
          (∀ chip < 65536, chip ∈ t.fab.hall ↔ bitOf (fieldAt p (0x188 + chip / 8) 1) (chip % 8) = true) ∧
          (∀ q : Fin 48, (t.quay q.val).expectChip = fieldAt p (8 + 8 * q.val) 2 ∧ (t.quay q.val).expectQuay = fieldAt p (8 + 8 * q.val + 2) 1 ∧
            (t.reg (.tideAsym q)).toNat = fieldAt p (8 + 8 * q.val + 4) 4 ∧ t.reg (.quayStatus q) = s.reg (.quayStatus q) ∧
            (t.quay q.val).ownChip = (s.quay q.val).ownChip ∧ (t.quay q.val).trainChip = (s.quay q.val).trainChip ∧
            (t.quay q.val).trainQuay = (s.quay q.val).trainQuay ∧ (t.quay q.val).asym = (s.quay q.val).asym) ∧
          t.mem = s.mem ∧ t.fab.flows = s.fab.flows ∧ t.dev = s.dev)) ∧
    (Accepted s d 8 0x0B0 false → fieldAt p 6 2 = 0 →
      let mask := fieldAt p 0 8
      (mask = 0 → exec (.quayTrain d) s = .next (u.reply d 0x12 1 [])) ∧
      ((∃ q < 48, bitOf mask q = true ∧ s.halfOn (quayHalf q) = false) → exec (.quayTrain d) s = .next (u.reply d 0x12 0x0283 [])) ∧
      ((∀ q < 48, bitOf mask q = true → s.halfOn (quayHalf q) = true) → (∃ q < 48, bitOf mask q = true ∧ s.dev.chart.quayOn q = true) →
        ∃ t, GoesOn (.quayTrain d) s d 0x12 t ∧ t.mem = s.mem ∧ t.ops = s.ops ∧
          ∀ q : Fin 48, (bitOf mask q.val = false → t.reg (.quayStatus q) = s.reg (.quayStatus q) ∧ t.quay q.val = s.quay q.val) ∧
            (bitOf mask q.val = true → s.dev.chart.quayOn q.val = true → t.reg (.quayStatus q) = 1 ∧ t.reg (.quayDelay q) = 0 ∧ (t.quay q.val).txSeq = 0 ∧
              (t.quay q.val).rxSeq = 0 ∧ (t.quay q.val).arrived = [] ∧ (t.quay q.val).ownChip = s.fab.chip ∧
              (t.quay q.val).trainChip = (s.quay q.val).expectChip ∧ (t.quay q.val).trainQuay = (s.quay q.val).expectQuay ∧
              (t.quay q.val).asym = s.fld (.tideAsym q) 31 0) ∧
            (bitOf mask q.val = true → s.dev.chart.quayOn q.val = false → t.fld (.quayStatus q) 2 0 = 0 ∧ t.fld (.quayStatus q) 7 4 = 1)))

/-- R56, R58, R59, R378–R381, R384, R402, R403, R482, R483: the commands of a plan's life. A load whose image passes goes on; an unload frees everything of the
plan; RUN starts the plan in LOADED and resumes it, every unissued operation, wait and engine boundary shifted by its delay, in HELD; HOLD and DRAIN stop issue;
RECOVERY is entered and left. The image passes a check-value unit of the harbourmaster (R454; which one is the model's choice, log entry 83). -/
def Obligations.PlanCommands : Prop :=
  ∀ (s : State) (d : Desc),
    let u := taken s d
    let p := d.bytes
    (∀ image, Accepted s d 24 0x010 false → fieldAt p 12 4 = 0 → Holds d 64 →
      let size := fieldAt p 16 8
      let n := fieldAt p 8 4
      let k := u.imageCompare n size image
      (size = 0 ∨ n = 0 → exec (.planLoad d image) s = .next (u.reply d 0x20 1 [])) ∧
      (size ≠ 0 → n ≠ 0 →
        (k.2 = false → exec (.planLoad d image) s = .next (k.1.reply d 0x20 0x180 [0])) ∧
        (∀ e, k.2 = true → k.1.loadCheck n size image = .error e → exec (.planLoad d image) s = .next (k.1.reply d 0x20 e.code e.data)) ∧
        (∀ x, k.2 = true → k.1.loadCheck n size image = .ok x →
          GoesOn (.planLoad d image) s d 0x20 { k.1 with host := { k.1.host with loading := some image } }) ∧
        (k.2 = true → k.1.mem = s.mem ∧ k.1.dev = s.dev ∧ k.1.log = s.log))) ∧
    (Accepted s d 0 0x020 false →
      ∃ t, Done (.planUnload d) s d 0x21 t [] ∧ t.dev = { s.dev with state := .ready } ∧ t.plan = none ∧ t.strands = [] ∧ t.code = [] ∧ t.manifests = [] ∧ t.ops = [] ∧
        t.signals = [] ∧ t.fab.flows = [] ∧ t.red.channels = [] ∧ t.mem = s.mem ∧ t.fld .hmCause 8 8 = 1 ∧ t.sec.measures.getD 5 (List.replicate 64 0) = List.replicate 64 0) ∧
    (∀ plan, Accepted s d 16 0x0A0 false → s.plan = some plan →
      let start := fieldAt p 0 8
      let delta := fieldAt p 8 8
      let ok := s.dev.holdLow = false ∧ s.run.dirty = 0 ∧ (plan.hasFlows = true → s.tideLocked = true)
      (s.dev.state = .loaded → delta = 0 → ok → start % plan.schedule = 0 → s.now + 1000000 ≤ start →
        ∃ t, Done (.run d) s d 0x22 t [] ∧ t.dev = { s.dev with state := .running } ∧ t.run.startAt = some start ∧ t.run.stopFrom = none ∧ t.run.resumeAt = none ∧
          t.run.holdAt = none ∧ t.fab.shiftSum = 0 ∧ t.strands = s.strands ∧ t.mem = s.mem ∧ t.fld .hmCause 8 8 = 1) ∧
      (s.dev.state = .loaded → delta = 0 → ok → start % plan.schedule ≠ 0 → exec (.run d) s = .next (u.reply d 0x22 0x010A [])) ∧
      (s.dev.state = .loaded → delta = 0 → ok → start % plan.schedule = 0 → start < s.now + 1000000 → exec (.run d) s = .next (u.reply d 0x22 0x010B [])) ∧
      (s.dev.state = .held → start = 0 → ok → delta % plan.schedule = 0 → u.slipHolds = false → s.now + 1000000 ≤ (s.reg .stopSched).toNat + delta →
        ∃ t, Done (.run d) s d 0x22 t [] ∧ t.dev = { s.dev with state := .running } ∧ t.run.resumeAt = some ((s.reg .stopSched).toNat + delta, delta) ∧
          t.run.stopFrom = s.run.stopFrom ∧ t.mem = s.mem ∧ t.ops = s.ops ∧
          t.strands = s.strands.map (fun e => (e.1,
            { e.2 with wait := e.2.wait.map fun w => { w with since := w.since + delta, due := if w.due = 0 then 0 else w.due + delta }
                       notBefore := if e.2.status = .ready then (if e.2.notBefore ≤ s.run.heldAt.getD 0 + s.period then max e.2.notBefore (s.run.stopFrom.getD 0)
                           else s.run.stopFrom.getD 0) + delta
                         else e.2.notBefore })) ∧
          t.run.shifts = s.run.shifts ++ [((s.reg .stopSched).toNat, delta)] ∧
          t.easelFree = s.easelFree.map (fun e => (e.1, e.2 + delta)) ∧ t.bankFree = s.bankFree.map (fun e => (e.1, e.2 + delta)) ∧
          t.pipeFree = s.pipeFree.map (fun e => (e.1, e.2 + delta)) ∧ t.varnishFree = s.varnishFree.map (fun e => (e.1, e.2 + delta)) ∧
          t.vectorFree = s.vectorFree.map (fun e => (e.1, e.2 + delta)) ∧
          t.fab.shiftSum = s.fab.shiftSum + delta / max 1 plan.fabricCycle) ∧
      (s.dev.state = .held → start = 0 → ok → delta % plan.schedule = 0 → u.slipHolds = true → exec (.run d) s = .next (u.reply d 0x22 0x010D []))) ∧
    (Accepted s d 8 0x040 false →
      let at_ := fieldAt p 0 8
      (at_ ≠ 0 → at_ < s.now + 100000 → exec (.hold d) s = .next (u.reply d 0x23 0x010F [])) ∧
      ((at_ = 0 ∨ s.now + 100000 ≤ at_) →
        GoesOn (.hold d) s d 0x23 { u with run := { u.run with holdAt := some (if at_ = 0 then s.boundaryAt (s.now + 1) else s.boundaryAt at_, 0x0400) } })) ∧
    (Accepted s d 0 0x0C0 false →
      ∃ t, GoesOn (.drain d) s d 0x24 t ∧ t.dev = { s.dev with state := .draining } ∧ t.run.stopFrom = some (s.run.stopFrom.getD (s.boundaryAt (s.now + 1))) ∧ t.run.drainFrom = some s.now ∧
        t.run.startAt = none ∧ t.run.resumeAt = none ∧ t.run.holdAt = none ∧ t.strands = s.strands.map (fun e => (e.1, e.2.drained)) ∧ t.ops = s.ops ∧ t.mem = s.mem) ∧
    (Accepted s d 0 0x020 true →
      ∃ t, Done (.recoverEnter d) s d 0x25 t [] ∧ t.dev = { s.dev with state := .recovery } ∧ t.mem = s.mem ∧ t.strands = s.strands ∧ t.plan = s.plan ∧
        t.sec.measures = s.sec.measures.set 7 (Config.shake256 (s.sec.measures.getD 7 [] ++ [0x25, 0, 0, 0, 0, 0, 0, 0] ++ leBytes 8 s.now))) ∧
    (∀ plan, Accepted s d 0 0x200 true → s.plan = some plan →
      ∃ t, Done (.recoverExit d) s d 0x26 t [] ∧ t.dev = { s.dev with state := .loaded } ∧ t.plan = some plan ∧ t.strands = [] ∧ t.signals = [] ∧ t.ops = [] ∧
        t.run.dirty = 0 ∧ t.fab = s.fab) ∧
    (Accepted s d 26 0x200 true →
      let dst := fieldAt p 0 8
      let src := fieldAt p 8 8
      let len := fieldAt p 16 8
      let flow := fieldAt p 24 2
      let v := u.measureEvent 0x27
      (len = 0 → exec (.recoverCopy d) s = .next (u.reply d 0x27 1 [])) ∧
      (len ≠ 0 → s.allocHolds dst len = false → exec (.recoverCopy d) s = .next (u.reply d 0x27 0x0113 [])) ∧
      (len ≠ 0 → s.allocHolds dst len = true → flow = 0xFFFF →
        exec (.recoverCopy d) s = .next ((v.localCopy dst src len).1.reply d 0x27 (if (v.localCopy dst src len).2 then 0x0616 else 0) (leBytes 8 len))) ∧
      (len ≠ 0 → s.allocHolds dst len = true → flow ≠ 0xFFFF → ((s.flow flow).role ≠ 1 ∨ (s.flow flow).broken = true) →
        exec (.recoverCopy d) s = .next (u.reply d 0x27 0x0320 [])) ∧
      (len ≠ 0 → s.allocHolds dst len = true → flow ≠ 0xFFFF → (s.flow flow).role = 1 → (s.flow flow).broken = false → (∀ o ∈ s.ops, o.strand ≠ copyKey) →
        GoesOn (.recoverCopy d) s d 0x27 (v.remoteCopy flow dst src len)))

/-- R405, R406, R409: RESET. A running L command stops where it stands and replies before RESET does; a PLAN reset then leaves READY without a plan, at the
stroke boundary at or after its reply, a WARM reset VERIFY with its memory, chart and tide kept, a COLD reset BOOT with nothing kept but fuses, firmware and
stored charts, with CHART_SEL sampled anew and the change of state logged from the state in which it fell. -/
def Obligations.ResetCommands : Prop :=
  ∀ (s : State) (d : Desc),
    let v := ((taken s d).finishL 0x0111 []).reply d 0x07 0 []
    s.host.proto ≠ 0 →
    (Accepts s d 1 0x3F0 → fieldAt d.bytes 0 1 = 1 → s.dev.state ≠ .ready → s.tide.running = true → s.atBoundary = false →
      ∃ t, exec (.resetPlan d) s = .next t ∧ t.run.resetAt = some s.boundary ∧ t.dev.state = s.dev.state ∧ t.plan = s.plan ∧ t.strands = s.strands ∧
        t.host.busy = none ∧ t.mem = s.mem ∧ t.host.mem = v.host.mem ∧ t.rplTail d.mb = v.rplTail d.mb) ∧
    (Accepts s d 1 0x3F0 → fieldAt d.bytes 0 1 = 1 → s.dev.state ≠ .ready → s.tide.running = false ∨ s.atBoundary = true →
      ∃ t, exec (.resetPlan d) s = .next t ∧ t.dev = { s.dev with state := .ready, selecting := none } ∧ t.plan = none ∧ t.strands = [] ∧ t.ops = [] ∧ t.fab.flows = [] ∧
        t.host.busy = none ∧ t.mem = v.mem ∧ t.host.mem = v.host.mem ∧ t.rplTail d.mb = v.rplTail d.mb ∧ t.reg .detStatus = 0 ∧ t.reg .stepNumber = 0) ∧
    (Accepts s d 1 0x3F0 → fieldAt d.bytes 0 1 = 1 → s.dev.state = .ready → s.host.busy = none → exec (.resetPlan d) s = .next ((taken s d).reply d 0x07 1 [])) ∧
    (Accepts s d 1 (s.resetLegal 2) → s.dev.state ≠ .fault → fieldAt d.bytes 0 1 = 2 →
      ∃ t, exec (.resetWarm d) s = .next t ∧ t.dev = { s.dev with state := .verify, selecting := none, allocs := [], services := [], warm := true } ∧ t.plan = none ∧
        t.strands = [] ∧ t.host.busy = none ∧ t.host.proto = 0 ∧ t.mem = s.mem ∧ t.tide = { s.tide with pendingSet := none } ∧ t.host.mem = v.host.mem ∧
        (∀ mb, t.mbEnabled mb = false)) ∧
    (∀ pins : Fin 4, Accepts s d 1 0x7F8 → fieldAt d.bytes 0 1 = 3 → s.dev.pins = pins.val →
      ∃ t, exec (.resetCold d) s = .next t ∧ t.dev.state = .boot ∧ t.plan = none ∧ t.mem = [] ∧ t.strands = [] ∧ t.host.busy = none ∧ t.host.proto = 0 ∧
        t.dev.stored = s.dev.stored ∧ t.dev.map = [] ∧ t.sec.slotA = s.sec.slotA ∧ t.sec.slotB = s.sec.slotB ∧ t.sec.rollback = s.sec.rollback ∧
        t.tide.count = s.tide.count ∧ t.host.mem = v.host.mem ∧ t.dev.sampled = pins.val ∧
        (∃ r ∈ t.log.open_, r.cause = unitCode 13 8 ∧ ∃ tide, r.payload = (payloadOf [s.dev.state.code, DevState.boot.code, 0x07, tide] 0).1) ∧
        (let k := if (s.chartAt pins.val).valid then pins.val else 0
         t.dev.chart = s.chartAt k ∧ t.dev.chartNo = k))

/-- R236, R242, R382: service allocations and manifests, and the erasures and retired pages of main memory. Numbers of allocations are the device's own;
manifests take the lowest free number from 0xFF0000 on. -/
def Obligations.MemoryCommands : Prop :=
  ∀ (s : State) (d : Desc),
    let u := taken s d
    let p := d.bytes
    (Accepted s d 16 0x2B0 false →
      let base := fieldAt p 0 8
      let size := fieldAt p 8 8
      let bad := s.rangeBad base size
      (size = 0 → exec (.allocCreate d) s = .next (u.reply d 0x30 1 [])) ∧
      (size ≠ 0 → Mapped.unmapped ∈ bad → exec (.allocCreate d) s = .next (u.reply d 0x30 0x0409 [])) ∧
      (size ≠ 0 → bad = [] → s.touchesRetired base size = false → s.dev.allocs.length < 64 →
        ∃ t h, Done (.allocCreate d) s d 0x30 t (leBytes 4 h) ∧ h < 2 ^ 32 ∧ (∀ e ∈ s.dev.allocs, e.1 ≠ h) ∧ Tab.find? t.dev.allocs h = some (base, size) ∧
          (∀ k, k ≠ h → Tab.find? t.dev.allocs k = Tab.find? s.dev.allocs k) ∧ t.mem = s.mem ∧ t.dev = { s.dev with allocs := t.dev.allocs }) ∧
      (size ≠ 0 → bad = [] → s.touchesRetired base size = false → 64 ≤ s.dev.allocs.length → exec (.allocCreate d) s = .next (u.reply d 0x30 0x0114 []))) ∧
    (Accepted s d 4 0x2B0 false →
      let h := fieldAt p 0 4
      (Tab.find? s.dev.allocs h = none → exec (.allocFree d) s = .next (u.reply d 0x31 0x0115 [])) ∧
      (∀ a, Tab.find? s.dev.allocs h = some a →
        let used := ∃ e ∈ s.dev.services, a.1 ≤ e.2.allocBase ∧ e.2.allocBase + e.2.allocSize ≤ a.1 + a.2
        (used → exec (.allocFree d) s = .next (u.reply d 0x31 0x0116 [])) ∧
        (¬ used → Done (.allocFree d) s d 0x31 { u with dev := { u.dev with allocs := Tab.erase s.dev.allocs h } } []))) ∧
    (Accepted s d 192 0x2B0 false →
      let m := manifestOf p
      let cause := u.manifestCause u.manifestNo (Tab.find? u.grids) u.allowedRange m
      (u.recordRegionOff p = true → exec (.manifestCreate d) s = .next (u.reply d 0x32 0x040A [])) ∧
      (∀ c, u.recordRegionOff p = false → manifestReserved p = false → cause = some c → exec (.manifestCreate d) s = .next (u.reply d 0x32 c [])) ∧
      let v := u.senseMap m
      (m.stencilled = false → v = u) ∧ v.mem = s.mem ∧ v.dev = s.dev ∧
      (u.recordRegionOff p = false → manifestReserved p = false → cause = none → s.dev.services.length < 1024 →
        ∃ n, 0xFF0000 ≤ n ∧ (∀ e ∈ s.dev.services, e.1 ≠ n) ∧ (∀ k, 0xFF0000 ≤ k → k < n → ∃ e ∈ s.dev.services, e.1 = k) ∧
          Done (.manifestCreate d) s d 0x32 { v with dev := { v.dev with services := Tab.put s.dev.services n m } } (leBytes 4 n))) ∧
    (Accepted s d 4 0x2B0 false →
      let n := fieldAt p 0 4
      (Tab.find? s.dev.services n = none → exec (.manifestDestroy d) s = .next (u.reply d 0x33 0x0604 [])) ∧
      (∀ m, Tab.find? s.dev.services n = some m →
        Done (.manifestDestroy d) s d 0x33 { u with dev := { u.dev with services := Tab.erase s.dev.services n } } [])) ∧
    (Accepted s d 3 0x0F0 true →
      let pkg := fieldAt p 0 1
      let lane := fieldAt p 1 1
      let bank := fieldAt p 2 1
      let h : Half := if pkg < 18 then .west else .east
      let entry := 2 ^ 31 + pkg * 2 ^ 16 + (if lane = 0xFF then 2 ^ 8 else lane * 2 ^ 9) + (if bank = 0xFF then 2 ^ 3 else bank * 2 ^ 4)
      let used := ((List.range 8).filter fun i => bitOf (u.eraseEntry h i) 31).length + (u.waitingErase h).length
      pkg < 36 → (lane < 8 ∨ lane = 0xFF) → (bank < 16 ∨ bank = 0xFF) →
        ((∃ x ∈ u.erasedSoon (pkg / 9), x ≠ pkg) → exec (.memErase d) s = .next (u.reply d 0x38 0x0120 [])) ∧
        ((∀ x ∈ u.erasedSoon (pkg / 9), x = pkg) → 8 ≤ used → exec (.memErase d) s = .next (u.reply d 0x38 0x0121 [])) ∧
        ((∀ x ∈ u.erasedSoon (pkg / 9), x = pkg) → used < 8 → s.halfOn h = true →
          ∃ t, Done (.memErase d) s d 0x38 t [] ∧ t.main = { s.main with marks := s.main.marks ++ [(1, h.index, entry)] } ∧ t.mem = s.mem ∧ t.dev = s.dev)) ∧
    (Accepted s d 8 0x010 false →
      let a := fieldAt p 0 8
      let meets (base size : Nat) : Prop := base < a + 0x40000 ∧ a < base + size
      let used := (∃ e ∈ s.dev.allocs, meets e.2.1 e.2.2) ∨ (∃ e ∈ s.dev.services, meets e.2.allocBase e.2.allocSize)
      ((a % 0x40000 ≠ 0 ∨ 0x10000000000 ≤ a) → exec (.memRetirePage d) s = .next (u.reply d 0x39 0x0122 [])) ∧
      (a % 0x40000 = 0 → a < 0x10000000000 → used → exec (.memRetirePage d) s = .next (u.reply d 0x39 0x0123 [])) ∧
      (a % 0x40000 = 0 → a < 0x10000000000 → ¬ used → a / 0x40000 ∈ s.main.retired → Done (.memRetirePage d) s d 0x39 u []) ∧
      (a % 0x40000 = 0 → a < 0x10000000000 → ¬ used → a / 0x40000 ∉ s.main.retired → s.main.retired.length < 1024 →
        ∃ t, Done (.memRetirePage d) s d 0x39 t [] ∧ (∀ x, x ∈ t.main.retired ↔ x = a / 0x40000 ∨ x ∈ s.main.retired) ∧
          t.main = { s.main with retired := t.main.retired } ∧ t.mem = s.mem ∧ t.dev = s.dev ∧ t.regs = u.regs))

/-- R432, R433, R441, R442, R447, R461, R463–R467: the diagnostic and security commands. LOG_CONFIG sets the ring of the logbook or of the alarms, LOG_CLEAR
empties the pins or the records, TRACE_CONFIG starts a trace with each source's share of the budget, INJECT arms at most 64 detectors; DEBUG_CHALLENGE gives a
fresh nonce that one DEBUG_UNLOCK spends, and ROLLBACK_ADVANCE raises the rollback counter to the running firmware's version, of which a loss of power part-way
leaves the fuses already blown. A power-good input and a trip comparator, which are always examined, act on an injection at once. -/
def Obligations.DiagnosticCommands : Prop :=
  ∀ (s : State) (d : Desc),
    let u := taken s d
    let p := d.bytes
    (Accepted s d 16 0x7F8 false → fieldAt p 3 1 = 0 → fieldAt p 0 1 = 0 →
      let size := fieldAt p 2 1
      let addr := fieldAt p 8 8
      let ok := fieldAt p 1 1 ≤ 1 ∧ 6 ≤ size ∧ size ≤ 20 ∧ addr % 4096 = 0
      let set (r : HostRing) : HostRing := { r with configured := true, addr := addr, sizeLog2 := size, watermark := fieldAt p 4 4 }
      (¬ ok → exec (.logSetRing d) s = .next (u.reply d 0x40 0x0128 [])) ∧
      (ok → ∃ t, Done (.logSetRing d) s d 0x40 t [] ∧
        t.log = (if fieldAt p 1 1 = 0 then { s.log with logRing := set s.log.logRing } else { s.log with alarmRing := set s.log.alarmRing }) ∧
        t.reg (.ringHead (if fieldAt p 1 1 = 0 then 0 else 1)) = 0 ∧ t.reg (.ringTail (if fieldAt p 1 1 = 0 then 0 else 1)) = 0 ∧ t.mem = s.mem)) ∧
    (Accepted s d 1 0x7F8 false → fieldAt p 0 1 < 4 →
      let pins := bitOf (fieldAt p 0 1) 0
      let recs := bitOf (fieldAt p 0 1) 1
      let v := u.logExpire fun _ => true
      let kept := if v.log.logRing.configured then v.log.mirrored else 0
      let gone := if recs then (v.log.ring.filter fun r => decide (kept ≤ r.seq)).length else 0
      ∃ t, Done (.logClear d) s d 0x41 t (leBytes 4 (if pins then v.log.pins.length else 0) ++ leBytes 4 gone) ∧ t.log.nextSeq = v.log.nextSeq + 1 ∧
        (pins = true → t.log.pins.length = 1) ∧ (∃ r ∈ t.log.ring, r.cause = 0x040E ∧ r.seq = v.log.nextSeq) ∧ t.log.open_ = v.log.open_ ∧
        (recs = true → ∀ r ∈ t.log.ring, r.seq < kept ∨ r.cause = 0x040E) ∧ t.log.alarms = s.log.alarms ∧ t.mem = s.mem ∧ t.dev = s.dev) ∧
    (Accepted s d 40 0x0B0 false → fieldAt p 0 8 % 4096 = 0 → fieldAt p 10 6 = 0 →
      let size := fieldAt p 8 1
      let mask := fieldAt p 9 1
      let cores := fieldAt p 16 16
      let ok := 6 ≤ size ∧ size ≤ 24 ∧ fieldAt p 38 2 = 0 ∧ ∀ c < 128, bitOf cores c = true → s.coreExists c = true
      let share := s.dev.chart.traceBudget / max 1 ((List.range 8).filter fun i => bitOf mask i).length
      (¬ ok → exec (.traceConfig d) s = .next (u.reply d 0x42 0x0129 [])) ∧
      (ok → ∃ t, Done (.traceConfig d) s d 0x42 t ((List.range 8).flatMap fun i => leBytes 4 (if bitOf mask i then share else 0)) ∧
        t.log.trace.sources = mask ∧ t.log.trace.coreMask = cores ∧ t.log.trace.quayMask = fieldAt p 32 6 ∧ t.log.trace.ring.addr = fieldAt p 0 8 ∧
        t.log.trace.ring.sizeLog2 = size ∧ t.log.trace.ring.configured = true ∧ t.log.trace.bufs.length = 8 ∧ (∀ b ∈ t.log.trace.bufs, b.recs = []) ∧
        t.log.open_ = s.log.open_ ∧ t.log.ring = s.log.ring ∧ t.mem = s.mem ∧ t.dev = s.dev)) ∧
    (Accepted s d 8 0x0B0 false →
      let id := fieldAt p 0 2
      let scope := fieldAt p 2 2
      let n := fieldAt p 4 4
      let known := ∃ a ∈ s.log.armings, a.1 = id ∧ a.2.1 = scope
      (n = 0 → exec (.inject d) s = .next (u.reply d 0x50 1 [])) ∧
      (n ≠ 0 → (id = 0 ∨ 0x1F < id) → exec (.inject d) s = .next (u.reply d 0x50 0x0125 [])) ∧
      (n ≠ 0 → id ≠ 0 → id ≤ 0x1F → s.scopeOk id scope = false → exec (.inject d) s = .next (u.reply d 0x50 0x0126 [])) ∧
      (n ≠ 0 → id ≠ 0 → id ≤ 0x1F → s.scopeOk id scope = true → ¬ known → 64 ≤ s.log.armings.length →
        exec (.inject d) s = .next (u.reply d 0x50 0x0127 [])) ∧
      (n ≠ 0 → id = 0x1E → s.scopeOk id scope = true → (known ∨ s.log.armings.length < 64) →
        ∃ t, Done (.inject d) s d 0x50 t [] ∧ (∀ a ∈ t.log.armings, a ∈ s.log.armings ∧ ¬ (a.1 = id ∧ a.2.1 = scope)) ∧
          (∃ a ∈ t.log.alarms, a.cause = 0x0403) ∧ t.dev = s.dev ∧ t.mem = s.mem) ∧
      (n ≠ 0 → id = 0x1F → s.scopeOk id scope = true → (known ∨ s.log.armings.length < 64) →
        ∃ t, exec (.inject d) s = .next t ∧ t.tripped = true ∧ (if scope = 0 then t.dev.tripW = true else t.dev.tripE = true) ∧ t.ops = [] ∧
          t.dev.selecting = none ∧ t.rplTail d.mb = (u.reply d 0x50 0 []).rplTail d.mb ∧ t.mem = s.mem) ∧
      (n ≠ 0 → id ≠ 0 → id < 0x1E → s.scopeOk id scope = true → (known ∨ s.log.armings.length < 64) →
        ∃ t, Done (.inject d) s d 0x50 t [] ∧ (id, scope, n) ∈ t.log.armings ∧
          (∀ a, ¬ (a.1 = id ∧ a.2.1 = scope) → (a ∈ t.log.armings ↔ a ∈ s.log.armings)) ∧ t.mem = s.mem ∧ t.dev = s.dev ∧ t.strands = s.strands)) ∧
    (Accepted s d 0 0x010 false → Holds d 64 →
      ∃ t c, Done (.debugChallenge d) s d 0x52 t c ∧ t.sec = { s.sec with challenge := some c } ∧ c.length = 64 ∧ c.drop 32 = sliceBytes s.sec.serial 0 16 ++
        leBytes 1 s.sec.rollback ++ List.replicate 15 0 ∧ t.mem = s.mem ∧ t.dev = s.dev) ∧
    (Accepted s d 29984 0x010 false → (∀ i, 128 ≤ i → i < 192 → fieldAt p i 1 = 0) →
      let spent : State := { u with sec := { u.sec with challenge := none } }
      (s.sec.debugDisable = true → exec (.debugUnlock d) s = .next (spent.reply d 0x53 0x01C2 [])) ∧
      (s.sec.debugDisable = false → s.sec.challenge = none → exec (.debugUnlock d) s = .next (spent.reply d 0x53 0x01C3 [])) ∧
      (∀ c, s.sec.debugDisable = false → s.sec.challenge = some c →
        (s.tokenOk c p = false → exec (.debugUnlock d) s = .next (spent.reply d 0x53 0x01C4 [])) ∧
        (s.tokenOk c p = true → s.sec.unlocked = true → exec (.debugUnlock d) s = .next (spent.reply d 0x53 1 [])) ∧
        (s.tokenOk c p = true → s.sec.unlocked = false →
          ∃ t, Done (.debugUnlock d) s d 0x53 t [] ∧
            t.sec = { s.sec with challenge := none, unlocked := true, status := t.sec.status, measures := s.sec.measures.set 6 (Config.shake256 p) } ∧
            t.sec.status = ({ s with sec := { s.sec with unlocked := true } } : State).secStatusReg ∧ t.mem = s.mem ∧ t.dev = s.dev))) ∧
    (let to_ := min 64 s.sec.secVersion
     let revoked (i : Nat) : Bool := bitOf s.sec.keyRevoked i || bitOf s.sec.revokeMask i && i != s.sec.keySlot
     (Accepted s d 0 0x010 false →
      (s.sec.keySlot = 3 → exec (.rollbackAdvance ⟨d, none⟩) s = .next (u.reply d 0x54 0x01C1 [])) ∧
      (s.sec.keySlot ≠ 3 → to_ ≤ s.sec.rollback → exec (.rollbackAdvance ⟨d, none⟩) s = .next (u.reply d 0x54 0x01C0 [])) ∧
      (s.sec.keySlot ≠ 3 → s.sec.rollback < to_ → s.sec.keyRevoked < 16 →
        ∃ t, Done (.rollbackAdvance ⟨d, none⟩) s d 0x54 t [BitVec.ofNat 8 to_] ∧ t.sec.rollback = to_ ∧
          (∀ i < 4, bitOf t.sec.keyRevoked i = revoked i) ∧ t.sec.status = t.secStatusReg ∧
          t.sec.slotA = s.sec.slotA ∧ t.sec.slotB = s.sec.slotB ∧ t.mem = s.mem ∧ t.dev = s.dev)) ∧
     (∀ n : Nat, s.dev.state = .ready → s.sec.keySlot ≠ 3 → s.sec.rollback < to_ → s.sec.keyRevoked < 16 →
       ∃ t, exec (.rollbackAdvance ⟨d, some n⟩) s = .next t ∧ t.dev.state = .off ∧ t.sec.rollback = min to_ (s.sec.rollback + n) ∧
         (s.sec.rollback + n ≤ to_ → t.sec.keyRevoked = s.sec.keyRevoked) ∧ (to_ + 4 ≤ s.sec.rollback + n → ∀ i < 4, bitOf t.sec.keyRevoked i = revoked i) ∧
         t.sec.slotA = s.sec.slotA ∧ t.sec.slotB = s.sec.slotB ∧ t.mem = [] ∧ t.plan = none))

/-- R56, R58, R378, R379, R402: the start, the resume and the stop of a plan. At START_TIDE the entry strands are READY at their entries; at STOP_SCHED +
Δ the stop ends; a HOLD stops issue from the next boundary without a cause; when the last operation is visible the device is HELD, with a report of a
slip's stop. -/
def Obligations.RunControl : Prop :=
  ∀ s : State,
    ((s.plan = none ∨ s.run.startAt = none ∨ s.dev.state ≠ .running ∨ s.run.stopFrom.isSome = true ∨ (∃ b, s.run.startAt = some b ∧ s.now < b)) →
      exec .planStart s = .next s) ∧
    (∀ p b, s.plan = some p → s.run.startAt = some b → s.dev.state = .running → b ≤ s.now → s.run.stopFrom = none → (p.entries.map fun e => e.1).Nodup →
      ∃ t, exec .planStart s = .next t ∧ t.run = { s.run with startAt := none } ∧ t.mem = s.mem ∧ t.ops = s.ops ∧ t.regs = s.regs ∧
        (∀ e ∈ p.entries, (t.strand e.1).status = .ready ∧ (t.strand e.1).pc = BitVec.ofNat 15 e.2.1 ∧ (t.strand e.1).notBefore = b ∧ (t.strand e.1).wait = none ∧
          (∀ r, (e.2.2.map fun x => x.1).Nodup → ∀ v, (r, v) ∈ e.2.2 → Tab.get 0 (t.strand e.1).regs r = v)) ∧
        (∀ k, (∀ e ∈ p.entries, e.1 ≠ k) → t.strand k = Strand.idle)) ∧
    (∀ b delta, s.run.resumeAt = some (b, delta) →
      ((s.dev.state = .running ∧ b ≤ s.now) → exec .resumeStart s = .next { s with run := { s.run with stopFrom := none, resumeAt := none } }) ∧
      (¬ (s.dev.state = .running ∧ b ≤ s.now) → exec .resumeStart s = .next s)) ∧
    (s.run.resumeAt = none → exec .resumeStart s = .next s) ∧
    (∀ b code, s.run.holdAt = some (b, code) →
      (¬ (s.dev.state = .running ∧ b ≤ s.now) → exec .hostHold s = .next s) ∧
      (s.dev.state = .running → b ≤ s.now →
        ∃ t, exec .hostHold s = .next t ∧ t.run.holdAt = none ∧ t.reg .stopCause = s.reg .stopCause ∧ t.dev = s.dev ∧ t.strands = s.strands ∧ t.ops = s.ops ∧
          t.mem = s.mem ∧
          (s.run.stopFrom = none → t.run.stopFrom = some (s.boundary + s.period) ∧ t.run.stopCode = code ∧ t.reg .stopTide = BitVec.ofNat 64 s.boundary) ∧
          (s.run.stopFrom.isSome = true → s.run.resumeAt = none → t.run.stopFrom = s.run.stopFrom ∧ t.reg .stopTide = s.reg .stopTide))) ∧
    (s.run.holdAt = none → exec .hostHold s = .next s) ∧
    (let stopped := s.dev.state = .running ∧ s.run.resumeAt = none ∧ (∃ f, s.run.stopFrom = some f ∧ f ≤ s.now + s.period) ∧ s.ops = [] ∧ s.tripped = false
    (¬ stopped → exec .enterHeld s = .next s.attend) ∧
    (stopped → ∃ t : State, exec .enterHeld s = .next t.attend ∧ t.dev = { s.dev with state := .held } ∧ t.run.holdAt = none ∧ t.run.heldAt = some s.boundary ∧ t.run.stopFrom = s.run.stopFrom ∧
      t.strands = s.strands ∧ t.mem = s.mem ∧ t.reg .stopTide = s.reg .stopTide ∧ t.reg .stopSched = s.reg .stopSched ∧ t.fld .hmCause 8 8 = 1 ∧
      (s.run.stopCode ≠ 0x0400 → s.run.stopCode ≠ 0x0401 → t.fld .hmCause 9 9 = 1) ∧ (s.running 0x23 = true → t.host.busy = none) ∧
      (s.running 0x23 = false → t.host.busy = s.host.busy)))

/-- R171, R380, R381, R384, R399, R482: the ends of long commands. A selected chart is in force, and a half that it enables anew is filled; a drained device is LOADED with what it counted; what
still waits 10 ms after the entry to DRAINING is abandoned and is PENDING no more; a RECOVER_COPY without its last responses ends after 10 ms; a loaded plan stands and the
device is LOADED. Where a command does not run, nothing happens. -/
def Obligations.LongCommandEnds : Prop :=
  ∀ s : State, s.tripped = false →
    (∀ (failed : List (Fin 144)) (packages : List (Fin 36)),
      ((s.dev.selecting = none ∨ s.running 0x06 = false) → exec (.chartSelectComplete failed packages) s = .next s.attend) ∧
      (∀ n d mb, s.dev.selecting = some (n, d, mb) → s.running 0x06 = true →
        ∃ t : State, exec (.chartSelectComplete failed packages) s = .next t.attend ∧ t.dev.chart = s.chartAt n ∧ t.dev.chartNo = n ∧ t.dev.selecting = none ∧
          (∀ h, t.gov h = (s.gov h).settled) ∧ t.host.busy = none ∧ (t.dev.state = s.dev.state ∨ t.dev.state = .fault) ∧
          ((∀ h, (s.chartAt n).on h = true → s.halfOn h = true) → t.dev.state = s.dev.state) ∧
          (s.dev.state ≠ .fault → t.dev.state ≠ .fault → s.dev.chart.west = false → (s.chartAt n).west = true →
            ∀ a < 0x8000000000, t.byte a = Memory.unlisted) ∧
          (∀ a < 0x8000000000, s.dev.chart.west = true ∨ (s.chartAt n).west = false → t.byte a = s.byte a))) ∧
    (let empty := s.dev.state = .draining ∧ s.ops = [] ∧ ∀ e ∈ s.red.channels, s.fld (e.2.stateReg e.1) 1 1 ≠ 1
    ((s.plan = none ∨ ¬ empty) → exec .drainComplete s = .next s.attend) ∧
    (∀ p, s.plan = some p → empty →
      ∃ t : State, exec .drainComplete s = .next t.attend ∧ t.dev = { s.dev with state := .loaded } ∧ t.run.stopFrom = none ∧ t.run.drainFrom = none ∧ t.host.busy = none ∧
        t.run.dirty = (s.taskEnd p).run.dirty ∧ t.mem = s.mem ∧ t.strands = s.strands ∧ t.plan = some p)) ∧
    (∀ b, s.run.drainFrom = some b →
      (¬ (s.dev.state = .draining ∧ b + 10000000 ≤ s.now) → exec .drainAbandoned s = .next s) ∧
      (s.dev.state = .draining → b + 10000000 ≤ s.now →
        ∃ t, exec .drainAbandoned s = .next t ∧ t.ops = s.ops.filter (fun o => !(o.engine == .fabric && !s.remoteDone o.remote)) ∧
          (∀ e ∈ s.red.channels, e.1 < 256 → t.fld (e.2.stateReg e.1) 1 1 = 0) ∧
          (∀ h : Half, t.fld (.redStepStatus h) 31 16 =
            s.fld (.redStepStatus h) 31 16 - (s.red.channels.filter fun e => s.armedNow e.2 e.1 && e.2.half == h).length) ∧ t.mem = s.mem ∧ t.strands = s.strands ∧ t.dev = s.dev ∧
          (s.reducing = true → t.red.store = [] ∧ t.red.outputs = []) ∧ (s.reducing = false → t.red = s.red))) ∧
    (let flow := (s.host.busy.map fun r => fieldAt r.desc.bytes 24 2).getD 0
    let over_ := s.running 0x27 = true ∧ (∀ q ∈ (s.flow flow).queue, q.cell.kind ≠ 2) ∧ ∃ o ∈ s.ops, o.strand = copyKey ∧ o.issue + 10000000 ≤ s.now
    (¬ over_ → exec .recoverTimeout s = .next s.attend) ∧
    (over_ → ∃ t : State, exec .recoverTimeout s = .next t.attend ∧ t.host.busy = none ∧ (∀ o ∈ t.ops, o ∈ s.ops ∧ o.strand ≠ copyKey) ∧ t.mem = s.mem ∧
      t.dev = s.dev)) ∧
    (∀ r image, s.host.busy = some r → s.host.loading = some image → r.opcode = 0x20 →
      let p := r.desc.bytes
      let u : State := { s with host := { s.host with loading := none } }
      (∀ e, u.loadCheck (fieldAt p 8 4) (fieldAt p 16 8) image = .error e → exec .planLoadComplete s = .next (u.finishL e.code e.data).attend) ∧
      (∀ x, u.loadCheck (fieldAt p 8 4) (fieldAt p 16 8) image = .ok x →
        ∃ t : State, exec .planLoadComplete s = .next t.attend ∧ t.dev = { s.dev with state := .loaded } ∧ t.plan = some (s.planOf x) ∧ t.host.busy = none ∧
          t.strands = [] ∧ t.ops = [] ∧ t.grids = x.grids ∧ t.log.armings = [] ∧ t.totals = Totals.reset)) ∧
    ((s.host.busy = none ∨ s.host.loading = none) → exec .planLoadComplete s = .next s.attend)

/-- R367–R369, R372, R373: the registers of a mailbox. A command doorbell beyond its ring, a reply doorbell out of its ring, a failed read of an entry and
a reserved size each stop the mailbox with their error; a command that may be taken is executed; entries rung before service starts are held. Enabling
clears the doorbells and indices, and sets the phase; disabling drops what waits. -/
def Obligations.MailboxRegisters : Prop :=
  ∀ (s : State) (mb : Fin 4) (value : W32),
    let v := value.toNat % 65536
    let stopped (t : State) (error : Nat) : Prop :=
      t.mbStopped mb = true ∧ t.fld (.mbStatus mb) 7 4 = error ∧ t.fld .hmCause (4 + mb.val) (4 + mb.val) = 1 ∧ t.cmdHead mb = s.cmdHead mb
    let live := s.mbEnabled mb = true ∧ s.mbStopped mb = false
    (s.linked = false → (∀ entries, exec (.mbCmdDoorbell mb value entries) s = .next s) ∧ exec (.mbRplDoorbell mb value) s = .next s ∧
      exec (.mbEnable mb value) s = .next s ∧ exec (.mbDisable mb value) s = .next s) ∧
    (s.linked = true →
      (∀ entries, ¬ live → exec (.mbCmdDoorbell mb value entries) s = .next (s.setFld (.mbCmdDb mb) 15 0 v).attend) ∧
      (∀ entries, live → s.mbSize mb < (v + 65536 - s.cmdHead mb) % 65536 →
        ∃ t : State, exec (.mbCmdDoorbell mb value entries) s = .next t.attend ∧ stopped t 1 ∧ t.cmdDb mb = v ∧ t.host.held = s.host.held ∧ t.dev = s.dev) ∧
      (∀ entries, live → s.serving = false → (v + 65536 - s.cmdHead mb) % 65536 ≤ s.mbSize mb →
        ∃ t : State, exec (.mbCmdDoorbell mb value entries) s = .next t.attend ∧ t.heldOf mb = (s.heldOf mb ++ entries).take ((v + 65536 - s.cmdHead mb) % 65536) ∧
          (∀ m, m ≠ mb → t.heldOf m = s.heldOf m) ∧ t.cmdDb mb = v ∧ t.cmdHead mb = s.cmdHead mb ∧ t.dev = s.dev) ∧
      (∀ e : RingEntry, let d : Desc := { e.desc with mb := mb }
        Takes s d → v = (s.cmdDb mb + 1) % 65536 →
          exec (.mbCmdDoorbell mb value [some e]) s = .next ((taken s d).execCmd e.opcode.toNat (bodyOf e.opcode.toNat e.image) d).attend ∧
          (∃ t : State, exec (.mbCmdDoorbell mb value [none]) s = .next t.attend ∧ stopped t 2)) ∧
      (¬ live → exec (.mbRplDoorbell mb value) s = .next (s.setFld (.mbRplDb mb) 15 0 v).attend) ∧
      (live → s.mbSize mb < (s.rplTail mb + 65536 - v) % 65536 → ∃ t : State, exec (.mbRplDoorbell mb value) s = .next t.attend ∧ stopped t 1 ∧ t.rplDb mb = v) ∧
      (live → s.host.held = [] → (s.rplTail mb + 65536 - v) % 65536 ≤ s.mbSize mb →
        exec (.mbRplDoorbell mb value) s = .next (s.setFld (.mbRplDb mb) 15 0 v).attend) ∧
      (value.getLsbD 31 = false → exec (.mbEnable mb value) s = .next s) ∧
      (value.getLsbD 31 = true → s.mbEnabled mb = true → exec (.mbEnable mb value) s = .next s.attend) ∧
      (value.getLsbD 31 = true → s.mbEnabled mb = false →
        let k := value.toNat % 16
        ∃ t : State, exec (.mbEnable mb value) s = .next t.attend ∧ t.mbEnabled mb = true ∧ t.cmdDb mb = 0 ∧ t.rplDb mb = 0 ∧ t.cmdHead mb = 0 ∧ t.rplTail mb = 0 ∧
          t.heldOf mb = [] ∧ (mb.val < s.host.phase.length → t.host.phase.getD mb.val false = true) ∧
          (4 ≤ k → k ≤ 12 → t.mbSize mb = 2 ^ k ∧ t.mbStopped mb = false ∧ t.fld (.mbStatus mb) 7 4 = 0) ∧
          ((k < 4 ∨ 12 < k) → t.mbSize mb = s.mbSize mb ∧ t.mbStopped mb = true ∧ t.fld (.mbStatus mb) 7 4 = 4 ∧ t.fld .hmCause (4 + mb.val) (4 + mb.val) = 1)) ∧
      (value.getLsbD 31 = true → exec (.mbDisable mb value) s = .next s) ∧
      (value.getLsbD 31 = false →
        ∃ t : State, exec (.mbDisable mb value) s = .next t.attend ∧ t.mbEnabled mb = false ∧ t.reg (.mbStatus mb) = s.reg (.mbStatus mb) ∧ t.mem = s.mem ∧
          (s.mbEnabled mb = true → t.heldOf mb = [] ∧ t.mbSize mb = s.mbSize mb ∧ (∀ r, s.host.busy = some r → r.mb = mb → t.host.busy = some { r with cut := true })) ∧
          (s.mbEnabled mb = false → 4 ≤ value.toNat % 16 → value.toNat % 16 ≤ 12 → t.mbSize mb = 2 ^ (value.toNat % 16) ∧ t.host = s.host)))

/-- R6, R8, R39, R75, R361, R365, R388, R389, R449, R490–R492: host accesses to registers. A read returns the register, its RC fields as they were at the
preceding stroke boundary, and leaves in those what has been counted since; a write takes effect at the stroke boundary at or after it, WIN_BASE and a ring's
TAIL at once: it gives RW fields the value and clears the W1C bits that it sets, but none that the device has set in the stroke that ends at that boundary;
reserved values leave WIN_BASE and a ring's TAIL as they were. Writes of the power state and of MSI-X control (at offsets that are the model's choice, log entry
82) take the function into and out of D3hot and mask it. The interrupt tree follows causes and enables outside OFF, and the one message is due when the condition
becomes true. -/
def Obligations.HostRegisters : Prop :=
  ∀ s : State,
    let covered (r : Reg) (a : Access) (i : Nat) : Prop := ∃ f ∈ r.fields, f.acc = a ∧ f.lo ≤ i ∧ i ≤ f.hi
    let writes (t : State) (r : Reg) (v : W64) : Prop :=
      (∀ i < 64, (covered r .rw i → (t.reg r).getLsbD i = v.getLsbD i) ∧
        (covered r .w1c i → (t.reg r).getLsbD i = ((s.reg r).getLsbD i && !v.getLsbD i)) ∧
        (¬ covered r .rw i → ¬ covered r .w1c i → (t.reg r).getLsbD i = (s.reg r).getLsbD i)) ∧
      ∀ q : Reg, q.offset ≠ r.offset → t.reg q = s.reg q
    (∀ o width value, s.linked = false → exec (.winBaseWrite value) s = .next s ∧ exec (.rcRead o width) s = .next s ∧ exec (.summaryClear o width value) s = .next s ∧
      exec (.registerWrite o width value) s = .next s ∧ ∀ k v, exec (.ringTailWrite k v) s = .next s) ∧
    (∀ value : W64, s.linked = true →
      (4032 < fieldOf value 11 0 → exec (.winBaseWrite value) s = .next s) ∧
      (fieldOf value 11 0 ≤ 4032 → ∃ t, exec (.winBaseWrite value) s = .next t ∧ writes t .winBase value ∧ t.mem = s.mem ∧ t.dev = s.dev ∧ t.host = s.host)) ∧
    (∀ (k : Fin 3) (value : W32), s.linked = true →
      let used := (s.fld (.ringHead k) 31 0 + 2 ^ 32 - value.toNat) % 2 ^ 32
      (2 ^ s.ringSize k < used → exec (.ringTailWrite k value) s = .next s) ∧
      (used ≤ 2 ^ s.ringSize k → exec (.ringTailWrite k value) s = .next (s.setReg (.ringTail k) (BitVec.ofNat 64 value.toNat)))) ∧
    (∀ (o width : Nat) (r : Reg) (mask : W64), s.linked = true → tideAccess o width = none → s.servedNow o = true → s.blockSide o = .served →
      regAccess o width = some (r, mask) →
      let before : W64 := if s.tide.running then (Tab.find? s.snap r.offset).getD r.reset else s.reg r
      let since : W64 := if s.tide.running then Tab.get 0 s.fresh r.offset else 0
      ∃ t, exec (.rcRead o width) s = .next t ∧ (∃ v, t.host = { s.host with lastRead := partOf v mask } ∧
          ∀ i < 64, (covered r .rc i → v.getLsbD i = before.getLsbD i) ∧ (¬ covered r .rc i → v.getLsbD i = (s.regNow r).getLsbD i)) ∧
        t.mem = s.mem ∧ t.dev = s.dev ∧ t.tide = s.tide ∧
        (∀ f ∈ r.fields, f.acc = .rc → t.fld r f.hi f.lo =
          if f.mask &&& mask = f.mask then min (s.fld r f.hi f.lo) (fieldOf since f.hi f.lo) else s.fld r f.hi f.lo) ∧
        (∀ i < 64, ¬ covered r .rc i → (t.reg r).getLsbD i = (s.reg r).getLsbD i) ∧ ∀ q : Reg, q.offset ≠ r.offset → t.reg q = s.reg q) ∧
    (∀ (o width : Nat), s.linked = true → tideAccess o width = none → (s.servedNow o = false ∨ s.blockSide o = .served ∧ regAccess o width = none) →
      exec (.rcRead o width) s = .next { s with host := { s.host with lastRead := 0 } }) ∧
    (∀ o width value, s.linked = true → (width = 8 ∨ 0x10000 ≤ o) → o / 8 ≠ 1 → o ≠ cfgPower → o ≠ cfgMsix → s.tide.running = true → s.atBoundary = false →
      exec (.registerWrite o width value) s =
        .next ({ s with host := { s.host with pendingRegs := s.host.pendingRegs ++ [(o, width, value)] } } : State).attend) ∧
    (∀ (o : Nat) (r : Reg) (value : W64), s.linked = true → 0x10000 ≤ o → o ≠ cfgPower → o ≠ cfgMsix → s.servedNow o = true →
      s.blockSide o = .served → regAccess o 8 = some (r, ~~~0#64) → s.writeBarred r = false →
      (s.tide.running = false → ∃ t : State, exec (.registerWrite o 8 value) s = .next t.attend ∧ writes t r value ∧ t.mem = s.mem ∧ t.dev = s.dev) ∧
      (s.tide.running = true → s.atBoundary = true →
        let since : W64 := Tab.get 0 s.fresh r.offset
        ∃ t : State, exec (.registerWrite o 8 value) s = .next t.attend ∧ t.mem = s.mem ∧ t.dev = s.dev ∧
          (∀ i < 64, (covered r .rw i → ¬ covered r .w1c i → (t.reg r).getLsbD i = value.getLsbD i) ∧
            (covered r .w1c i → ¬ covered r .rw i → (t.reg r).getLsbD i = ((s.reg r).getLsbD i && !(value.getLsbD i && !since.getLsbD i))) ∧
            (¬ covered r .rw i → ¬ covered r .w1c i → (t.reg r).getLsbD i = (s.reg r).getLsbD i)) ∧
          ∀ q : Reg, q.offset ≠ r.offset → t.reg q = s.reg q)) ∧
    (∀ (width : Nat) (value : W64), s.host.linkUp = true → s.dev.state ≠ .off →
      (∃ t, exec (.registerWrite cfgPower width value) s = .next t ∧ t.mem = s.mem ∧ t.dev = s.dev ∧
        (fieldOf value 1 0 = 3 → t.host.pci.d3hot = true ∧ t.linked = false) ∧ (fieldOf value 1 0 = 0 → t.host.pci.d3hot = false)) ∧
      (∃ t, exec (.registerWrite cfgMsix width value) s = .next t ∧ t.mem = s.mem ∧ t.dev = s.dev ∧ t.host.pci.msixOn = value.getLsbD 31 ∧
        t.host.pci.msixMask = value.getLsbD 30 ∧ (s.reg .msixPba ≠ 0 → t.vectorMasked = false → t.reg .msixPba = 0))) ∧
    (∀ (g : Fin 134) (value : W64), s.linked = true →
      let held := s.tide.running = true ∧ s.atBoundary = false
      (held → exec (.summaryClear (0x1000 + 8 * g.val) 8 value) s =
        .next { s with host := { s.host with pendingRegs := s.host.pendingRegs ++ [(0x1000 + 8 * g.val, 8, value)] } }) ∧
      (¬ held →
        let since : W64 := if s.tide.running then Tab.get 0 s.fresh (Reg.grpCause g).offset else 0
        ∃ t, exec (.summaryClear (0x1000 + 8 * g.val) 8 value) s = .next t ∧ t.reg (.grpCause g) = s.reg (.grpCause g) &&& ~~~(value &&& ~~~since) ∧
          t.mem = s.mem ∧ t.dev = s.dev ∧ t.host = s.host ∧ ∀ q : Reg, q.offset ≠ (Reg.grpCause g).offset → t.reg q = s.reg q)) ∧
    (∀ o width value, treeReg o = false → exec (.summaryClear o width value) s = .next s) ∧
    (let tree (t : State) : Prop :=
      (∀ g : Fin 134, t.reg (.grpCause g) = s.reg (.grpCause g) ||| s.groupNow g.val) ∧
      (∀ g : Fin 134, (t.reg (.hmSummary (summaryOf g.val).1)).getLsbD (summaryOf g.val).2 =
        ((s.reg (.hmSummary (summaryOf g.val).1)).getLsbD (summaryOf g.val).2 || decide (s.reg (.grpCause g) ||| s.groupNow g.val ≠ 0)))
    (s.dev.state = .off → exec .interruptEvaluate s = .next s) ∧
    (s.dev.state ≠ .off → ∃ t, exec .interruptEvaluate s = .next t ∧ tree t ∧ (t.host.condition = false → t.reg .msixPba = 0) ∧
      (t.host.condition = true ↔ ∃ k : Fin 3, t.reg (.hmSummary k) &&& t.reg (.hmSummaryEn k) ≠ 0) ∧ t.mem = s.mem ∧ t.dev = s.dev ∧
      ((s.host.condition = true ∨ t.host.condition = false) → t.host = { s.host with condition := t.host.condition }) ∧
      (s.host.condition = false → t.host.condition = true →
        (s.holdoffOver = false → t.host = { s.host with condition := true, msgDue := true }) ∧
        (s.holdoffOver = true → s.vectorMasked = true → t.reg .msixPba = 1 ∧ t.host.msgs = s.host.msgs) ∧
        (s.holdoffOver = true → s.vectorMasked = false → t.host.msgs = s.host.msgs + 1 ∧ t.host.lastMsg = some s.now ∧
          Tab.getMany 0 t.host.mem (s.reg (.msixEntry 0)).toNat 4 = leBytes 4 (s.fld (.msixEntry 1) 31 0))))) ∧
    ((s.host.msgDue = false ∨ s.holdoffOver = false) → exec .msixHoldoffExpiry s = .next s) ∧
    (s.host.msgDue = true → s.holdoffOver = true →
      ∃ t, exec .msixHoldoffExpiry s = .next t ∧ t.host.msgDue = false ∧ t.mem = s.mem ∧ t.dev = s.dev ∧
        (s.vectorMasked = true → t.reg .msixPba = 1 ∧ t.host.msgs = s.host.msgs) ∧ (s.vectorMasked = false → t.host.msgs = s.host.msgs + 1 ∧ t.host.lastMsg = some s.now))

/-- R21, R24, R25, R226, R365: accesses through BAR2. They complete with zeros before READY is first entered; registers are reached as through BAR0, and the
bytes of an access that lie beside them are unmapped; memory is reached at once, or in the service slots of a loaded plan: of main memory, slot 94 for a read and
95 for a write, in a frame without refresh; elsewhere, a bank cycle that no access of the plan takes (the model's choice, log entry 55). A byte that is not
enabled is not written. -/
def Obligations.ServiceAccesses : Prop :=
  ∀ (s : State) (access : Bar2Access),
    let a := s.fld .winBase 11 0 * 0x40000000 + accessOffset access
    let slots := s.dev.state = .loaded ∨ s.dev.state = .running ∨ s.dev.state = .held ∨ s.dev.state = .draining
    let n := accessLen access
    let regs := a < 0x30001000000 ∧ 0x30000000000 < a + n
    let skip := 0x30000000000 - a
    let take := min n (0x30001000000 - a) - skip
    (s.linked = false → exec (.bar2Request access) s = .next s) ∧
    (∀ o len, access = .read o len → s.linked = true → s.dev.everReady = false →
      exec (.bar2Request access) s = .next { s with host := { s.host with readData := List.replicate len 0 } }) ∧
    (∀ o data, access = .write o data → s.linked = true → s.dev.everReady = false → exec (.bar2Request access) s = .next s) ∧
    (∀ o, access = .read o n → s.linked = true → s.dev.everReady = true → regs →
      let r := s.hostRead (a + skip - 0x30000000000) take
      ∃ t, exec (.bar2Request access) s = .next t ∧ t.mem = s.mem ∧ t.dev = r.2.dev ∧ t.strands = r.2.strands ∧
        t.host.readData = List.replicate skip 0 ++ leBytes take r.1.toNat ++ List.replicate (n - skip - take) 0 ∧
        (take = n → t.log = r.2.log ∧ t.regs = r.2.regs) ∧ (take < n → t.log = (r.2.logBad srcHost [.unmapped]).log)) ∧
    (∀ o data, access = .write o data → s.linked = true → s.dev.everReady = true → regs →
      let mid := (data.drop skip).take take
      let t := match wholeWrite mid with
        | some v => s.hostWriteReg (a + skip - 0x30000000000) mid.length v
        | none => s.blockNote (a + skip - 0x30000000000)
      let beyond := (data.take skip).any (fun b => b.isSome) || (data.drop (skip + take)).any fun b => b.isSome
      exec (.bar2Request access) s = .next (if beyond then t.logBad srcHost [.unmapped] else t)) ∧
    (s.linked = true → s.dev.everReady = true → ¬ regs → slots →
      exec (.bar2Request access) s = .next { s with host := { s.host with services := s.host.services ++ [(access, a)] } }) ∧
    (s.linked = true → s.dev.everReady = true → ¬ regs → ¬ slots → exec (.bar2Request access) s = .next (s.service access a)) ∧
    (s.host.services = [] → exec .serviceSlot s = .next s) ∧
    (∀ x b rest, s.host.services = (x, b) :: rest →
      let slot := if x matches .write _ _ then 95 else 94
      let may := match s.region b with
        | .main h => s.slotNow % 96 = slot ∧ ∀ l ∈ accessLanes x b, s.laneServes h l = true
        | _ => ∀ r ∈ s.onDie.reqs, r.cycle = s.cycleAt s.nowPs → s.bankOf r.place ≠ some (s.bankKey b)
      (¬ may → exec .serviceSlot s = .next s) ∧
      (may → exec .serviceSlot s =
        .next (((accessLanes x b).foldl State.serveLane { s with host := { s.host with services := rest } }).service x b))) ∧
    (∀ b, s.onDie.rowErrs = [] → s.log.armings = [] → (∀ l, s.lineAtRisk l = false) →
      (∀ o len, access = .read o len → s.badRanges b len = [] →
        let t := s.service access b
        t.host = { s.host with readData := Tab.getMany Memory.unlisted s.mem b len } ∧ t.mem = s.mem ∧ t.regs = s.regs ∧ t.log = s.log ∧ t.dev = s.dev ∧
          t.strands = s.strands ∧ t.main = s.main) ∧
      (∀ o data, access = .write o data → (∀ i < data.length, (data.getD i none).isSome = true → s.mapped (b + i) = .ok ∧ s.sumWindow (b + i) = none) →
        s.dev.state ≠ .running →
        let t := s.service access b
        (∀ i x, data.getD i none = some x → t.byte (b + i) = x) ∧ (∀ k, (∀ i, (data.getD i none).isSome = true → k ≠ b + i) → t.byte k = s.byte k) ∧
          t.regs = s.regs ∧ t.host = s.host ∧ t.dev = s.dev ∧ t.strands = s.strands))

/-- R437–R449: the logbook, alarm and trace paths. A coalescing window that has lasted 100 µs closes, and its record enters the logbook with the next SEQ,
after those whose windows ended before it or, at one instant, come before it by cause and source, and pinned if it is the first of its cause; each path writes its oldest record to its ring in host memory when the ring has room and its budget allows,
alarms before log records before trace records. -/
def Obligations.RecordPaths : Prop :=
  ∀ s : State,
    (∀ (cause source : W16) (line : Nat),
      let mine (r : LogRec) : Bool := r.cause == cause.toNat && r.source == source.toNat && r.line == line && decide (r.first + 100000 ≤ s.now)
      (s.log.open_.find? mine = none → exec (.logWindowClose cause source line) s = .next s) ∧
      (∀ r, s.log.open_.find? mine = some r →
        let first (x : LogRec) : Bool := x.first < r.first || x.first == r.first && (x.cause < r.cause || x.cause == r.cause && x.source ≤ r.source)
        let gone (x : LogRec) : Bool := decide (x.first + 100000 ≤ s.now) && first x
        (∃ t, exec (.logWindowClose cause source line) s = .next t ∧ t.log.open_ = s.log.open_.filter (fun x => !gone x) ∧
          t.log.nextSeq = s.log.nextSeq + (s.log.open_.filter gone).length) ∧
        (s.log.open_.filter gone = [r] → s.log.ring.length < 8192 →
          let pin := s.log.pins.all fun x => x.cause != cause.toNat
          let rec_ : LogRec := { r with seq := s.log.nextSeq, flags := r.flags + (if 1 < r.count then 4 else 0) + if pin then 1 else 0 }
          exec (.logWindowClose cause source line) s = .next { s with log := { s.log with
            open_ := s.log.open_.filter (fun x => !gone x), ring := s.log.ring ++ [rec_], nextSeq := s.log.nextSeq + 1,
            pins := if pin then s.log.pins ++ [rec_] else s.log.pins } }))) ∧
    ((s.log.alarms = [] ∨ s.alarmReady = false) → exec .alarmEmit s = .next s) ∧
    (∀ a rest, s.log.alarms = a :: rest → s.alarmReady = true →
      ∃ t, exec .alarmEmit s = .next t ∧ t.log.alarms = rest ∧ t.log.alarmSeq = s.log.alarmSeq + 1 ∧ t.fld .hmCause 10 10 = 1 ∧ t.mem = s.mem ∧
        t.fld (.ringHead 1) 31 0 = (s.fld (.ringHead 1) 31 0 + 1) % 2 ^ 32 ∧
        (let source := if a.reserved then 0xFFFF else a.source
         Tab.getMany 0 t.host.mem (s.log.alarmRing.addr + 64 * (s.fld (.ringHead 1) 31 0 % 2 ^ s.log.alarmRing.sizeLog2)) 64 =
          leBytes 4 s.log.alarmSeq ++ leBytes 2 a.cause ++ [1] ++
            leBytes 1 ((if a.injected then 2 else 0) + (if 1 < a.count then 4 else 0) + if a.cut then 8 else 0) ++
            leBytes 8 a.first ++ leBytes 8 a.last ++ leBytes 4 a.count ++ leBytes 2 source ++ leBytes 2 (s.physOfSource source) ++ sliceBytes a.payload 0 32)) ∧
    (s.mirrorReady = false → exec .logMirrorWrite s = .next s) ∧
    (∀ r, s.mirrorReady = true → s.log.ring.find? (fun r => r.seq == s.log.mirrored) = some r →
      ∃ t, exec .logMirrorWrite s = .next t ∧ t.log.mirrored = s.log.mirrored + 1 ∧ t.log.ring = s.log.ring ∧ t.mem = s.mem ∧
        t.fld (.ringHead 0) 31 0 = (s.fld (.ringHead 0) 31 0 + 1) % 2 ^ 32 ∧
        (t.ringUsed 0 = s.log.logRing.watermark → t.fld .hmCause 11 11 = 1) ∧
        Tab.getMany 0 t.host.mem (s.log.logRing.addr + 64 * (s.fld (.ringHead 0) 31 0 % 2 ^ s.log.logRing.sizeLog2)) 64 = r.bytes) ∧
    (∀ source : Fin 8,
      let t := s.log.trace
      let b := t.bufs.getD source.val TraceBuf.empty
      let share := s.dev.chart.traceBudget / max 1 ((List.range 8).filter fun i => bitOf t.sources i).length
      let credit := min (share * 10000000) (b.credit + share * (s.now - b.creditAt))
      let may := s.ringRoom 2 t.ring = true ∧ 32000000000 ≤ credit ∧ s.alarmReady = false ∧ s.mirrorReady = false
      ((b.recs = [] ∨ ¬ may) → exec (.traceWrite source) s = .next s) ∧
      (∀ r rest, b.recs = r :: rest → may →
        ∃ u, exec (.traceWrite source) s = .next u ∧ (u.log.trace.bufs.getD source.val TraceBuf.empty).recs = rest ∧ u.mem = s.mem ∧
          u.fld (.ringHead 2) 31 0 = (s.fld (.ringHead 2) 31 0 + 1) % 2 ^ 32 ∧
          (r.gap = false → u.reg (.ringLost 2) = s.reg (.ringLost 2)) ∧
          Tab.getMany 0 u.host.mem (t.ring.addr + 32 * (s.fld (.ringHead 2) 31 0 % 2 ^ t.ring.sizeLog2)) 32 =
            leBytes 8 r.tide ++ leBytes 1 r.src ++ [r.kind] ++ leBytes 2 r.inst ++ leBytes 4 r.aux.toNat ++ leBytes 16 r.data.toNat))

/-- R15, R17, R234, R391–R393, R398, R400, R409, R458, R459, R495: the steps from power-good to READY. BOOT takes the chart of the pins, or chart 0 with an
alarm; its tests are noted, and it ends when they are done and the port has trained; VERIFY runs the firmware that it accepts, sets SEC_STATUS and numbers the
enabled halves, or enters FAULT; a loss of power while it writes a staged image, which a free value says, leaves that slot without an image; GESSO fills the enabled halves, then READY starts the tide and the
training of the quays, and a quay that the chart does not enable is DOWN with cause DISABLED. Out of its state a step does nothing. -/
def Obligations.BringUp : Prop :=
  ∀ s : State, s.tripped = false →
    (s.dev.state ≠ .off → exec .bootEntry s = .next s) ∧
    (∀ pins : Fin 4, s.dev.state = .off → s.dev.pins = pins.val →
      let n := pins.val
      let good := (s.chartAt n).valid
      let k := if good then n else 0
      let dev : Device :=
        { s.dev with state := .boot, pgW := true, pgE := true, pgAux := true, sampled := n, chart := s.chartAt k, chartNo := k, fallback := !good, warm := false }
      ∃ t, exec .bootEntry s = .next t ∧ t.dev = dev ∧
        (∀ h, (s.chartAt k).on h = true → t.gov h = (s.gov h).move (reference (s.chartAt k).opPoint).1) ∧
        (∀ h, (s.chartAt k).on h = false → (t.gov h).vcore = 5500 ∧ ((t.gov h).vsram = 7000 ∨ (t.gov h).sramNext = some 7000)) ∧
        (good = false → (∃ r ∈ t.log.open_, r.cause = 0x0405) ∨ 2047 ≤ s.log.open_.length) ∧ t.mem = s.mem ∧ t.fld .hmCause 8 8 = 1) ∧
    (∀ failed : List (Fin 144),
      (s.dev.state ≠ .boot → exec (.coreSelfTestDone failed) s = .next s) ∧
      (s.dev.state = .boot → ∃ t, exec (.coreSelfTestDone failed) s = .next t ∧ t.dev.testDone = true ∧ t.dev.state = .boot ∧ t.mem = s.mem ∧
        (∀ p < 144, s.halfOn (if p < 72 then .west else .east) = true → (p ∈ t.dev.testBad ↔ ∃ x ∈ failed, x.val = p)) ∧
        (∀ p, s.halfOn (if p < 72 then .west else .east) = false → (p ∈ t.dev.testBad ↔ p ∈ s.dev.testBad)))) ∧
    (∀ failed : List (Fin 36),
      (s.dev.state ≠ .boot → exec (.memoryTrainingDone failed) s = .next s) ∧
      (s.dev.state = .boot → ∃ t, exec (.memoryTrainingDone failed) s = .next t ∧ t.dev.memDone = true ∧ (t.dev.state = .boot ∨ t.dev.state = .fault ∧ t.dev.fault = 2) ∧
        (∀ p : Fin 36, p.val ∈ t.main.dead ↔ p.val ∈ s.main.dead ∨ p ∈ failed ∧ s.halfOn (if p.val < 18 then .west else .east) = true) ∧ t.mem = s.mem)) ∧
    ((s.dev.state = .boot ∧ s.dev.testDone = true ∧ s.dev.memDone = true ∧ s.host.linkUp = true) →
      ∃ t, exec .bootDone s = .next t ∧ t.dev = { s.dev with state := .verify } ∧ t.mem = s.mem ∧
        (∀ h, t.gov h = (s.gov h).settled ∧ ((s.gov h).coreNext = none → (s.gov h).sramNext = none → t.gov h = s.gov h) ∧
          (∀ v, (s.gov h).coreNext = some v → (t.gov h).vcore = v ∧ (vsramFor v ≤ (s.gov h).vsram → (t.gov h).vsram = vsramFor v))) ∧ t.fld .hmCause 8 8 = 1) ∧
    (¬ (s.dev.state = .boot ∧ s.dev.testDone = true ∧ s.dev.memDone = true ∧ s.host.linkUp = true) → exec .bootDone s = .next s) ∧
    (s.dev.state ≠ .verify → exec .verifyDone s = .next s.attend) ∧
    (s.dev.state = .verify → s.dev.warm = false →
      (∀ i, s.slot s.sec.activeB = some i → s.fwCheck i = 0 →
        let n := s.numberAll fun h => s.halfOn h && !s.numbered h
        ∃ t : State, exec .verifyDone s = .next t.attend ∧ t.sec.fwVersion = i.firmware ∧ t.sec.secVersion = i.version ∧
          t.sec.keySlot = i.keySlot ∧ t.sec.fallback = false ∧ t.sec.runningB = s.sec.activeB ∧ t.sec.status = t.secStatusReg ∧
          t.sec.measures.length = s.sec.measures.length ∧ t.mem = s.mem ∧
          (n.2 = true → t.dev.state = .gesso ∧ t.dev.map = n.1.dev.map) ∧ (n.2 = false → t.dev.state = .fault ∧ t.dev.fault = 1)) ∧
      ((∀ b i, s.slot b = some i → s.fwCheck i ≠ 0) →
        ∃ t : State, exec .verifyDone s = .next t.attend ∧ t.dev.state = .fault ∧ t.host.busy = none ∧ t.mem = s.mem ∧ t.sec.status = t.secStatusReg ∧
          ((∃ b i, s.slot b = some i ∧ s.fwCheck i = 4) → t.dev.fault = 4) ∧ ((∀ b i, s.slot b = some i → s.fwCheck i ≠ 4) → t.dev.fault = 3))) ∧
    (∃ t, exec .powerLoss s = .next t ∧ t.dev.state = .off ∧ t.sec.activeB = s.sec.activeB ∧ t.mem = [] ∧
      (s.dev.state = .verify ∧ s.installs = true →
        let cut := (Config.freeValue s.freeCtr).getLsbD 0 = true
        t.sec.slotA = (if cut ∧ s.sec.activeB = true then none else s.sec.slotA) ∧ t.sec.slotB = (if cut ∧ s.sec.activeB = false then none else s.sec.slotB)) ∧
      (¬ (s.dev.state = .verify ∧ s.installs = true) → t.sec.slotA = s.sec.slotA ∧ t.sec.slotB = s.sec.slotB)) ∧
    (s.dev.state ≠ .gesso → exec .gessoDone s = .next s.attend) ∧
    (s.dev.state = .gesso →
      (let n := s.numberAll fun h => s.halfOn h && !s.numbered h
      (n.2 = false → ∃ t : State, exec .gessoDone s = .next t.attend ∧ t.dev.state = .fault ∧ t.dev.fault = 1 ∧ t.mem = s.mem) ∧
      (n.2 = true →
        ∃ t : State, exec .gessoDone s = .next t.attend ∧ t.dev.state = .ready ∧ t.dev.everReady = true ∧ t.dev.map = n.1.dev.map ∧ t.tide.running = true ∧
          (∀ a, a < 0x8000000000 → s.dev.chart.west = true → t.byte a = Memory.unlisted) ∧
          (∀ q : Fin 48, s.dev.chart.quayOn q.val = true → s.halfOn (quayHalf q.val) = true → s.inService q.val = false → s.training q.val = false →
            t.reg (.quayStatus q) = 1) ∧
          (∀ q : Fin 48, s.dev.chart.quayOn q.val = false → t.reg (.quayStatus q) = 0x10) ∧
          (∀ q : Fin 48, s.dev.chart.quayOn q.val = true → s.halfOn (quayHalf q.val) = false → t.reg (.quayStatus q) = s.reg (.quayStatus q)))))

/-- R362: a Function Level Reset disables every mailbox, clears the negotiated protocol and the MSI-X state, and stops all device mastering: no mailbox,
no ring of records and no message. It changes no device state, chart, plan, memory content or logbook entry. PERST_N low does the same and takes the
link down. -/
def Obligations.FunctionLevelReset : Prop :=
  ∀ s : State,
    ∃ t, exec .functionLevelReset s = .next t ∧ (∀ mb, t.mbEnabled mb = false) ∧ t.host.held = [] ∧ t.host.proto = 0 ∧
      t.vectorMasked = true ∧ (∀ k : Fin 2, t.reg (.msixEntry k) = (Reg.msixEntry k).reset) ∧ t.reg .msixPba = 0 ∧ t.host.msgDue = false ∧
      t.log.logRing.configured = false ∧ t.log.alarmRing.configured = false ∧ t.log.trace.ring.configured = false ∧
      t.dev = s.dev ∧ t.plan = s.plan ∧ t.mem = s.mem ∧ t.host.mem = s.host.mem ∧ t.log.ring = s.log.ring ∧ t.log.open_ = s.log.open_ ∧
      t.log.pins = s.log.pins ∧ t.strands = s.strands ∧ t.ops = s.ops ∧ t.run = s.run ∧ t.acc = s.acc ∧ t.feed = s.feed ∧
      exec .perstAssert s = .next { t with dev := { t.dev with perstLow := true }, host := { t.host with linkUp := false } }

/-- R379, R391, R400, R404, R405, R416, R417, R421, R422, R423: power, pins and board management. A loss of power is OFF with what fuses and firmware
hold, and the I3C port answers with its last image until VIO falls, which the row says when it is sent in OFF, and HOLD_PIN gives the level of CHART_SEL too (log
entry 10; that, and that the port answers from its first refresh on, is the model's reading); a lost rail and the watchdog are FAULT, with every quay down (one that the chart does not enable with cause DISABLED); a glitch is an alarm only; a thermal trip stops everything and no state follows it; the I3C port
answers at its dynamic address, and an I²C transfer at the static one while it has none, and reads its image from its offset. -/
def Obligations.PowerAndPins : Prop :=
  ∀ s : State,
    (∃ t, exec .powerLoss s = .next t ∧ t.dev.state = .off ∧ t.mem = [] ∧ t.strands = [] ∧ t.plan = none ∧ t.regs = [] ∧ t.log.open_ = [] ∧ t.dev.map = [] ∧
      t.dev.everReady = false ∧ t.dev.grade = s.dev.grade ∧ t.dev.fuseBad = s.dev.fuseBad ∧ t.dev.stored = s.dev.stored ∧ t.sec.rollback = s.sec.rollback ∧
      (s.dev.state ≠ .verify → t.sec.slotA = s.sec.slotA ∧ t.sec.slotB = s.sec.slotB) ∧ t.sec.seed = s.sec.seed ∧ t.tripped = false ∧ t.host.mem = s.host.mem ∧
      (s.dev.state = .off → t.i3c = State.reset.i3c) ∧ (s.dev.state ≠ .off → t.i3c.on = s.i3c.on ∧ t.i3c.address = s.i3c.address ∧
        t.i3c.image = if s.i3c.on = true then s.i3cData else s.i3c.image)) ∧
    (∀ input : Fin 3,
      ((s.dev.state = .off ∨ s.dev.state = .fault) → exec (.railLost input) s = .next s) ∧
      (s.dev.state ≠ .off → s.dev.state ≠ .fault → s.tripped = false →
        ∃ t : State, exec (.railLost input) s = .next t.attend ∧ t.dev.state = .fault ∧ t.dev.fault = 6 ∧ t.dev.faultFrom = s.dev.state ∧ t.host.busy = none ∧
          (∀ q : Fin 48, t.reg (.quayStatus q) = if s.dev.chart.quayOn q.val then 0 else 0x10) ∧ t.mem = s.mem ∧ t.dev.map = s.dev.map) ∧
      (s.dev.state = .off → exec (.railGlitch input) s = .next s) ∧
      (s.dev.state ≠ .off → ∃ t, exec (.railGlitch input) s = .next t ∧ t.dev = s.dev ∧ t.mem = s.mem ∧ t.strands = s.strands ∧ t.run = s.run ∧
        ((∃ a ∈ t.log.alarms, a.cause = 0x0403) ∧ ((∃ r ∈ t.log.open_, r.cause = 0x0403) ∨ 2048 ≤ s.log.open_.length)))) ∧
    (∀ sramWord : Bool, let up := s.dev.state ≠ .off ∧ s.dev.state ≠ .fault ∧ s.dev.state ≠ .boot ∧ s.dev.state ≠ .verify
      (¬ up → exec (.hmWatchdog sramWord) s = .next s) ∧
      (up → s.tripped = false → ∃ t : State, exec (.hmWatchdog sramWord) s = .next t.attend ∧ t.dev = { s.dev with state := .fault, fault := 7, faultFrom := s.dev.state, selecting := none } ∧
        t.host.busy = none ∧ (∀ q : Fin 48, t.reg (.quayStatus q) = if s.dev.chart.quayOn q.val then 0 else 0x10) ∧ t.mem = s.mem)) ∧
    (∀ h : Half, (s.dev.state = .off → exec (.thermtrip h) s = .next s) ∧
      (s.dev.state ≠ .off →
        ∃ t, exec (.thermtrip h) s = .next t ∧ t.tripped = true ∧ (h = .west → t.dev.tripW = true) ∧ (h = .east → t.dev.tripE = true) ∧ t.dev.state = s.dev.state ∧
          t.ops = [] ∧ (∀ q : Fin 48, t.reg (.quayStatus q) = if s.dev.chart.quayOn q.val then 0 else 0x10) ∧ (∀ b, t.stoppedAt b = true) ∧ t.dev.selecting = none ∧ t.run.startAt = none ∧ t.run.resumeAt = none ∧ t.mem = s.mem ∧
          (∀ state cause, (t.enter state cause) = t))) ∧
    (∀ (low : Bool) (sel : Fin 4),
      ((low = false ∨ s.dev.state ≠ .running) → exec (.holdPin ⟨low, sel⟩) s = .next { s with dev := { s.dev with holdLow := low, pins := sel.val } }) ∧
      (low = true → s.dev.state = .running →
        exec (.holdPin ⟨low, sel⟩) s = .next { s with dev := { s.dev with holdLow := true, pins := sel.val }, run := { s.run with holdAt := some (s.boundaryAt (s.now + 1), 0x0401) } })) ∧
    exec .perstRelease s = .next { s with dev := { s.dev with perstLow := false } } ∧
    ((s.dev.state ≠ .off ∧ s.dev.perstLow = false) → exec .pcieLinkUp s = .next { s with host := { s.host with linkUp := true } }) ∧
    (¬ (s.dev.state ≠ .off ∧ s.dev.perstLow = false) → exec .pcieLinkUp s = .next s) ∧
    (let port (i : I3c) : Host.Outcome State Fault Refusal := .next { s with i3c := i }
    let nack := port { s.i3c with out := [] }
    (s.i3c.on = false → ∀ x, exec (.i3cTransfer x) s = nack) ∧
    (s.i3c.on = true →
      let heard (i2c : Bool) (a : BitVec 7) : Prop := if i2c then s.i3c.address = none ∧ a = 0x4C else s.i3c.address = some a
      let bytes (n : Nat) := (List.range n).map fun i => s.i3c.image.getD (s.i3c.offset + i) 0xFF
      (∀ i2c a, ∀ o : Byte, (heard i2c a → exec (.i3cTransfer (.setOffset i2c a o)) s = port { s.i3c with offset := o.toNat, out := [] }) ∧
        (¬ heard i2c a → exec (.i3cTransfer (.setOffset i2c a o)) s = nack)) ∧
      (∀ a, (s.i3c.address = none → exec (.i3cTransfer (.entdaa a)) s = port { s.i3c with address := some a, out := [] } ∧
          exec (.i3cTransfer (.setdasa 0x4C a)) s = port { s.i3c with address := some a, out := [] }) ∧
        (∀ st, s.i3c.address.isSome = true ∨ st ≠ 0x4C → exec (.i3cTransfer (.setdasa st a)) s = nack) ∧
        (s.i3c.address.isSome = true → exec (.i3cTransfer (.entdaa a)) s = nack)) ∧
      (∀ a n, (heard false a → exec (.i3cTransfer (.i3cRead a n)) s = port { s.i3c with out := bytes n }) ∧
        (¬ heard false a → exec (.i3cTransfer (.i3cRead a n)) s = nack) ∧
        (heard true a → exec (.i3cTransfer (.i2cRead a n)) s = port { s.i3c with out := bytes n }) ∧
        (¬ heard true a → exec (.i3cTransfer (.i2cRead a n)) s = nack)))) ∧
    (s.dev.state = .off → exec .i3cRefresh s = .next s) ∧
    (s.dev.state ≠ .off → exec .i3cRefresh s = .next { s with i3c := { s.i3c with on := true, image := s.i3cData } } ∧
      s.i3cData.getD 0x1B 0 = tempByte (hottestOf (s.env.engines.map fun e => e.2)))
end

