-- ==== Sys2Proof/Laws/Bits.lean ====
section
/-! SUPPORT. Bit fields: the bits of a field and of a word with a field replaced, reading a field back, and byte strings of numbers. -/

namespace Sys2Proof.Machine

theorem testBit_bitsOf (v hi lo i : Nat) : (bitsOf v hi lo).testBit i = (decide (i < hi + 1 - lo) && v.testBit (lo + i)) := by
  simp [bitsOf, Nat.testBit_mod_two_pow, Nat.testBit_div_two_pow, Nat.add_comm]

theorem testBit_withBits (v hi lo x i : Nat) (h : lo ≤ hi + 1) :
    (withBits v hi lo x).testBit i = if lo ≤ i ∧ i ≤ hi then x.testBit (i - lo) else v.testBit i := by
  have hlow : v % 2 ^ lo < 2 ^ lo := Nat.mod_lt _ (Nat.two_pow_pos lo)
  have hmid : x % 2 ^ (hi + 1 - lo) < 2 ^ (hi + 1 - lo) := Nat.mod_lt _ (Nat.two_pow_pos _)
  have hsum : x % 2 ^ (hi + 1 - lo) * 2 ^ lo + v % 2 ^ lo < 2 ^ (hi + 1) := by
    have e : 2 ^ (hi + 1) = 2 ^ (hi + 1 - lo) * 2 ^ lo := by rw [← Nat.pow_add]; congr 1; omega
    rw [e]
    calc x % 2 ^ (hi + 1 - lo) * 2 ^ lo + v % 2 ^ lo < x % 2 ^ (hi + 1 - lo) * 2 ^ lo + 2 ^ lo := by omega
      _ = (x % 2 ^ (hi + 1 - lo) + 1) * 2 ^ lo := by ring
      _ ≤ 2 ^ (hi + 1 - lo) * 2 ^ lo := Nat.mul_le_mul_right _ hmid
  unfold withBits
  rw [Nat.add_assoc, Nat.mul_comm (v / _), Nat.two_pow_add_eq_or_of_lt hsum, Nat.mul_comm (x % _), Nat.two_pow_add_eq_or_of_lt hlow]
  simp only [Nat.testBit_or, Nat.testBit_two_pow_mul, Nat.testBit_div_two_pow, Nat.testBit_mod_two_pow]
  by_cases h1 : lo ≤ i
  · by_cases h2 : i ≤ hi
    · simp [h1, h2, show ¬ hi + 1 ≤ i by omega, show ¬ i < lo by omega, show i - lo < hi + 1 - lo by omega]
    · simp [h1, h2, show hi + 1 ≤ i by omega, show ¬ i < lo by omega, show ¬ i - lo < hi + 1 - lo by omega]
  · simp [h1, show ¬ hi + 1 ≤ i by omega, show i < lo by omega]

/-- A field reads back as the low bits of what was put in it. -/
theorem bitsOf_withBits_same (v hi lo x : Nat) (h : lo ≤ hi + 1) : bitsOf (withBits v hi lo x) hi lo = x % 2 ^ (hi + 1 - lo) := by
  apply Nat.eq_of_testBit_eq
  intro i
  rw [testBit_bitsOf, testBit_withBits _ _ _ _ _ h, Nat.testBit_mod_two_pow]
  by_cases hi' : i < hi + 1 - lo
  · simp [hi', show lo + i ≤ hi by omega]
  · simp [hi']

/-- A field that lies apart reads as before. -/
theorem bitsOf_withBits_other (v hi lo x hi' lo' : Nat) (h : lo ≤ hi + 1) (ho : hi' < lo ∨ hi < lo') :
    bitsOf (withBits v hi lo x) hi' lo' = bitsOf v hi' lo' := by
  apply Nat.eq_of_testBit_eq
  intro i
  rw [testBit_bitsOf, testBit_bitsOf, testBit_withBits _ _ _ _ _ h]
  by_cases h1 : i < hi' + 1 - lo'
  · rw [if_neg (by omega)]
  · simp [h1]

theorem withBits_lt (v hi lo x n : Nat) (h : lo ≤ hi + 1) (hn : hi < n) (hv : v < 2 ^ n) : withBits v hi lo x < 2 ^ n := by
  apply Nat.lt_pow_two_of_testBit
  intro i hi'
  rw [testBit_withBits _ _ _ _ _ h, if_neg (by omega)]
  exact Nat.testBit_lt_two_pow (Nat.lt_of_lt_of_le hv (Nat.pow_le_pow_right (by omega) hi'))

theorem bitOf_eq_testBit (v i : Nat) : bitOf v i = v.testBit i := by
  simp only [bitOf, Nat.testBit_eq_decide_div_mod_eq]
  rfl

theorem fieldOf_withField_same (v : W64) (hi lo x : Nat) (h : lo ≤ hi + 1) (hn : hi < 64) :
    fieldOf (withField v hi lo x) hi lo = x % 2 ^ (hi + 1 - lo) := by
  have := withBits_lt v.toNat hi lo x 64 h hn v.isLt
  simp only [fieldOf, withField, BitVec.toNat_ofNat, Nat.mod_eq_of_lt this]
  exact bitsOf_withBits_same _ _ _ _ h

theorem fieldOf_withField_other (v : W64) (hi lo x hi' lo' : Nat) (h : lo ≤ hi + 1) (hn : hi < 64) (ho : hi' < lo ∨ hi < lo') :
    fieldOf (withField v hi lo x) hi' lo' = fieldOf v hi' lo' := by
  have := withBits_lt v.toNat hi lo x 64 h hn v.isLt
  simp only [fieldOf, withField, BitVec.toNat_ofNat, Nat.mod_eq_of_lt this]
  exact bitsOf_withBits_other _ _ _ _ _ _ h ho

@[simp] theorem leBytes_length (n v : Nat) : (leBytes n v).length = n := by
  induction n generalizing v with
  | zero => rfl
  | succ n ih => simp [leBytes, ih]

/-- A number's bytes read back as its low bytes (R5). -/
theorem leNat_leBytes (n v : Nat) : leNat (leBytes n v) = v % 256 ^ n := by
  induction n generalizing v with
  | zero => simp [leBytes, leNat, Nat.mod_one]
  | succ n ih =>
    simp only [leBytes, leNat, ih, BitVec.toNat_ofNat]
    rw [show (2 : Nat) ^ 8 = 256 from rfl, show 256 ^ (n + 1) = 256 * 256 ^ n by rw [Nat.pow_succ]; ring, Nat.mod_mul]

theorem leNat_lt (bs : List Byte) : leNat bs < 256 ^ bs.length := by
  induction bs with
  | nil => simp [leNat]
  | cons b bs ih =>
    have := b.isLt
    simp only [leNat, List.length_cons, Nat.pow_succ]
    omega

end Sys2Proof.Machine
end

