-- ==== Sys2Proof/Laws/Tab.lean ====
section
/-! SUPPORT. Sparse tables: what a read gives after a write, and that every operation keeps the canonical form. -/

namespace Sys2Proof.Machine

variable {α : Type}

/-! ### Reads after writes -/

@[simp] theorem Tab.get_nil (d : α) (k : Nat) : Tab.get d [] k = d := rfl

@[simp] theorem Tab.get_erase_same (d : α) (t : Tab α) (k : Nat) : Tab.get d (Tab.erase t k) k = d := by
  induction t with
  | nil => rfl
  | cons e t ih =>
    obtain ⟨j, v⟩ := e
    by_cases h : j = k
    · simpa [Tab.erase, h] using ih
    · simpa [Tab.erase, Tab.get, h] using ih

theorem Tab.get_erase_other (d : α) (t : Tab α) {k k' : Nat} (h : k' ≠ k) : Tab.get d (Tab.erase t k) k' = Tab.get d t k' := by
  induction t with
  | nil => rfl
  | cons e t ih =>
    obtain ⟨j, v⟩ := e
    by_cases hj : j = k
    · have : j ≠ k' := fun e => h (e.symm.trans hj)
      simp [Tab.erase, hj, Tab.get, ih, (hj ▸ this : k ≠ k')]
    · by_cases hk : j = k'
      · subst hk
        simp [Tab.erase, Tab.get, hj]
      · simp [Tab.erase, Tab.get, hj, hk, ih]

@[simp] theorem Tab.get_put_same (d : α) (t : Tab α) (k : Nat) (v : α) : Tab.get d (Tab.put t k v) k = v := by
  induction t with
  | nil => simp [Tab.put, Tab.get]
  | cons e t ih =>
    obtain ⟨j, w⟩ := e
    simp only [Tab.put]
    split
    · simp [Tab.get]
    · split
      · simp [Tab.get]
      · simp [Tab.get, *]

theorem Tab.get_put_other (d : α) (t : Tab α) {k k' : Nat} (v : α) (h : k' ≠ k) : Tab.get d (Tab.put t k v) k' = Tab.get d t k' := by
  induction t with
  | nil => simp [Tab.put, Tab.get, Ne.symm h]
  | cons e t ih =>
    obtain ⟨j, w⟩ := e
    simp only [Tab.put]
    split
    · simp [Tab.get, Ne.symm h]
    · split
      · rename_i hj
        subst hj
        simp [Tab.get, Ne.symm h]
      · simp [Tab.get, ih]

variable [DecidableEq α]

@[simp] theorem Tab.get_set_same (d : α) (t : Tab α) (k : Nat) (v : α) : Tab.get d (Tab.set d t k v) k = v := by
  unfold Tab.set
  split <;> simp [*]

theorem Tab.get_set_other (d : α) (t : Tab α) {k k' : Nat} (v : α) (h : k' ≠ k) : Tab.get d (Tab.set d t k v) k' = Tab.get d t k' := by
  unfold Tab.set
  split
  · exact Tab.get_erase_other d t h
  · exact Tab.get_put_other d t v h

theorem Tab.get_set (d : α) (t : Tab α) (k k' : Nat) (v : α) :
    Tab.get d (Tab.set d t k v) k' = if k' = k then v else Tab.get d t k' := by
  split
  · subst_vars; simp
  · exact Tab.get_set_other d t v ‹_›

/-- After a run of values is stored, the keys below and above the run read as before. -/
theorem Tab.get_setMany_other (d : α) (vs : List α) (t : Tab α) (k k' : Nat) (h : k' < k ∨ k + vs.length ≤ k') :
    Tab.get d (Tab.setMany d t k vs) k' = Tab.get d t k' := by
  induction vs generalizing t k with
  | nil => rfl
  | cons v vs ih =>
    simp only [List.length_cons] at h
    rw [Tab.setMany, ih _ _ (by omega), Tab.get_set_other _ _ _ (by omega)]

/-- After a run of values is stored, each key of the run reads as its value. -/
theorem Tab.get_setMany_same (d : α) (vs : List α) (t : Tab α) (k i : Nat) (h : i < vs.length) :
    Tab.get d (Tab.setMany d t k vs) (k + i) = vs[i] := by
  induction vs generalizing t k i with
  | nil => simp at h
  | cons v vs ih =>
    cases i with
    | zero => rw [Tab.setMany, Tab.get_setMany_other _ _ _ _ _ (by omega)]; simp
    | succ i =>
      have : k + (i + 1) = (k + 1) + i := by omega
      rw [Tab.setMany, this, ih _ _ i (by simpa using h)]
      simp

omit [DecidableEq α] in
theorem Tab.getMany_length (d : α) (t : Tab α) (k n : Nat) : (Tab.getMany d t k n).length = n := by
  induction n generalizing k with
  | zero => rfl
  | succ n ih => simp [Tab.getMany, ih]

omit [DecidableEq α] in
theorem Tab.find?_erase_same (t : Tab α) (k : Nat) : Tab.find? (Tab.erase t k) k = none := by
  induction t with
  | nil => rfl
  | cons e t ih =>
    obtain ⟨j, v⟩ := e
    by_cases h : j = k
    · simpa [Tab.erase, h] using ih
    · simpa [Tab.erase, Tab.find?, h] using ih

omit [DecidableEq α] in
theorem Tab.find?_put_same (t : Tab α) (k : Nat) (v : α) : Tab.find? (Tab.put t k v) k = some v := by
  induction t with
  | nil => simp [Tab.put, Tab.find?]
  | cons e t ih =>
    obtain ⟨j, w⟩ := e
    simp only [Tab.put]
    split
    · simp [Tab.find?]
    · split
      · simp [Tab.find?]
      · simp [Tab.find?, *]

omit [DecidableEq α] in
theorem Tab.find?_put_other (t : Tab α) {k k' : Nat} (v : α) (h : k' ≠ k) : Tab.find? (Tab.put t k v) k' = Tab.find? t k' := by
  induction t with
  | nil => simp [Tab.put, Tab.find?, Ne.symm h]
  | cons e t ih =>
    obtain ⟨j, w⟩ := e
    simp only [Tab.put]
    split
    · simp [Tab.find?, Ne.symm h]
    · split
      · rename_i hj
        subst hj
        simp [Tab.find?, Ne.symm h]
      · simp [Tab.find?, ih]

omit [DecidableEq α] in
theorem Tab.find?_erase_other (t : Tab α) {k k' : Nat} (h : k' ≠ k) : Tab.find? (Tab.erase t k) k' = Tab.find? t k' := by
  induction t with
  | nil => rfl
  | cons e t ih =>
    obtain ⟨j, v⟩ := e
    by_cases hj : j = k
    · have : j ≠ k' := fun e => h (e.symm.trans hj)
      simp [Tab.erase, hj, Tab.find?, ih, (hj ▸ this : k ≠ k')]
    · by_cases hk : j = k'
      · subst hk
        simp [Tab.erase, Tab.find?, hj]
      · simp [Tab.erase, Tab.find?, hj, hk, ih]

/-- A read with one default after a write with another: the value written, where either the value is not the write's default or the
defaults agree. -/
theorem Tab.find?_set_same (d : α) (t : Tab α) (k : Nat) (v : α) : (Tab.find? (Tab.set d t k v) k).getD d = v := by
  unfold Tab.set
  split
  · simp [Tab.find?_erase_same, *]
  · simp [Tab.find?_put_same]

theorem Tab.find?_set_other (d : α) (t : Tab α) {k k' : Nat} (v : α) (h : k' ≠ k) :
    Tab.find? (Tab.set d t k v) k' = Tab.find? t k' := by
  unfold Tab.set
  split
  · exact Tab.find?_erase_other t h
  · exact Tab.find?_put_other t v h

omit [DecidableEq α] in
theorem Tab.get_eq_find? (d : α) (t : Tab α) (k : Nat) : Tab.get d t k = (Tab.find? t k).getD d := by
  induction t with
  | nil => rfl
  | cons e t ih =>
    obtain ⟨j, v⟩ := e
    by_cases h : j = k <;> simp [Tab.get, Tab.find?, h, ih]

/-! ### The canonical form -/

omit [DecidableEq α] in
theorem Tab.sortedFrom_mono {lo hi : Nat} (h : lo ≤ hi) (t : Tab α) (ht : Tab.sortedFrom (some hi) t = true) :
    Tab.sortedFrom (some lo) t = true := by
  cases t with
  | nil => rfl
  | cons e t =>
    obtain ⟨j, v⟩ := e
    simp only [Tab.sortedFrom, Bool.and_eq_true, decide_eq_true_eq] at ht ⊢
    exact ⟨by omega, ht.2⟩

omit [DecidableEq α] in
theorem Tab.sortedFrom_none {lo : Option Nat} (t : Tab α) (ht : Tab.sortedFrom lo t = true) : Tab.sortedFrom none t = true := by
  cases lo with
  | none => exact ht
  | some lo =>
    cases t with
    | nil => rfl
    | cons e t =>
      obtain ⟨j, v⟩ := e
      simp only [Tab.sortedFrom, Bool.and_eq_true] at ht ⊢
      exact ht.2

omit [DecidableEq α] in
theorem Tab.sortedFrom_erase (lo : Option Nat) (t : Tab α) (k : Nat) (ht : Tab.sortedFrom lo t = true) :
    Tab.sortedFrom lo (Tab.erase t k) = true := by
  induction t generalizing lo with
  | nil => exact ht
  | cons e t ih =>
    obtain ⟨j, v⟩ := e
    have hj : Tab.sortedFrom (some j) t = true := by
      cases lo <;> simp only [Tab.sortedFrom, Bool.and_eq_true] at ht
      · exact ht
      · exact ht.2
    simp only [Tab.erase]
    split
    · refine ih lo ?_
      cases lo with
      | none => exact Tab.sortedFrom_none t hj
      | some lo =>
        simp only [Tab.sortedFrom, Bool.and_eq_true, decide_eq_true_eq] at ht
        exact Tab.sortedFrom_mono (by omega) t ht.2
    · cases lo <;> simp only [Tab.sortedFrom, Bool.and_eq_true] at ht ⊢
      · exact ih _ ht
      · exact ⟨ht.1, ih _ ht.2⟩

omit [DecidableEq α] in
theorem Tab.sortedFrom_put (lo : Option Nat) (t : Tab α) (k : Nat) (v : α) (ht : Tab.sortedFrom lo t = true)
    (hk : ∀ l, lo = some l → l < k) : Tab.sortedFrom lo (Tab.put t k v) = true := by
  induction t generalizing lo with
  | nil => cases lo <;> simp_all [Tab.put, Tab.sortedFrom]
  | cons e t ih =>
    obtain ⟨j, w⟩ := e
    have hj : Tab.sortedFrom (some j) t = true := by
      cases lo <;> simp only [Tab.sortedFrom, Bool.and_eq_true] at ht
      · exact ht
      · exact ht.2
    simp only [Tab.put]
    split
    · rename_i h
      cases lo with
      | none => simp [Tab.sortedFrom, h, hj]
      | some l => simp [Tab.sortedFrom, h, hj, hk l rfl]
    · split
      · rename_i h
        subst h
        cases lo with
        | none => simpa [Tab.sortedFrom] using hj
        | some l => simp [Tab.sortedFrom, hj, hk l rfl]
      · have := ih (some j) hj (fun l hl => by injection hl with hl; omega)
        cases lo with
        | none => simpa [Tab.sortedFrom] using this
        | some l =>
          simp only [Tab.sortedFrom, Bool.and_eq_true] at ht ⊢
          exact ⟨ht.1, this⟩

omit [DecidableEq α] in
theorem Tab.mem_erase {t : Tab α} {k : Nat} {e : Nat × α} (h : e ∈ Tab.erase t k) : e ∈ t := by
  induction t with
  | nil => exact h
  | cons f t ih =>
    obtain ⟨j, v⟩ := f
    simp only [Tab.erase] at h
    split at h
    · exact List.mem_cons_of_mem _ (ih h)
    · rcases List.mem_cons.mp h with h | h
      · exact h ▸ List.mem_cons_self
      · exact List.mem_cons_of_mem _ (ih h)

omit [DecidableEq α] in
theorem Tab.mem_put {t : Tab α} {k : Nat} {v : α} {e : Nat × α} (h : e ∈ Tab.put t k v) : e = (k, v) ∨ e ∈ t := by
  induction t with
  | nil => simpa [Tab.put] using h
  | cons f t ih =>
    obtain ⟨j, w⟩ := f
    simp only [Tab.put] at h
    split at h
    · rcases List.mem_cons.mp h with h | h
      · exact .inl h
      · exact .inr h
    · split at h
      · rcases List.mem_cons.mp h with h | h
        · exact .inl h
        · exact .inr (List.mem_cons_of_mem _ h)
      · rcases List.mem_cons.mp h with h | h
        · exact .inr (h ▸ List.mem_cons_self)
        · exact (ih h).imp_right (List.mem_cons_of_mem _)

theorem Tab.wf_iff (d : α) (t : Tab α) : Tab.wf d t = true ↔ Tab.sortedFrom none t = true ∧ ∀ e ∈ t, e.2 ≠ d := by
  simp [Tab.wf]

@[simp] theorem Tab.wf_nil (d : α) : Tab.wf d ([] : Tab α) = true := rfl

theorem Tab.wf_erase (d : α) (t : Tab α) (k : Nat) (h : Tab.wf d t = true) : Tab.wf d (Tab.erase t k) = true := by
  rw [Tab.wf_iff] at h ⊢
  exact ⟨Tab.sortedFrom_erase _ _ _ h.1, fun e he => h.2 e (Tab.mem_erase he)⟩

theorem Tab.wf_set (d : α) (t : Tab α) (k : Nat) (v : α) (h : Tab.wf d t = true) : Tab.wf d (Tab.set d t k v) = true := by
  unfold Tab.set
  split
  · exact Tab.wf_erase d t k h
  · rename_i hv
    rw [Tab.wf_iff] at h ⊢
    refine ⟨Tab.sortedFrom_put _ _ _ _ h.1 (fun l hl => by cases hl), fun e he => ?_⟩
    rcases Tab.mem_put he with rfl | he
    · exact hv
    · exact h.2 e he

theorem Tab.wf_setMany (d : α) (vs : List α) (t : Tab α) (k : Nat) (h : Tab.wf d t = true) :
    Tab.wf d (Tab.setMany d t k vs) = true := by
  induction vs generalizing t k with
  | nil => exact h
  | cons v vs ih => exact ih _ _ (Tab.wf_set d t k v h)

omit [DecidableEq α] in
theorem Tab.sortedFrom_filter (p : Nat × α → Bool) (lo : Option Nat) (t : Tab α) (ht : Tab.sortedFrom lo t = true) :
    Tab.sortedFrom lo (List.filter p t) = true := by
  induction t generalizing lo with
  | nil => exact ht
  | cons e t ih =>
    obtain ⟨j, v⟩ := e
    have hj : Tab.sortedFrom (some j) t = true := by
      cases lo <;> simp only [Tab.sortedFrom, Bool.and_eq_true] at ht
      · exact ht
      · exact ht.2
    rw [List.filter_cons]
    split
    · cases lo <;> simp only [Tab.sortedFrom, Bool.and_eq_true] at ht ⊢
      · exact ih _ ht
      · exact ⟨ht.1, ih _ ht.2⟩
    · refine ih lo ?_
      cases lo with
      | none => exact Tab.sortedFrom_none t hj
      | some lo =>
        simp only [Tab.sortedFrom, Bool.and_eq_true, decide_eq_true_eq] at ht
        exact Tab.sortedFrom_mono (by omega) t ht.2

theorem Tab.wf_filter (d : α) (p : Nat × α → Bool) (t : Tab α) (h : Tab.wf d t = true) : Tab.wf d (List.filter p t) = true := by
  rw [Tab.wf_iff] at h ⊢
  exact ⟨Tab.sortedFrom_filter p _ _ h.1, fun e he => h.2 e (List.mem_of_mem_filter he)⟩

theorem Tab.wf_eraseRange (d : α) (t : Tab α) (lo hi : Nat) (h : Tab.wf d t = true) : Tab.wf d (Tab.eraseRange t lo hi) = true :=
  Tab.wf_filter d _ t h

end Sys2Proof.Machine
end

