-- ==== Sys2Proof/Laws/Memory.lean ====
section
/-! SUPPORT. Local memory: what a byte reads as after a write, and that every operation that writes memory keeps its canonical form. -/

namespace Sys2Proof.Machine

open Sys2Proof.Safety

/-! ### The canonical form is kept -/

/-- Reset memory lists nothing. -/
theorem memWf_reset : MemWf State.reset := rfl

/-- The form rests on the memory alone. -/
theorem memWf_congr {s t : State} (h : t.mem = s.mem) (hs : MemWf s) : MemWf t := by
  unfold MemWf at *
  rw [h]
  exact hs

theorem memWf_store (s : State) (a : Nat) (bs : List Byte) (h : MemWf s) : MemWf (s.store a bs) :=
  Tab.wf_setMany Memory.unlisted bs s.mem a h

theorem memWf_writeByte (s : State) (a : Nat) (b : Byte) (h : MemWf s) : MemWf (s.writeByte a b) := by
  unfold State.writeByte
  split
  · exact Tab.wf_set Memory.unlisted s.mem a b h
  · exact h

theorem memWf_writeBytes (bs : List Byte) (s : State) (a : Nat) (h : MemWf s) : MemWf (s.writeBytes a bs) := by
  induction bs generalizing s a with
  | nil => exact h
  | cons b bs ih => exact ih _ _ (memWf_writeByte s a b h)

theorem memWf_flipBit (s : State) (unit bit : Nat) (h : MemWf s) : MemWf (s.flipBit unit bit) := by
  unfold State.flipBit
  dsimp only
  split
  · exact h
  · split
    · exact h
    · exact Tab.wf_set Memory.unlisted s.mem _ _ h

theorem memWf_fillRange (s : State) (lo hi : Nat) (h : MemWf s) : MemWf (s.fillRange lo hi) :=
  Tab.wf_eraseRange Memory.unlisted s.mem lo hi h

/-- A fold of functions that each keep the form keeps it. -/
theorem memWf_foldl {β : Type} (f : State → β → State) (hf : ∀ s b, MemWf s → MemWf (f s b)) (l : List β) (s : State) (h : MemWf s) :
    MemWf (l.foldl f s) := by
  induction l generalizing s with
  | nil => exact h
  | cons b l ih => exact ih _ (hf s b h)

theorem memWf_spillErrors (s : State) (line : Nat) (shown : List (Nat × Nat × Byte)) (h : MemWf s) : MemWf (s.spillErrors line shown) := by
  unfold State.spillErrors
  apply memWf_congr rfl
  apply memWf_foldl _ _ _ _ h
  intro s b hs
  dsimp only
  split
  · exact Tab.wf_set Memory.unlisted s.mem _ _ hs
  · exact hs

/-! ### Reads after writes -/

/-- A byte outside a store reads as before. -/
theorem byte_store_other (s : State) (a x : Nat) (bs : List Byte) (h : x < a ∨ a + bs.length ≤ x) : (s.store a bs).byte x = s.byte x :=
  Tab.get_setMany_other Memory.unlisted bs s.mem a x h

/-- A stored byte reads as its value. -/
theorem byte_store_same (s : State) (a i : Nat) (bs : List Byte) (h : i < bs.length) : (s.store a bs).byte (a + i) = bs[i] :=
  Tab.get_setMany_same Memory.unlisted bs s.mem a i h

end Sys2Proof.Machine
end

