-- ==== Sys2Proof/Laws/State.lean ====
section
/-! SUPPORT. Each update of the state leaves every other field as it was; a read after a write gives the value written. -/

namespace Sys2Proof.Machine

/-! ### setReg -/

@[simp] theorem State.setReg_dev (s : State) (r : Reg) (v : W64) : (s.setReg r v).dev = s.dev := (rfl)
@[simp] theorem State.setReg_tide (s : State) (r : Reg) (v : W64) : (s.setReg r v).tide = s.tide := (rfl)
@[simp] theorem State.setReg_govW (s : State) (r : Reg) (v : W64) : (s.setReg r v).govW = s.govW := (rfl)
@[simp] theorem State.setReg_govE (s : State) (r : Reg) (v : W64) : (s.setReg r v).govE = s.govE := (rfl)
@[simp] theorem State.setReg_run (s : State) (r : Reg) (v : W64) : (s.setReg r v).run = s.run := (rfl)
@[simp] theorem State.setReg_snap (s : State) (r : Reg) (v : W64) : (s.setReg r v).snap = s.snap := (rfl)
@[simp] theorem State.setReg_fresh (s : State) (r : Reg) (v : W64) : (s.setReg r v).fresh = s.fresh := (rfl)
@[simp] theorem State.setReg_strands (s : State) (r : Reg) (v : W64) : (s.setReg r v).strands = s.strands := (rfl)
@[simp] theorem State.setReg_code (s : State) (r : Reg) (v : W64) : (s.setReg r v).code = s.code := (rfl)
@[simp] theorem State.setReg_marks (s : State) (r : Reg) (v : W64) : (s.setReg r v).marks = s.marks := (rfl)
@[simp] theorem State.setReg_signals (s : State) (r : Reg) (v : W64) : (s.setReg r v).signals = s.signals := (rfl)
@[simp] theorem State.setReg_lockx (s : State) (r : Reg) (v : W64) : (s.setReg r v).lockx = s.lockx := (rfl)
@[simp] theorem State.setReg_ops (s : State) (r : Reg) (v : W64) : (s.setReg r v).ops = s.ops := (rfl)
@[simp] theorem State.setReg_nextOp (s : State) (r : Reg) (v : W64) : (s.setReg r v).nextOp = s.nextOp := (rfl)
@[simp] theorem State.setReg_acc (s : State) (r : Reg) (v : W64) : (s.setReg r v).acc = s.acc := (rfl)
@[simp] theorem State.setReg_feed (s : State) (r : Reg) (v : W64) : (s.setReg r v).feed = s.feed := (rfl)
@[simp] theorem State.setReg_easelFree (s : State) (r : Reg) (v : W64) : (s.setReg r v).easelFree = s.easelFree := (rfl)
@[simp] theorem State.setReg_bankFree (s : State) (r : Reg) (v : W64) : (s.setReg r v).bankFree = s.bankFree := (rfl)
@[simp] theorem State.setReg_pipeFree (s : State) (r : Reg) (v : W64) : (s.setReg r v).pipeFree = s.pipeFree := (rfl)
@[simp] theorem State.setReg_varnishFree (s : State) (r : Reg) (v : W64) : (s.setReg r v).varnishFree = s.varnishFree := (rfl)
@[simp] theorem State.setReg_vectorFree (s : State) (r : Reg) (v : W64) : (s.setReg r v).vectorFree = s.vectorFree := (rfl)
@[simp] theorem State.setReg_mem (s : State) (r : Reg) (v : W64) : (s.setReg r v).mem = s.mem := (rfl)
@[simp] theorem State.setReg_poison (s : State) (r : Reg) (v : W64) : (s.setReg r v).poison = s.poison := (rfl)
@[simp] theorem State.setReg_onDie (s : State) (r : Reg) (v : W64) : (s.setReg r v).onDie = s.onDie := (rfl)
@[simp] theorem State.setReg_main (s : State) (r : Reg) (v : W64) : (s.setReg r v).main = s.main := (rfl)
@[simp] theorem State.setReg_manifests (s : State) (r : Reg) (v : W64) : (s.setReg r v).manifests = s.manifests := (rfl)
@[simp] theorem State.setReg_grids (s : State) (r : Reg) (v : W64) : (s.setReg r v).grids = s.grids := (rfl)
@[simp] theorem State.setReg_fab (s : State) (r : Reg) (v : W64) : (s.setReg r v).fab = s.fab := (rfl)
@[simp] theorem State.setReg_red (s : State) (r : Reg) (v : W64) : (s.setReg r v).red = s.red := (rfl)
@[simp] theorem State.setReg_com (s : State) (r : Reg) (v : W64) : (s.setReg r v).com = s.com := (rfl)
@[simp] theorem State.setReg_plan (s : State) (r : Reg) (v : W64) : (s.setReg r v).plan = s.plan := (rfl)
@[simp] theorem State.setReg_log (s : State) (r : Reg) (v : W64) : (s.setReg r v).log = s.log := (rfl)
@[simp] theorem State.setReg_host (s : State) (r : Reg) (v : W64) : (s.setReg r v).host = s.host := (rfl)
@[simp] theorem State.setReg_sec (s : State) (r : Reg) (v : W64) : (s.setReg r v).sec = s.sec := (rfl)
@[simp] theorem State.setReg_env (s : State) (r : Reg) (v : W64) : (s.setReg r v).env = s.env := (rfl)
@[simp] theorem State.setReg_i3c (s : State) (r : Reg) (v : W64) : (s.setReg r v).i3c = s.i3c := (rfl)
@[simp] theorem State.setReg_totals (s : State) (r : Reg) (v : W64) : (s.setReg r v).totals = s.totals := (rfl)
@[simp] theorem State.setReg_pending (s : State) (r : Reg) (v : W64) : (s.setReg r v).pending = s.pending := (rfl)
@[simp] theorem State.setReg_freeCtr (s : State) (r : Reg) (v : W64) : (s.setReg r v).freeCtr = s.freeCtr := (rfl)

/-! ### setFld -/

@[simp] theorem State.setFld_dev (s : State) (r : Reg) (hi lo x : Nat) : (s.setFld r hi lo x).dev = s.dev := (rfl)
@[simp] theorem State.setFld_tide (s : State) (r : Reg) (hi lo x : Nat) : (s.setFld r hi lo x).tide = s.tide := (rfl)
@[simp] theorem State.setFld_govW (s : State) (r : Reg) (hi lo x : Nat) : (s.setFld r hi lo x).govW = s.govW := (rfl)
@[simp] theorem State.setFld_govE (s : State) (r : Reg) (hi lo x : Nat) : (s.setFld r hi lo x).govE = s.govE := (rfl)
@[simp] theorem State.setFld_run (s : State) (r : Reg) (hi lo x : Nat) : (s.setFld r hi lo x).run = s.run := (rfl)
@[simp] theorem State.setFld_snap (s : State) (r : Reg) (hi lo x : Nat) : (s.setFld r hi lo x).snap = s.snap := (rfl)
@[simp] theorem State.setFld_fresh (s : State) (r : Reg) (hi lo x : Nat) : (s.setFld r hi lo x).fresh = s.fresh := (rfl)
@[simp] theorem State.setFld_strands (s : State) (r : Reg) (hi lo x : Nat) : (s.setFld r hi lo x).strands = s.strands := (rfl)
@[simp] theorem State.setFld_code (s : State) (r : Reg) (hi lo x : Nat) : (s.setFld r hi lo x).code = s.code := (rfl)
@[simp] theorem State.setFld_marks (s : State) (r : Reg) (hi lo x : Nat) : (s.setFld r hi lo x).marks = s.marks := (rfl)
@[simp] theorem State.setFld_signals (s : State) (r : Reg) (hi lo x : Nat) : (s.setFld r hi lo x).signals = s.signals := (rfl)
@[simp] theorem State.setFld_lockx (s : State) (r : Reg) (hi lo x : Nat) : (s.setFld r hi lo x).lockx = s.lockx := (rfl)
@[simp] theorem State.setFld_ops (s : State) (r : Reg) (hi lo x : Nat) : (s.setFld r hi lo x).ops = s.ops := (rfl)
@[simp] theorem State.setFld_nextOp (s : State) (r : Reg) (hi lo x : Nat) : (s.setFld r hi lo x).nextOp = s.nextOp := (rfl)
@[simp] theorem State.setFld_acc (s : State) (r : Reg) (hi lo x : Nat) : (s.setFld r hi lo x).acc = s.acc := (rfl)
@[simp] theorem State.setFld_feed (s : State) (r : Reg) (hi lo x : Nat) : (s.setFld r hi lo x).feed = s.feed := (rfl)
@[simp] theorem State.setFld_easelFree (s : State) (r : Reg) (hi lo x : Nat) : (s.setFld r hi lo x).easelFree = s.easelFree := (rfl)
@[simp] theorem State.setFld_bankFree (s : State) (r : Reg) (hi lo x : Nat) : (s.setFld r hi lo x).bankFree = s.bankFree := (rfl)
@[simp] theorem State.setFld_pipeFree (s : State) (r : Reg) (hi lo x : Nat) : (s.setFld r hi lo x).pipeFree = s.pipeFree := (rfl)
@[simp] theorem State.setFld_varnishFree (s : State) (r : Reg) (hi lo x : Nat) : (s.setFld r hi lo x).varnishFree = s.varnishFree := (rfl)
@[simp] theorem State.setFld_vectorFree (s : State) (r : Reg) (hi lo x : Nat) : (s.setFld r hi lo x).vectorFree = s.vectorFree := (rfl)
@[simp] theorem State.setFld_mem (s : State) (r : Reg) (hi lo x : Nat) : (s.setFld r hi lo x).mem = s.mem := (rfl)
@[simp] theorem State.setFld_poison (s : State) (r : Reg) (hi lo x : Nat) : (s.setFld r hi lo x).poison = s.poison := (rfl)
@[simp] theorem State.setFld_onDie (s : State) (r : Reg) (hi lo x : Nat) : (s.setFld r hi lo x).onDie = s.onDie := (rfl)
@[simp] theorem State.setFld_main (s : State) (r : Reg) (hi lo x : Nat) : (s.setFld r hi lo x).main = s.main := (rfl)
@[simp] theorem State.setFld_manifests (s : State) (r : Reg) (hi lo x : Nat) : (s.setFld r hi lo x).manifests = s.manifests := (rfl)
@[simp] theorem State.setFld_grids (s : State) (r : Reg) (hi lo x : Nat) : (s.setFld r hi lo x).grids = s.grids := (rfl)
@[simp] theorem State.setFld_fab (s : State) (r : Reg) (hi lo x : Nat) : (s.setFld r hi lo x).fab = s.fab := (rfl)
@[simp] theorem State.setFld_red (s : State) (r : Reg) (hi lo x : Nat) : (s.setFld r hi lo x).red = s.red := (rfl)
@[simp] theorem State.setFld_com (s : State) (r : Reg) (hi lo x : Nat) : (s.setFld r hi lo x).com = s.com := (rfl)
@[simp] theorem State.setFld_plan (s : State) (r : Reg) (hi lo x : Nat) : (s.setFld r hi lo x).plan = s.plan := (rfl)
@[simp] theorem State.setFld_log (s : State) (r : Reg) (hi lo x : Nat) : (s.setFld r hi lo x).log = s.log := (rfl)
@[simp] theorem State.setFld_host (s : State) (r : Reg) (hi lo x : Nat) : (s.setFld r hi lo x).host = s.host := (rfl)
@[simp] theorem State.setFld_sec (s : State) (r : Reg) (hi lo x : Nat) : (s.setFld r hi lo x).sec = s.sec := (rfl)
@[simp] theorem State.setFld_env (s : State) (r : Reg) (hi lo x : Nat) : (s.setFld r hi lo x).env = s.env := (rfl)
@[simp] theorem State.setFld_i3c (s : State) (r : Reg) (hi lo x : Nat) : (s.setFld r hi lo x).i3c = s.i3c := (rfl)
@[simp] theorem State.setFld_totals (s : State) (r : Reg) (hi lo x : Nat) : (s.setFld r hi lo x).totals = s.totals := (rfl)
@[simp] theorem State.setFld_pending (s : State) (r : Reg) (hi lo x : Nat) : (s.setFld r hi lo x).pending = s.pending := (rfl)
@[simp] theorem State.setFld_freeCtr (s : State) (r : Reg) (hi lo x : Nat) : (s.setFld r hi lo x).freeCtr = s.freeCtr := (rfl)

/-! ### setRegAt -/

@[simp] theorem State.setRegAt_dev (s : State) (o : Nat) (v : W64) : (s.setRegAt o v).dev = s.dev := (rfl)
@[simp] theorem State.setRegAt_tide (s : State) (o : Nat) (v : W64) : (s.setRegAt o v).tide = s.tide := (rfl)
@[simp] theorem State.setRegAt_govW (s : State) (o : Nat) (v : W64) : (s.setRegAt o v).govW = s.govW := (rfl)
@[simp] theorem State.setRegAt_govE (s : State) (o : Nat) (v : W64) : (s.setRegAt o v).govE = s.govE := (rfl)
@[simp] theorem State.setRegAt_run (s : State) (o : Nat) (v : W64) : (s.setRegAt o v).run = s.run := (rfl)
@[simp] theorem State.setRegAt_snap (s : State) (o : Nat) (v : W64) : (s.setRegAt o v).snap = s.snap := (rfl)
@[simp] theorem State.setRegAt_fresh (s : State) (o : Nat) (v : W64) : (s.setRegAt o v).fresh = s.fresh := (rfl)
@[simp] theorem State.setRegAt_strands (s : State) (o : Nat) (v : W64) : (s.setRegAt o v).strands = s.strands := (rfl)
@[simp] theorem State.setRegAt_code (s : State) (o : Nat) (v : W64) : (s.setRegAt o v).code = s.code := (rfl)
@[simp] theorem State.setRegAt_marks (s : State) (o : Nat) (v : W64) : (s.setRegAt o v).marks = s.marks := (rfl)
@[simp] theorem State.setRegAt_signals (s : State) (o : Nat) (v : W64) : (s.setRegAt o v).signals = s.signals := (rfl)
@[simp] theorem State.setRegAt_lockx (s : State) (o : Nat) (v : W64) : (s.setRegAt o v).lockx = s.lockx := (rfl)
@[simp] theorem State.setRegAt_ops (s : State) (o : Nat) (v : W64) : (s.setRegAt o v).ops = s.ops := (rfl)
@[simp] theorem State.setRegAt_nextOp (s : State) (o : Nat) (v : W64) : (s.setRegAt o v).nextOp = s.nextOp := (rfl)
@[simp] theorem State.setRegAt_acc (s : State) (o : Nat) (v : W64) : (s.setRegAt o v).acc = s.acc := (rfl)
@[simp] theorem State.setRegAt_feed (s : State) (o : Nat) (v : W64) : (s.setRegAt o v).feed = s.feed := (rfl)
@[simp] theorem State.setRegAt_easelFree (s : State) (o : Nat) (v : W64) : (s.setRegAt o v).easelFree = s.easelFree := (rfl)
@[simp] theorem State.setRegAt_bankFree (s : State) (o : Nat) (v : W64) : (s.setRegAt o v).bankFree = s.bankFree := (rfl)
@[simp] theorem State.setRegAt_pipeFree (s : State) (o : Nat) (v : W64) : (s.setRegAt o v).pipeFree = s.pipeFree := (rfl)
@[simp] theorem State.setRegAt_varnishFree (s : State) (o : Nat) (v : W64) : (s.setRegAt o v).varnishFree = s.varnishFree := (rfl)
@[simp] theorem State.setRegAt_vectorFree (s : State) (o : Nat) (v : W64) : (s.setRegAt o v).vectorFree = s.vectorFree := (rfl)
@[simp] theorem State.setRegAt_mem (s : State) (o : Nat) (v : W64) : (s.setRegAt o v).mem = s.mem := (rfl)
@[simp] theorem State.setRegAt_poison (s : State) (o : Nat) (v : W64) : (s.setRegAt o v).poison = s.poison := (rfl)
@[simp] theorem State.setRegAt_onDie (s : State) (o : Nat) (v : W64) : (s.setRegAt o v).onDie = s.onDie := (rfl)
@[simp] theorem State.setRegAt_main (s : State) (o : Nat) (v : W64) : (s.setRegAt o v).main = s.main := (rfl)
@[simp] theorem State.setRegAt_manifests (s : State) (o : Nat) (v : W64) : (s.setRegAt o v).manifests = s.manifests := (rfl)
@[simp] theorem State.setRegAt_grids (s : State) (o : Nat) (v : W64) : (s.setRegAt o v).grids = s.grids := (rfl)
@[simp] theorem State.setRegAt_fab (s : State) (o : Nat) (v : W64) : (s.setRegAt o v).fab = s.fab := (rfl)
@[simp] theorem State.setRegAt_red (s : State) (o : Nat) (v : W64) : (s.setRegAt o v).red = s.red := (rfl)
@[simp] theorem State.setRegAt_com (s : State) (o : Nat) (v : W64) : (s.setRegAt o v).com = s.com := (rfl)
@[simp] theorem State.setRegAt_plan (s : State) (o : Nat) (v : W64) : (s.setRegAt o v).plan = s.plan := (rfl)
@[simp] theorem State.setRegAt_log (s : State) (o : Nat) (v : W64) : (s.setRegAt o v).log = s.log := (rfl)
@[simp] theorem State.setRegAt_host (s : State) (o : Nat) (v : W64) : (s.setRegAt o v).host = s.host := (rfl)
@[simp] theorem State.setRegAt_sec (s : State) (o : Nat) (v : W64) : (s.setRegAt o v).sec = s.sec := (rfl)
@[simp] theorem State.setRegAt_env (s : State) (o : Nat) (v : W64) : (s.setRegAt o v).env = s.env := (rfl)
@[simp] theorem State.setRegAt_i3c (s : State) (o : Nat) (v : W64) : (s.setRegAt o v).i3c = s.i3c := (rfl)
@[simp] theorem State.setRegAt_totals (s : State) (o : Nat) (v : W64) : (s.setRegAt o v).totals = s.totals := (rfl)
@[simp] theorem State.setRegAt_pending (s : State) (o : Nat) (v : W64) : (s.setRegAt o v).pending = s.pending := (rfl)
@[simp] theorem State.setRegAt_freeCtr (s : State) (o : Nat) (v : W64) : (s.setRegAt o v).freeCtr = s.freeCtr := (rfl)

/-! ### setBitAt -/

@[simp] theorem State.setBitAt_dev (s : State) (o b : Nat) : (s.setBitAt o b).dev = s.dev := (rfl)
@[simp] theorem State.setBitAt_tide (s : State) (o b : Nat) : (s.setBitAt o b).tide = s.tide := (rfl)
@[simp] theorem State.setBitAt_govW (s : State) (o b : Nat) : (s.setBitAt o b).govW = s.govW := (rfl)
@[simp] theorem State.setBitAt_govE (s : State) (o b : Nat) : (s.setBitAt o b).govE = s.govE := (rfl)
@[simp] theorem State.setBitAt_run (s : State) (o b : Nat) : (s.setBitAt o b).run = s.run := (rfl)
@[simp] theorem State.setBitAt_snap (s : State) (o b : Nat) : (s.setBitAt o b).snap = s.snap := (rfl)
@[simp] theorem State.setBitAt_strands (s : State) (o b : Nat) : (s.setBitAt o b).strands = s.strands := (rfl)
@[simp] theorem State.setBitAt_code (s : State) (o b : Nat) : (s.setBitAt o b).code = s.code := (rfl)
@[simp] theorem State.setBitAt_marks (s : State) (o b : Nat) : (s.setBitAt o b).marks = s.marks := (rfl)
@[simp] theorem State.setBitAt_signals (s : State) (o b : Nat) : (s.setBitAt o b).signals = s.signals := (rfl)
@[simp] theorem State.setBitAt_lockx (s : State) (o b : Nat) : (s.setBitAt o b).lockx = s.lockx := (rfl)
@[simp] theorem State.setBitAt_ops (s : State) (o b : Nat) : (s.setBitAt o b).ops = s.ops := (rfl)
@[simp] theorem State.setBitAt_nextOp (s : State) (o b : Nat) : (s.setBitAt o b).nextOp = s.nextOp := (rfl)
@[simp] theorem State.setBitAt_acc (s : State) (o b : Nat) : (s.setBitAt o b).acc = s.acc := (rfl)
@[simp] theorem State.setBitAt_feed (s : State) (o b : Nat) : (s.setBitAt o b).feed = s.feed := (rfl)
@[simp] theorem State.setBitAt_easelFree (s : State) (o b : Nat) : (s.setBitAt o b).easelFree = s.easelFree := (rfl)
@[simp] theorem State.setBitAt_bankFree (s : State) (o b : Nat) : (s.setBitAt o b).bankFree = s.bankFree := (rfl)
@[simp] theorem State.setBitAt_pipeFree (s : State) (o b : Nat) : (s.setBitAt o b).pipeFree = s.pipeFree := (rfl)
@[simp] theorem State.setBitAt_varnishFree (s : State) (o b : Nat) : (s.setBitAt o b).varnishFree = s.varnishFree := (rfl)
@[simp] theorem State.setBitAt_vectorFree (s : State) (o b : Nat) : (s.setBitAt o b).vectorFree = s.vectorFree := (rfl)
@[simp] theorem State.setBitAt_mem (s : State) (o b : Nat) : (s.setBitAt o b).mem = s.mem := (rfl)
@[simp] theorem State.setBitAt_poison (s : State) (o b : Nat) : (s.setBitAt o b).poison = s.poison := (rfl)
@[simp] theorem State.setBitAt_onDie (s : State) (o b : Nat) : (s.setBitAt o b).onDie = s.onDie := (rfl)
@[simp] theorem State.setBitAt_main (s : State) (o b : Nat) : (s.setBitAt o b).main = s.main := (rfl)
@[simp] theorem State.setBitAt_manifests (s : State) (o b : Nat) : (s.setBitAt o b).manifests = s.manifests := (rfl)
@[simp] theorem State.setBitAt_grids (s : State) (o b : Nat) : (s.setBitAt o b).grids = s.grids := (rfl)
@[simp] theorem State.setBitAt_fab (s : State) (o b : Nat) : (s.setBitAt o b).fab = s.fab := (rfl)
@[simp] theorem State.setBitAt_red (s : State) (o b : Nat) : (s.setBitAt o b).red = s.red := (rfl)
@[simp] theorem State.setBitAt_com (s : State) (o b : Nat) : (s.setBitAt o b).com = s.com := (rfl)
@[simp] theorem State.setBitAt_plan (s : State) (o b : Nat) : (s.setBitAt o b).plan = s.plan := (rfl)
@[simp] theorem State.setBitAt_log (s : State) (o b : Nat) : (s.setBitAt o b).log = s.log := (rfl)
@[simp] theorem State.setBitAt_host (s : State) (o b : Nat) : (s.setBitAt o b).host = s.host := (rfl)
@[simp] theorem State.setBitAt_sec (s : State) (o b : Nat) : (s.setBitAt o b).sec = s.sec := (rfl)
@[simp] theorem State.setBitAt_env (s : State) (o b : Nat) : (s.setBitAt o b).env = s.env := (rfl)
@[simp] theorem State.setBitAt_i3c (s : State) (o b : Nat) : (s.setBitAt o b).i3c = s.i3c := (rfl)
@[simp] theorem State.setBitAt_totals (s : State) (o b : Nat) : (s.setBitAt o b).totals = s.totals := (rfl)
@[simp] theorem State.setBitAt_pending (s : State) (o b : Nat) : (s.setBitAt o b).pending = s.pending := (rfl)
@[simp] theorem State.setBitAt_freeCtr (s : State) (o b : Nat) : (s.setBitAt o b).freeCtr = s.freeCtr := (rfl)

/-! ### countAt -/

@[simp] theorem State.countAt_dev (s : State) (o hi lo n : Nat) : (s.countAt o hi lo n).dev = s.dev := (rfl)
@[simp] theorem State.countAt_tide (s : State) (o hi lo n : Nat) : (s.countAt o hi lo n).tide = s.tide := (rfl)
@[simp] theorem State.countAt_govW (s : State) (o hi lo n : Nat) : (s.countAt o hi lo n).govW = s.govW := (rfl)
@[simp] theorem State.countAt_govE (s : State) (o hi lo n : Nat) : (s.countAt o hi lo n).govE = s.govE := (rfl)
@[simp] theorem State.countAt_run (s : State) (o hi lo n : Nat) : (s.countAt o hi lo n).run = s.run := (rfl)
@[simp] theorem State.countAt_snap (s : State) (o hi lo n : Nat) : (s.countAt o hi lo n).snap = s.snap := (rfl)
@[simp] theorem State.countAt_strands (s : State) (o hi lo n : Nat) : (s.countAt o hi lo n).strands = s.strands := (rfl)
@[simp] theorem State.countAt_code (s : State) (o hi lo n : Nat) : (s.countAt o hi lo n).code = s.code := (rfl)
@[simp] theorem State.countAt_marks (s : State) (o hi lo n : Nat) : (s.countAt o hi lo n).marks = s.marks := (rfl)
@[simp] theorem State.countAt_signals (s : State) (o hi lo n : Nat) : (s.countAt o hi lo n).signals = s.signals := (rfl)
@[simp] theorem State.countAt_lockx (s : State) (o hi lo n : Nat) : (s.countAt o hi lo n).lockx = s.lockx := (rfl)
@[simp] theorem State.countAt_ops (s : State) (o hi lo n : Nat) : (s.countAt o hi lo n).ops = s.ops := (rfl)
@[simp] theorem State.countAt_nextOp (s : State) (o hi lo n : Nat) : (s.countAt o hi lo n).nextOp = s.nextOp := (rfl)
@[simp] theorem State.countAt_acc (s : State) (o hi lo n : Nat) : (s.countAt o hi lo n).acc = s.acc := (rfl)
@[simp] theorem State.countAt_feed (s : State) (o hi lo n : Nat) : (s.countAt o hi lo n).feed = s.feed := (rfl)
@[simp] theorem State.countAt_easelFree (s : State) (o hi lo n : Nat) : (s.countAt o hi lo n).easelFree = s.easelFree := (rfl)
@[simp] theorem State.countAt_bankFree (s : State) (o hi lo n : Nat) : (s.countAt o hi lo n).bankFree = s.bankFree := (rfl)
@[simp] theorem State.countAt_pipeFree (s : State) (o hi lo n : Nat) : (s.countAt o hi lo n).pipeFree = s.pipeFree := (rfl)
@[simp] theorem State.countAt_varnishFree (s : State) (o hi lo n : Nat) : (s.countAt o hi lo n).varnishFree = s.varnishFree := (rfl)
@[simp] theorem State.countAt_vectorFree (s : State) (o hi lo n : Nat) : (s.countAt o hi lo n).vectorFree = s.vectorFree := (rfl)
@[simp] theorem State.countAt_mem (s : State) (o hi lo n : Nat) : (s.countAt o hi lo n).mem = s.mem := (rfl)
@[simp] theorem State.countAt_poison (s : State) (o hi lo n : Nat) : (s.countAt o hi lo n).poison = s.poison := (rfl)
@[simp] theorem State.countAt_onDie (s : State) (o hi lo n : Nat) : (s.countAt o hi lo n).onDie = s.onDie := (rfl)
@[simp] theorem State.countAt_main (s : State) (o hi lo n : Nat) : (s.countAt o hi lo n).main = s.main := (rfl)
@[simp] theorem State.countAt_manifests (s : State) (o hi lo n : Nat) : (s.countAt o hi lo n).manifests = s.manifests := (rfl)
@[simp] theorem State.countAt_grids (s : State) (o hi lo n : Nat) : (s.countAt o hi lo n).grids = s.grids := (rfl)
@[simp] theorem State.countAt_fab (s : State) (o hi lo n : Nat) : (s.countAt o hi lo n).fab = s.fab := (rfl)
@[simp] theorem State.countAt_red (s : State) (o hi lo n : Nat) : (s.countAt o hi lo n).red = s.red := (rfl)
@[simp] theorem State.countAt_com (s : State) (o hi lo n : Nat) : (s.countAt o hi lo n).com = s.com := (rfl)
@[simp] theorem State.countAt_plan (s : State) (o hi lo n : Nat) : (s.countAt o hi lo n).plan = s.plan := (rfl)
@[simp] theorem State.countAt_log (s : State) (o hi lo n : Nat) : (s.countAt o hi lo n).log = s.log := (rfl)
@[simp] theorem State.countAt_host (s : State) (o hi lo n : Nat) : (s.countAt o hi lo n).host = s.host := (rfl)
@[simp] theorem State.countAt_sec (s : State) (o hi lo n : Nat) : (s.countAt o hi lo n).sec = s.sec := (rfl)
@[simp] theorem State.countAt_env (s : State) (o hi lo n : Nat) : (s.countAt o hi lo n).env = s.env := (rfl)
@[simp] theorem State.countAt_i3c (s : State) (o hi lo n : Nat) : (s.countAt o hi lo n).i3c = s.i3c := (rfl)
@[simp] theorem State.countAt_totals (s : State) (o hi lo n : Nat) : (s.countAt o hi lo n).totals = s.totals := (rfl)
@[simp] theorem State.countAt_pending (s : State) (o hi lo n : Nat) : (s.countAt o hi lo n).pending = s.pending := (rfl)
@[simp] theorem State.countAt_freeCtr (s : State) (o hi lo n : Nat) : (s.countAt o hi lo n).freeCtr = s.freeCtr := (rfl)

/-! ### count -/

@[simp] theorem State.count_dev (s : State) (r : Reg) (hi lo n : Nat) : (s.count r hi lo n).dev = s.dev := (rfl)
@[simp] theorem State.count_tide (s : State) (r : Reg) (hi lo n : Nat) : (s.count r hi lo n).tide = s.tide := (rfl)
@[simp] theorem State.count_govW (s : State) (r : Reg) (hi lo n : Nat) : (s.count r hi lo n).govW = s.govW := (rfl)
@[simp] theorem State.count_govE (s : State) (r : Reg) (hi lo n : Nat) : (s.count r hi lo n).govE = s.govE := (rfl)
@[simp] theorem State.count_run (s : State) (r : Reg) (hi lo n : Nat) : (s.count r hi lo n).run = s.run := (rfl)
@[simp] theorem State.count_snap (s : State) (r : Reg) (hi lo n : Nat) : (s.count r hi lo n).snap = s.snap := (rfl)
@[simp] theorem State.count_strands (s : State) (r : Reg) (hi lo n : Nat) : (s.count r hi lo n).strands = s.strands := (rfl)
@[simp] theorem State.count_code (s : State) (r : Reg) (hi lo n : Nat) : (s.count r hi lo n).code = s.code := (rfl)
@[simp] theorem State.count_marks (s : State) (r : Reg) (hi lo n : Nat) : (s.count r hi lo n).marks = s.marks := (rfl)
@[simp] theorem State.count_signals (s : State) (r : Reg) (hi lo n : Nat) : (s.count r hi lo n).signals = s.signals := (rfl)
@[simp] theorem State.count_lockx (s : State) (r : Reg) (hi lo n : Nat) : (s.count r hi lo n).lockx = s.lockx := (rfl)
@[simp] theorem State.count_ops (s : State) (r : Reg) (hi lo n : Nat) : (s.count r hi lo n).ops = s.ops := (rfl)
@[simp] theorem State.count_nextOp (s : State) (r : Reg) (hi lo n : Nat) : (s.count r hi lo n).nextOp = s.nextOp := (rfl)
@[simp] theorem State.count_acc (s : State) (r : Reg) (hi lo n : Nat) : (s.count r hi lo n).acc = s.acc := (rfl)
@[simp] theorem State.count_feed (s : State) (r : Reg) (hi lo n : Nat) : (s.count r hi lo n).feed = s.feed := (rfl)
@[simp] theorem State.count_easelFree (s : State) (r : Reg) (hi lo n : Nat) : (s.count r hi lo n).easelFree = s.easelFree := (rfl)
@[simp] theorem State.count_bankFree (s : State) (r : Reg) (hi lo n : Nat) : (s.count r hi lo n).bankFree = s.bankFree := (rfl)
@[simp] theorem State.count_pipeFree (s : State) (r : Reg) (hi lo n : Nat) : (s.count r hi lo n).pipeFree = s.pipeFree := (rfl)
@[simp] theorem State.count_varnishFree (s : State) (r : Reg) (hi lo n : Nat) : (s.count r hi lo n).varnishFree = s.varnishFree := (rfl)
@[simp] theorem State.count_vectorFree (s : State) (r : Reg) (hi lo n : Nat) : (s.count r hi lo n).vectorFree = s.vectorFree := (rfl)
@[simp] theorem State.count_mem (s : State) (r : Reg) (hi lo n : Nat) : (s.count r hi lo n).mem = s.mem := (rfl)
@[simp] theorem State.count_poison (s : State) (r : Reg) (hi lo n : Nat) : (s.count r hi lo n).poison = s.poison := (rfl)
@[simp] theorem State.count_onDie (s : State) (r : Reg) (hi lo n : Nat) : (s.count r hi lo n).onDie = s.onDie := (rfl)
@[simp] theorem State.count_main (s : State) (r : Reg) (hi lo n : Nat) : (s.count r hi lo n).main = s.main := (rfl)
@[simp] theorem State.count_manifests (s : State) (r : Reg) (hi lo n : Nat) : (s.count r hi lo n).manifests = s.manifests := (rfl)
@[simp] theorem State.count_grids (s : State) (r : Reg) (hi lo n : Nat) : (s.count r hi lo n).grids = s.grids := (rfl)
@[simp] theorem State.count_fab (s : State) (r : Reg) (hi lo n : Nat) : (s.count r hi lo n).fab = s.fab := (rfl)
@[simp] theorem State.count_red (s : State) (r : Reg) (hi lo n : Nat) : (s.count r hi lo n).red = s.red := (rfl)
@[simp] theorem State.count_com (s : State) (r : Reg) (hi lo n : Nat) : (s.count r hi lo n).com = s.com := (rfl)
@[simp] theorem State.count_plan (s : State) (r : Reg) (hi lo n : Nat) : (s.count r hi lo n).plan = s.plan := (rfl)
@[simp] theorem State.count_log (s : State) (r : Reg) (hi lo n : Nat) : (s.count r hi lo n).log = s.log := (rfl)
@[simp] theorem State.count_host (s : State) (r : Reg) (hi lo n : Nat) : (s.count r hi lo n).host = s.host := (rfl)
@[simp] theorem State.count_sec (s : State) (r : Reg) (hi lo n : Nat) : (s.count r hi lo n).sec = s.sec := (rfl)
@[simp] theorem State.count_env (s : State) (r : Reg) (hi lo n : Nat) : (s.count r hi lo n).env = s.env := (rfl)
@[simp] theorem State.count_i3c (s : State) (r : Reg) (hi lo n : Nat) : (s.count r hi lo n).i3c = s.i3c := (rfl)
@[simp] theorem State.count_totals (s : State) (r : Reg) (hi lo n : Nat) : (s.count r hi lo n).totals = s.totals := (rfl)
@[simp] theorem State.count_pending (s : State) (r : Reg) (hi lo n : Nat) : (s.count r hi lo n).pending = s.pending := (rfl)
@[simp] theorem State.count_freeCtr (s : State) (r : Reg) (hi lo n : Nat) : (s.count r hi lo n).freeCtr = s.freeCtr := (rfl)

/-! ### takeFree -/

@[simp] theorem State.takeFree_dev (s : State) : (s.takeFree.2).dev = s.dev := (rfl)
@[simp] theorem State.takeFree_tide (s : State) : (s.takeFree.2).tide = s.tide := (rfl)
@[simp] theorem State.takeFree_govW (s : State) : (s.takeFree.2).govW = s.govW := (rfl)
@[simp] theorem State.takeFree_govE (s : State) : (s.takeFree.2).govE = s.govE := (rfl)
@[simp] theorem State.takeFree_run (s : State) : (s.takeFree.2).run = s.run := (rfl)
@[simp] theorem State.takeFree_regs (s : State) : (s.takeFree.2).regs = s.regs := (rfl)
@[simp] theorem State.takeFree_fresh (s : State) : (s.takeFree.2).fresh = s.fresh := (rfl)
@[simp] theorem State.takeFree_snap (s : State) : (s.takeFree.2).snap = s.snap := (rfl)
@[simp] theorem State.takeFree_strands (s : State) : (s.takeFree.2).strands = s.strands := (rfl)
@[simp] theorem State.takeFree_code (s : State) : (s.takeFree.2).code = s.code := (rfl)
@[simp] theorem State.takeFree_marks (s : State) : (s.takeFree.2).marks = s.marks := (rfl)
@[simp] theorem State.takeFree_signals (s : State) : (s.takeFree.2).signals = s.signals := (rfl)
@[simp] theorem State.takeFree_lockx (s : State) : (s.takeFree.2).lockx = s.lockx := (rfl)
@[simp] theorem State.takeFree_ops (s : State) : (s.takeFree.2).ops = s.ops := (rfl)
@[simp] theorem State.takeFree_nextOp (s : State) : (s.takeFree.2).nextOp = s.nextOp := (rfl)
@[simp] theorem State.takeFree_acc (s : State) : (s.takeFree.2).acc = s.acc := (rfl)
@[simp] theorem State.takeFree_feed (s : State) : (s.takeFree.2).feed = s.feed := (rfl)
@[simp] theorem State.takeFree_easelFree (s : State) : (s.takeFree.2).easelFree = s.easelFree := (rfl)
@[simp] theorem State.takeFree_bankFree (s : State) : (s.takeFree.2).bankFree = s.bankFree := (rfl)
@[simp] theorem State.takeFree_pipeFree (s : State) : (s.takeFree.2).pipeFree = s.pipeFree := (rfl)
@[simp] theorem State.takeFree_varnishFree (s : State) : (s.takeFree.2).varnishFree = s.varnishFree := (rfl)
@[simp] theorem State.takeFree_vectorFree (s : State) : (s.takeFree.2).vectorFree = s.vectorFree := (rfl)
@[simp] theorem State.takeFree_mem (s : State) : (s.takeFree.2).mem = s.mem := (rfl)
@[simp] theorem State.takeFree_poison (s : State) : (s.takeFree.2).poison = s.poison := (rfl)
@[simp] theorem State.takeFree_onDie (s : State) : (s.takeFree.2).onDie = s.onDie := (rfl)
@[simp] theorem State.takeFree_main (s : State) : (s.takeFree.2).main = s.main := (rfl)
@[simp] theorem State.takeFree_manifests (s : State) : (s.takeFree.2).manifests = s.manifests := (rfl)
@[simp] theorem State.takeFree_grids (s : State) : (s.takeFree.2).grids = s.grids := (rfl)
@[simp] theorem State.takeFree_fab (s : State) : (s.takeFree.2).fab = s.fab := (rfl)
@[simp] theorem State.takeFree_red (s : State) : (s.takeFree.2).red = s.red := (rfl)
@[simp] theorem State.takeFree_com (s : State) : (s.takeFree.2).com = s.com := (rfl)
@[simp] theorem State.takeFree_plan (s : State) : (s.takeFree.2).plan = s.plan := (rfl)
@[simp] theorem State.takeFree_log (s : State) : (s.takeFree.2).log = s.log := (rfl)
@[simp] theorem State.takeFree_host (s : State) : (s.takeFree.2).host = s.host := (rfl)
@[simp] theorem State.takeFree_sec (s : State) : (s.takeFree.2).sec = s.sec := (rfl)
@[simp] theorem State.takeFree_env (s : State) : (s.takeFree.2).env = s.env := (rfl)
@[simp] theorem State.takeFree_i3c (s : State) : (s.takeFree.2).i3c = s.i3c := (rfl)
@[simp] theorem State.takeFree_totals (s : State) : (s.takeFree.2).totals = s.totals := (rfl)
@[simp] theorem State.takeFree_pending (s : State) : (s.takeFree.2).pending = s.pending := (rfl)

/-! ### setStrand -/

@[simp] theorem State.setStrand_dev (s : State) (k : Nat) (st : Strand) : (s.setStrand k st).dev = s.dev := (rfl)
@[simp] theorem State.setStrand_tide (s : State) (k : Nat) (st : Strand) : (s.setStrand k st).tide = s.tide := (rfl)
@[simp] theorem State.setStrand_govW (s : State) (k : Nat) (st : Strand) : (s.setStrand k st).govW = s.govW := (rfl)
@[simp] theorem State.setStrand_govE (s : State) (k : Nat) (st : Strand) : (s.setStrand k st).govE = s.govE := (rfl)
@[simp] theorem State.setStrand_run (s : State) (k : Nat) (st : Strand) : (s.setStrand k st).run = s.run := (rfl)
@[simp] theorem State.setStrand_regs (s : State) (k : Nat) (st : Strand) : (s.setStrand k st).regs = s.regs := (rfl)
@[simp] theorem State.setStrand_fresh (s : State) (k : Nat) (st : Strand) : (s.setStrand k st).fresh = s.fresh := (rfl)
@[simp] theorem State.setStrand_snap (s : State) (k : Nat) (st : Strand) : (s.setStrand k st).snap = s.snap := (rfl)
@[simp] theorem State.setStrand_code (s : State) (k : Nat) (st : Strand) : (s.setStrand k st).code = s.code := (rfl)
@[simp] theorem State.setStrand_marks (s : State) (k : Nat) (st : Strand) : (s.setStrand k st).marks = s.marks := (rfl)
@[simp] theorem State.setStrand_signals (s : State) (k : Nat) (st : Strand) : (s.setStrand k st).signals = s.signals := (rfl)
@[simp] theorem State.setStrand_lockx (s : State) (k : Nat) (st : Strand) : (s.setStrand k st).lockx = s.lockx := (rfl)
@[simp] theorem State.setStrand_ops (s : State) (k : Nat) (st : Strand) : (s.setStrand k st).ops = s.ops := (rfl)
@[simp] theorem State.setStrand_nextOp (s : State) (k : Nat) (st : Strand) : (s.setStrand k st).nextOp = s.nextOp := (rfl)
@[simp] theorem State.setStrand_acc (s : State) (k : Nat) (st : Strand) : (s.setStrand k st).acc = s.acc := (rfl)
@[simp] theorem State.setStrand_feed (s : State) (k : Nat) (st : Strand) : (s.setStrand k st).feed = s.feed := (rfl)
@[simp] theorem State.setStrand_easelFree (s : State) (k : Nat) (st : Strand) : (s.setStrand k st).easelFree = s.easelFree := (rfl)
@[simp] theorem State.setStrand_bankFree (s : State) (k : Nat) (st : Strand) : (s.setStrand k st).bankFree = s.bankFree := (rfl)
@[simp] theorem State.setStrand_pipeFree (s : State) (k : Nat) (st : Strand) : (s.setStrand k st).pipeFree = s.pipeFree := (rfl)
@[simp] theorem State.setStrand_varnishFree (s : State) (k : Nat) (st : Strand) : (s.setStrand k st).varnishFree = s.varnishFree := (rfl)
@[simp] theorem State.setStrand_vectorFree (s : State) (k : Nat) (st : Strand) : (s.setStrand k st).vectorFree = s.vectorFree := (rfl)
@[simp] theorem State.setStrand_mem (s : State) (k : Nat) (st : Strand) : (s.setStrand k st).mem = s.mem := (rfl)
@[simp] theorem State.setStrand_poison (s : State) (k : Nat) (st : Strand) : (s.setStrand k st).poison = s.poison := (rfl)
@[simp] theorem State.setStrand_onDie (s : State) (k : Nat) (st : Strand) : (s.setStrand k st).onDie = s.onDie := (rfl)
@[simp] theorem State.setStrand_main (s : State) (k : Nat) (st : Strand) : (s.setStrand k st).main = s.main := (rfl)
@[simp] theorem State.setStrand_manifests (s : State) (k : Nat) (st : Strand) : (s.setStrand k st).manifests = s.manifests := (rfl)
@[simp] theorem State.setStrand_grids (s : State) (k : Nat) (st : Strand) : (s.setStrand k st).grids = s.grids := (rfl)
@[simp] theorem State.setStrand_fab (s : State) (k : Nat) (st : Strand) : (s.setStrand k st).fab = s.fab := (rfl)
@[simp] theorem State.setStrand_red (s : State) (k : Nat) (st : Strand) : (s.setStrand k st).red = s.red := (rfl)
@[simp] theorem State.setStrand_com (s : State) (k : Nat) (st : Strand) : (s.setStrand k st).com = s.com := (rfl)
@[simp] theorem State.setStrand_plan (s : State) (k : Nat) (st : Strand) : (s.setStrand k st).plan = s.plan := (rfl)
@[simp] theorem State.setStrand_log (s : State) (k : Nat) (st : Strand) : (s.setStrand k st).log = s.log := (rfl)
@[simp] theorem State.setStrand_host (s : State) (k : Nat) (st : Strand) : (s.setStrand k st).host = s.host := (rfl)
@[simp] theorem State.setStrand_sec (s : State) (k : Nat) (st : Strand) : (s.setStrand k st).sec = s.sec := (rfl)
@[simp] theorem State.setStrand_env (s : State) (k : Nat) (st : Strand) : (s.setStrand k st).env = s.env := (rfl)
@[simp] theorem State.setStrand_i3c (s : State) (k : Nat) (st : Strand) : (s.setStrand k st).i3c = s.i3c := (rfl)
@[simp] theorem State.setStrand_totals (s : State) (k : Nat) (st : Strand) : (s.setStrand k st).totals = s.totals := (rfl)
@[simp] theorem State.setStrand_pending (s : State) (k : Nat) (st : Strand) : (s.setStrand k st).pending = s.pending := (rfl)
@[simp] theorem State.setStrand_freeCtr (s : State) (k : Nat) (st : Strand) : (s.setStrand k st).freeCtr = s.freeCtr := (rfl)

/-! ### store -/

@[simp] theorem State.store_dev (s : State) (a : Nat) (bs : List Byte) : (s.store a bs).dev = s.dev := (rfl)
@[simp] theorem State.store_tide (s : State) (a : Nat) (bs : List Byte) : (s.store a bs).tide = s.tide := (rfl)
@[simp] theorem State.store_govW (s : State) (a : Nat) (bs : List Byte) : (s.store a bs).govW = s.govW := (rfl)
@[simp] theorem State.store_govE (s : State) (a : Nat) (bs : List Byte) : (s.store a bs).govE = s.govE := (rfl)
@[simp] theorem State.store_run (s : State) (a : Nat) (bs : List Byte) : (s.store a bs).run = s.run := (rfl)
@[simp] theorem State.store_regs (s : State) (a : Nat) (bs : List Byte) : (s.store a bs).regs = s.regs := (rfl)
@[simp] theorem State.store_fresh (s : State) (a : Nat) (bs : List Byte) : (s.store a bs).fresh = s.fresh := (rfl)
@[simp] theorem State.store_snap (s : State) (a : Nat) (bs : List Byte) : (s.store a bs).snap = s.snap := (rfl)
@[simp] theorem State.store_strands (s : State) (a : Nat) (bs : List Byte) : (s.store a bs).strands = s.strands := (rfl)
@[simp] theorem State.store_code (s : State) (a : Nat) (bs : List Byte) : (s.store a bs).code = s.code := (rfl)
@[simp] theorem State.store_marks (s : State) (a : Nat) (bs : List Byte) : (s.store a bs).marks = s.marks := (rfl)
@[simp] theorem State.store_signals (s : State) (a : Nat) (bs : List Byte) : (s.store a bs).signals = s.signals := (rfl)
@[simp] theorem State.store_lockx (s : State) (a : Nat) (bs : List Byte) : (s.store a bs).lockx = s.lockx := (rfl)
@[simp] theorem State.store_ops (s : State) (a : Nat) (bs : List Byte) : (s.store a bs).ops = s.ops := (rfl)
@[simp] theorem State.store_nextOp (s : State) (a : Nat) (bs : List Byte) : (s.store a bs).nextOp = s.nextOp := (rfl)
@[simp] theorem State.store_acc (s : State) (a : Nat) (bs : List Byte) : (s.store a bs).acc = s.acc := (rfl)
@[simp] theorem State.store_feed (s : State) (a : Nat) (bs : List Byte) : (s.store a bs).feed = s.feed := (rfl)
@[simp] theorem State.store_easelFree (s : State) (a : Nat) (bs : List Byte) : (s.store a bs).easelFree = s.easelFree := (rfl)
@[simp] theorem State.store_bankFree (s : State) (a : Nat) (bs : List Byte) : (s.store a bs).bankFree = s.bankFree := (rfl)
@[simp] theorem State.store_pipeFree (s : State) (a : Nat) (bs : List Byte) : (s.store a bs).pipeFree = s.pipeFree := (rfl)
@[simp] theorem State.store_varnishFree (s : State) (a : Nat) (bs : List Byte) : (s.store a bs).varnishFree = s.varnishFree := (rfl)
@[simp] theorem State.store_vectorFree (s : State) (a : Nat) (bs : List Byte) : (s.store a bs).vectorFree = s.vectorFree := (rfl)
@[simp] theorem State.store_poison (s : State) (a : Nat) (bs : List Byte) : (s.store a bs).poison = s.poison := (rfl)
@[simp] theorem State.store_onDie (s : State) (a : Nat) (bs : List Byte) : (s.store a bs).onDie = s.onDie := (rfl)
@[simp] theorem State.store_main (s : State) (a : Nat) (bs : List Byte) : (s.store a bs).main = s.main := (rfl)
@[simp] theorem State.store_manifests (s : State) (a : Nat) (bs : List Byte) : (s.store a bs).manifests = s.manifests := (rfl)
@[simp] theorem State.store_grids (s : State) (a : Nat) (bs : List Byte) : (s.store a bs).grids = s.grids := (rfl)
@[simp] theorem State.store_fab (s : State) (a : Nat) (bs : List Byte) : (s.store a bs).fab = s.fab := (rfl)
@[simp] theorem State.store_red (s : State) (a : Nat) (bs : List Byte) : (s.store a bs).red = s.red := (rfl)
@[simp] theorem State.store_com (s : State) (a : Nat) (bs : List Byte) : (s.store a bs).com = s.com := (rfl)
@[simp] theorem State.store_plan (s : State) (a : Nat) (bs : List Byte) : (s.store a bs).plan = s.plan := (rfl)
@[simp] theorem State.store_log (s : State) (a : Nat) (bs : List Byte) : (s.store a bs).log = s.log := (rfl)
@[simp] theorem State.store_host (s : State) (a : Nat) (bs : List Byte) : (s.store a bs).host = s.host := (rfl)
@[simp] theorem State.store_sec (s : State) (a : Nat) (bs : List Byte) : (s.store a bs).sec = s.sec := (rfl)
@[simp] theorem State.store_env (s : State) (a : Nat) (bs : List Byte) : (s.store a bs).env = s.env := (rfl)
@[simp] theorem State.store_i3c (s : State) (a : Nat) (bs : List Byte) : (s.store a bs).i3c = s.i3c := (rfl)
@[simp] theorem State.store_totals (s : State) (a : Nat) (bs : List Byte) : (s.store a bs).totals = s.totals := (rfl)
@[simp] theorem State.store_pending (s : State) (a : Nat) (bs : List Byte) : (s.store a bs).pending = s.pending := (rfl)
@[simp] theorem State.store_freeCtr (s : State) (a : Nat) (bs : List Byte) : (s.store a bs).freeCtr = s.freeCtr := (rfl)

/-! ### disarm -/

@[simp] theorem State.disarm_dev (s : State) (i j : Nat) : (s.disarm i j).dev = s.dev := (rfl)
@[simp] theorem State.disarm_tide (s : State) (i j : Nat) : (s.disarm i j).tide = s.tide := (rfl)
@[simp] theorem State.disarm_govW (s : State) (i j : Nat) : (s.disarm i j).govW = s.govW := (rfl)
@[simp] theorem State.disarm_govE (s : State) (i j : Nat) : (s.disarm i j).govE = s.govE := (rfl)
@[simp] theorem State.disarm_run (s : State) (i j : Nat) : (s.disarm i j).run = s.run := (rfl)
@[simp] theorem State.disarm_regs (s : State) (i j : Nat) : (s.disarm i j).regs = s.regs := (rfl)
@[simp] theorem State.disarm_fresh (s : State) (i j : Nat) : (s.disarm i j).fresh = s.fresh := (rfl)
@[simp] theorem State.disarm_snap (s : State) (i j : Nat) : (s.disarm i j).snap = s.snap := (rfl)
@[simp] theorem State.disarm_strands (s : State) (i j : Nat) : (s.disarm i j).strands = s.strands := (rfl)
@[simp] theorem State.disarm_code (s : State) (i j : Nat) : (s.disarm i j).code = s.code := (rfl)
@[simp] theorem State.disarm_marks (s : State) (i j : Nat) : (s.disarm i j).marks = s.marks := (rfl)
@[simp] theorem State.disarm_signals (s : State) (i j : Nat) : (s.disarm i j).signals = s.signals := (rfl)
@[simp] theorem State.disarm_lockx (s : State) (i j : Nat) : (s.disarm i j).lockx = s.lockx := (rfl)
@[simp] theorem State.disarm_ops (s : State) (i j : Nat) : (s.disarm i j).ops = s.ops := (rfl)
@[simp] theorem State.disarm_nextOp (s : State) (i j : Nat) : (s.disarm i j).nextOp = s.nextOp := (rfl)
@[simp] theorem State.disarm_acc (s : State) (i j : Nat) : (s.disarm i j).acc = s.acc := (rfl)
@[simp] theorem State.disarm_feed (s : State) (i j : Nat) : (s.disarm i j).feed = s.feed := (rfl)
@[simp] theorem State.disarm_easelFree (s : State) (i j : Nat) : (s.disarm i j).easelFree = s.easelFree := (rfl)
@[simp] theorem State.disarm_bankFree (s : State) (i j : Nat) : (s.disarm i j).bankFree = s.bankFree := (rfl)
@[simp] theorem State.disarm_pipeFree (s : State) (i j : Nat) : (s.disarm i j).pipeFree = s.pipeFree := (rfl)
@[simp] theorem State.disarm_varnishFree (s : State) (i j : Nat) : (s.disarm i j).varnishFree = s.varnishFree := (rfl)
@[simp] theorem State.disarm_vectorFree (s : State) (i j : Nat) : (s.disarm i j).vectorFree = s.vectorFree := (rfl)
@[simp] theorem State.disarm_mem (s : State) (i j : Nat) : (s.disarm i j).mem = s.mem := (rfl)
@[simp] theorem State.disarm_poison (s : State) (i j : Nat) : (s.disarm i j).poison = s.poison := (rfl)
@[simp] theorem State.disarm_onDie (s : State) (i j : Nat) : (s.disarm i j).onDie = s.onDie := (rfl)
@[simp] theorem State.disarm_main (s : State) (i j : Nat) : (s.disarm i j).main = s.main := (rfl)
@[simp] theorem State.disarm_manifests (s : State) (i j : Nat) : (s.disarm i j).manifests = s.manifests := (rfl)
@[simp] theorem State.disarm_grids (s : State) (i j : Nat) : (s.disarm i j).grids = s.grids := (rfl)
@[simp] theorem State.disarm_fab (s : State) (i j : Nat) : (s.disarm i j).fab = s.fab := (rfl)
@[simp] theorem State.disarm_red (s : State) (i j : Nat) : (s.disarm i j).red = s.red := (rfl)
@[simp] theorem State.disarm_com (s : State) (i j : Nat) : (s.disarm i j).com = s.com := (rfl)
@[simp] theorem State.disarm_plan (s : State) (i j : Nat) : (s.disarm i j).plan = s.plan := (rfl)
@[simp] theorem State.disarm_host (s : State) (i j : Nat) : (s.disarm i j).host = s.host := (rfl)
@[simp] theorem State.disarm_sec (s : State) (i j : Nat) : (s.disarm i j).sec = s.sec := (rfl)
@[simp] theorem State.disarm_env (s : State) (i j : Nat) : (s.disarm i j).env = s.env := (rfl)
@[simp] theorem State.disarm_i3c (s : State) (i j : Nat) : (s.disarm i j).i3c = s.i3c := (rfl)
@[simp] theorem State.disarm_totals (s : State) (i j : Nat) : (s.disarm i j).totals = s.totals := (rfl)
@[simp] theorem State.disarm_pending (s : State) (i j : Nat) : (s.disarm i j).pending = s.pending := (rfl)
@[simp] theorem State.disarm_freeCtr (s : State) (i j : Nat) : (s.disarm i j).freeCtr = s.freeCtr := (rfl)

/-! ### setTraceBuf -/

@[simp] theorem State.setTraceBuf_dev (s : State) (i : Nat) (b : TraceBuf) : (s.setTraceBuf i b).dev = s.dev := (rfl)
@[simp] theorem State.setTraceBuf_tide (s : State) (i : Nat) (b : TraceBuf) : (s.setTraceBuf i b).tide = s.tide := (rfl)
@[simp] theorem State.setTraceBuf_govW (s : State) (i : Nat) (b : TraceBuf) : (s.setTraceBuf i b).govW = s.govW := (rfl)
@[simp] theorem State.setTraceBuf_govE (s : State) (i : Nat) (b : TraceBuf) : (s.setTraceBuf i b).govE = s.govE := (rfl)
@[simp] theorem State.setTraceBuf_run (s : State) (i : Nat) (b : TraceBuf) : (s.setTraceBuf i b).run = s.run := (rfl)
@[simp] theorem State.setTraceBuf_regs (s : State) (i : Nat) (b : TraceBuf) : (s.setTraceBuf i b).regs = s.regs := (rfl)
@[simp] theorem State.setTraceBuf_fresh (s : State) (i : Nat) (b : TraceBuf) : (s.setTraceBuf i b).fresh = s.fresh := (rfl)
@[simp] theorem State.setTraceBuf_snap (s : State) (i : Nat) (b : TraceBuf) : (s.setTraceBuf i b).snap = s.snap := (rfl)
@[simp] theorem State.setTraceBuf_strands (s : State) (i : Nat) (b : TraceBuf) : (s.setTraceBuf i b).strands = s.strands := (rfl)
@[simp] theorem State.setTraceBuf_code (s : State) (i : Nat) (b : TraceBuf) : (s.setTraceBuf i b).code = s.code := (rfl)
@[simp] theorem State.setTraceBuf_marks (s : State) (i : Nat) (b : TraceBuf) : (s.setTraceBuf i b).marks = s.marks := (rfl)
@[simp] theorem State.setTraceBuf_signals (s : State) (i : Nat) (b : TraceBuf) : (s.setTraceBuf i b).signals = s.signals := (rfl)
@[simp] theorem State.setTraceBuf_lockx (s : State) (i : Nat) (b : TraceBuf) : (s.setTraceBuf i b).lockx = s.lockx := (rfl)
@[simp] theorem State.setTraceBuf_ops (s : State) (i : Nat) (b : TraceBuf) : (s.setTraceBuf i b).ops = s.ops := (rfl)
@[simp] theorem State.setTraceBuf_nextOp (s : State) (i : Nat) (b : TraceBuf) : (s.setTraceBuf i b).nextOp = s.nextOp := (rfl)
@[simp] theorem State.setTraceBuf_acc (s : State) (i : Nat) (b : TraceBuf) : (s.setTraceBuf i b).acc = s.acc := (rfl)
@[simp] theorem State.setTraceBuf_feed (s : State) (i : Nat) (b : TraceBuf) : (s.setTraceBuf i b).feed = s.feed := (rfl)
@[simp] theorem State.setTraceBuf_easelFree (s : State) (i : Nat) (b : TraceBuf) : (s.setTraceBuf i b).easelFree = s.easelFree := (rfl)
@[simp] theorem State.setTraceBuf_bankFree (s : State) (i : Nat) (b : TraceBuf) : (s.setTraceBuf i b).bankFree = s.bankFree := (rfl)
@[simp] theorem State.setTraceBuf_pipeFree (s : State) (i : Nat) (b : TraceBuf) : (s.setTraceBuf i b).pipeFree = s.pipeFree := (rfl)
@[simp] theorem State.setTraceBuf_varnishFree (s : State) (i : Nat) (b : TraceBuf) : (s.setTraceBuf i b).varnishFree = s.varnishFree := (rfl)
@[simp] theorem State.setTraceBuf_vectorFree (s : State) (i : Nat) (b : TraceBuf) : (s.setTraceBuf i b).vectorFree = s.vectorFree := (rfl)
@[simp] theorem State.setTraceBuf_mem (s : State) (i : Nat) (b : TraceBuf) : (s.setTraceBuf i b).mem = s.mem := (rfl)
@[simp] theorem State.setTraceBuf_poison (s : State) (i : Nat) (b : TraceBuf) : (s.setTraceBuf i b).poison = s.poison := (rfl)
@[simp] theorem State.setTraceBuf_onDie (s : State) (i : Nat) (b : TraceBuf) : (s.setTraceBuf i b).onDie = s.onDie := (rfl)
@[simp] theorem State.setTraceBuf_main (s : State) (i : Nat) (b : TraceBuf) : (s.setTraceBuf i b).main = s.main := (rfl)
@[simp] theorem State.setTraceBuf_manifests (s : State) (i : Nat) (b : TraceBuf) : (s.setTraceBuf i b).manifests = s.manifests := (rfl)
@[simp] theorem State.setTraceBuf_grids (s : State) (i : Nat) (b : TraceBuf) : (s.setTraceBuf i b).grids = s.grids := (rfl)
@[simp] theorem State.setTraceBuf_fab (s : State) (i : Nat) (b : TraceBuf) : (s.setTraceBuf i b).fab = s.fab := (rfl)
@[simp] theorem State.setTraceBuf_red (s : State) (i : Nat) (b : TraceBuf) : (s.setTraceBuf i b).red = s.red := (rfl)
@[simp] theorem State.setTraceBuf_com (s : State) (i : Nat) (b : TraceBuf) : (s.setTraceBuf i b).com = s.com := (rfl)
@[simp] theorem State.setTraceBuf_plan (s : State) (i : Nat) (b : TraceBuf) : (s.setTraceBuf i b).plan = s.plan := (rfl)
@[simp] theorem State.setTraceBuf_host (s : State) (i : Nat) (b : TraceBuf) : (s.setTraceBuf i b).host = s.host := (rfl)
@[simp] theorem State.setTraceBuf_sec (s : State) (i : Nat) (b : TraceBuf) : (s.setTraceBuf i b).sec = s.sec := (rfl)
@[simp] theorem State.setTraceBuf_env (s : State) (i : Nat) (b : TraceBuf) : (s.setTraceBuf i b).env = s.env := (rfl)
@[simp] theorem State.setTraceBuf_i3c (s : State) (i : Nat) (b : TraceBuf) : (s.setTraceBuf i b).i3c = s.i3c := (rfl)
@[simp] theorem State.setTraceBuf_totals (s : State) (i : Nat) (b : TraceBuf) : (s.setTraceBuf i b).totals = s.totals := (rfl)
@[simp] theorem State.setTraceBuf_pending (s : State) (i : Nat) (b : TraceBuf) : (s.setTraceBuf i b).pending = s.pending := (rfl)
@[simp] theorem State.setTraceBuf_freeCtr (s : State) (i : Nat) (b : TraceBuf) : (s.setTraceBuf i b).freeCtr = s.freeCtr := (rfl)

/-! ### Reads after writes -/

@[simp] theorem State.reg_setReg_same (s : State) (r : Reg) (v : W64) : (s.setReg r v).reg r = v := Tab.find?_set_same _ _ _ _

theorem State.reg_setReg_other (s : State) (r r' : Reg) (v : W64) (h : r'.offset ≠ r.offset) : (s.setReg r v).reg r' = s.reg r' := by
  simp only [State.reg, State.setReg, Tab.find?_set_other _ _ _ h]

@[simp] theorem State.regAt_setRegAt_same (s : State) (o : Nat) (v : W64) : (s.setRegAt o v).regAt o = v := Tab.get_set_same _ _ _ _

theorem State.regAt_setRegAt_other (s : State) (o o' : Nat) (v : W64) (h : o' ≠ o) : (s.setRegAt o v).regAt o' = s.regAt o' :=
  Tab.get_set_other _ _ _ h

@[simp] theorem State.strand_setStrand_same (s : State) (k : Nat) (st : Strand) : (s.setStrand k st).strand k = st :=
  Tab.get_set_same _ _ _ _

theorem State.strand_setStrand_other (s : State) (k k' : Nat) (st : Strand) (h : k' ≠ k) : (s.setStrand k st).strand k' = s.strand k' :=
  Tab.get_set_other _ _ _ h

/-- A store leaves every byte outside it as it was. -/
theorem State.byte_store_other (s : State) (a b : Nat) (bs : List Byte) (h : b < a ∨ a + bs.length ≤ b) :
    (s.store a bs).byte b = s.byte b := Tab.get_setMany_other _ _ _ _ _ h

/-- A store writes each of its bytes. -/
theorem State.byte_store_same (s : State) (a i : Nat) (bs : List Byte) (h : i < bs.length) : (s.store a bs).byte (a + i) = bs[i] :=
  Tab.get_setMany_same _ _ _ _ _ h

/-- x0 reads as zero (R135). -/
@[simp] theorem Strand.x_zero (st : Strand) : st.x 0 = 0 := rfl

/-- A write to x0 is discarded (R135). -/
@[simp] theorem Strand.setX_zero (st : Strand) (v : W64) : st.setX 0 v = st := rfl

theorem Strand.x_setX_same (st : Strand) (r : Nat) (v : W64) (h : r ≠ 0) : (st.setX r v).x r = v := by
  simp [Strand.setX, Strand.x, h]

theorem Strand.x_setX_other (st : Strand) (r r' : Nat) (v : W64) (h : r' ≠ r) : (st.setX r v).x r' = st.x r' := by
  by_cases hr : r = 0
  · simp [Strand.setX, hr]
  · simp [Strand.setX, Strand.x, hr, Tab.get_set_other _ _ _ h]

end Sys2Proof.Machine
end

