-- ==== Sys2Proof/Laws/Ops.lean ====
section
/-! SUPPORT. What the shared operations can do: the fields each leaves as they were, and what putting an operation in flight does. -/

namespace Sys2Proof.Machine

/-! ### det -/

@[simp] theorem State.det_dev (s : State) (b : Nat) : (s.det b).dev = s.dev := by
  unfold State.det; split <;> simp only [State.setBitAt_dev]
@[simp] theorem State.det_tide (s : State) (b : Nat) : (s.det b).tide = s.tide := by
  unfold State.det; split <;> simp only [State.setBitAt_tide]
@[simp] theorem State.det_govW (s : State) (b : Nat) : (s.det b).govW = s.govW := by
  unfold State.det; split <;> simp only [State.setBitAt_govW]
@[simp] theorem State.det_govE (s : State) (b : Nat) : (s.det b).govE = s.govE := by
  unfold State.det; split <;> simp only [State.setBitAt_govE]
@[simp] theorem State.det_snap (s : State) (b : Nat) : (s.det b).snap = s.snap := by
  unfold State.det; split <;> simp only [State.setBitAt_snap]
@[simp] theorem State.det_strands (s : State) (b : Nat) : (s.det b).strands = s.strands := by
  unfold State.det; split <;> simp only [State.setBitAt_strands]
@[simp] theorem State.det_code (s : State) (b : Nat) : (s.det b).code = s.code := by
  unfold State.det; split <;> simp only [State.setBitAt_code]
@[simp] theorem State.det_marks (s : State) (b : Nat) : (s.det b).marks = s.marks := by
  unfold State.det; split <;> simp only [State.setBitAt_marks]
@[simp] theorem State.det_signals (s : State) (b : Nat) : (s.det b).signals = s.signals := by
  unfold State.det; split <;> simp only [State.setBitAt_signals]
@[simp] theorem State.det_lockx (s : State) (b : Nat) : (s.det b).lockx = s.lockx := by
  unfold State.det; split <;> simp only [State.setBitAt_lockx]
@[simp] theorem State.det_ops (s : State) (b : Nat) : (s.det b).ops = s.ops := by
  unfold State.det; split <;> simp only [State.setBitAt_ops]
@[simp] theorem State.det_nextOp (s : State) (b : Nat) : (s.det b).nextOp = s.nextOp := by
  unfold State.det; split <;> simp only [State.setBitAt_nextOp]
@[simp] theorem State.det_acc (s : State) (b : Nat) : (s.det b).acc = s.acc := by
  unfold State.det; split <;> simp only [State.setBitAt_acc]
@[simp] theorem State.det_feed (s : State) (b : Nat) : (s.det b).feed = s.feed := by
  unfold State.det; split <;> simp only [State.setBitAt_feed]
@[simp] theorem State.det_easelFree (s : State) (b : Nat) : (s.det b).easelFree = s.easelFree := by
  unfold State.det; split <;> simp only [State.setBitAt_easelFree]
@[simp] theorem State.det_bankFree (s : State) (b : Nat) : (s.det b).bankFree = s.bankFree := by
  unfold State.det; split <;> simp only [State.setBitAt_bankFree]
@[simp] theorem State.det_pipeFree (s : State) (b : Nat) : (s.det b).pipeFree = s.pipeFree := by
  unfold State.det; split <;> simp only [State.setBitAt_pipeFree]
@[simp] theorem State.det_varnishFree (s : State) (b : Nat) : (s.det b).varnishFree = s.varnishFree := by
  unfold State.det; split <;> simp only [State.setBitAt_varnishFree]
@[simp] theorem State.det_vectorFree (s : State) (b : Nat) : (s.det b).vectorFree = s.vectorFree := by
  unfold State.det; split <;> simp only [State.setBitAt_vectorFree]
@[simp] theorem State.det_mem (s : State) (b : Nat) : (s.det b).mem = s.mem := by
  unfold State.det; split <;> simp only [State.setBitAt_mem]
@[simp] theorem State.det_poison (s : State) (b : Nat) : (s.det b).poison = s.poison := by
  unfold State.det; split <;> simp only [State.setBitAt_poison]
@[simp] theorem State.det_onDie (s : State) (b : Nat) : (s.det b).onDie = s.onDie := by
  unfold State.det; split <;> simp only [State.setBitAt_onDie]
@[simp] theorem State.det_main (s : State) (b : Nat) : (s.det b).main = s.main := by
  unfold State.det; split <;> simp only [State.setBitAt_main]
@[simp] theorem State.det_manifests (s : State) (b : Nat) : (s.det b).manifests = s.manifests := by
  unfold State.det; split <;> simp only [State.setBitAt_manifests]
@[simp] theorem State.det_grids (s : State) (b : Nat) : (s.det b).grids = s.grids := by
  unfold State.det; split <;> simp only [State.setBitAt_grids]
@[simp] theorem State.det_fab (s : State) (b : Nat) : (s.det b).fab = s.fab := by
  unfold State.det; split <;> simp only [State.setBitAt_fab]
@[simp] theorem State.det_red (s : State) (b : Nat) : (s.det b).red = s.red := by
  unfold State.det; split <;> simp only [State.setBitAt_red]
@[simp] theorem State.det_com (s : State) (b : Nat) : (s.det b).com = s.com := by
  unfold State.det; split <;> simp only [State.setBitAt_com]
@[simp] theorem State.det_plan (s : State) (b : Nat) : (s.det b).plan = s.plan := by
  unfold State.det; split <;> simp only [State.setBitAt_plan]
@[simp] theorem State.det_log (s : State) (b : Nat) : (s.det b).log = s.log := by
  unfold State.det; split <;> simp only [State.setBitAt_log]
@[simp] theorem State.det_host (s : State) (b : Nat) : (s.det b).host = s.host := by
  unfold State.det; split <;> simp only [State.setBitAt_host]
@[simp] theorem State.det_sec (s : State) (b : Nat) : (s.det b).sec = s.sec := by
  unfold State.det; split <;> simp only [State.setBitAt_sec]
@[simp] theorem State.det_env (s : State) (b : Nat) : (s.det b).env = s.env := by
  unfold State.det; split <;> simp only [State.setBitAt_env]
@[simp] theorem State.det_i3c (s : State) (b : Nat) : (s.det b).i3c = s.i3c := by
  unfold State.det; split <;> simp only [State.setBitAt_i3c]
@[simp] theorem State.det_totals (s : State) (b : Nat) : (s.det b).totals = s.totals := by
  unfold State.det; split <;> simp only [State.setBitAt_totals]
@[simp] theorem State.det_pending (s : State) (b : Nat) : (s.det b).pending = s.pending := by
  unfold State.det; split <;> simp only [State.setBitAt_pending]
@[simp] theorem State.det_freeCtr (s : State) (b : Nat) : (s.det b).freeCtr = s.freeCtr := by
  unfold State.det; split <;> simp only [State.setBitAt_freeCtr]

/-! ### logOpen -/

/-- The state `t` is `s` but for the logbook and the registers that logging counts in. -/
def LoggedOnly (s t : State) : Prop := ∃ l r f, t = { s with log := l, regs := r, fresh := f }

theorem LoggedOnly.refl (s : State) : LoggedOnly s s := ⟨s.log, s.regs, s.fresh, rfl⟩

theorem LoggedOnly.trans {s t u : State} (h : LoggedOnly s t) (k : LoggedOnly t u) : LoggedOnly s u := by
  obtain ⟨_, _, _, rfl⟩ := h; obtain ⟨l, r, f, rfl⟩ := k; exact ⟨l, r, f, rfl⟩

theorem LoggedOnly.count (s : State) (r : Reg) (hi lo n : Nat) : LoggedOnly s (s.count r hi lo n) := ⟨s.log, _, _, rfl⟩

theorem LoggedOnly.withLog (s : State) (l : Log) : LoggedOnly s { s with log := l } := ⟨l, s.regs, s.fresh, rfl⟩

theorem State.logEnter_only (s : State) (r : LogRec) : LoggedOnly s (s.logEnter r) := by
  unfold State.logEnter
  extract_lets _ _ _ _ _ _
  split
  · split
    · exact (LoggedOnly.withLog s _).trans (LoggedOnly.count _ _ _ _ _)
    · exact LoggedOnly.withLog s _
  · exact LoggedOnly.withLog s _

theorem State.logEnter_foldl (rs : List LogRec) : ∀ s : State, LoggedOnly s (rs.foldl State.logEnter s) := by
  induction rs with
  | nil => exact LoggedOnly.refl
  | cons r rs ih => exact fun s => (s.logEnter_only r).trans (ih _)

theorem State.logExpire_only (s : State) (sel : LogRec → Bool) : LoggedOnly s (s.logExpire sel) :=
  (LoggedOnly.withLog s _).trans (State.logEnter_foldl _ _)

theorem State.logJoin_only (s : State) (e : Event) : LoggedOnly s (s.logJoin e) := by
  unfold State.logJoin
  split
  · exact LoggedOnly.withLog s _
  · split
    · exact LoggedOnly.withLog s _
    · exact LoggedOnly.count _ _ _ _ _

theorem State.logOpen_only (s : State) (e : Event) : LoggedOnly s (s.logOpen e) := (s.logExpire_only _).trans (State.logJoin_only _ _)

@[simp] theorem State.logExpire_dev (s : State) (sel : LogRec → Bool) : (s.logExpire sel).dev = s.dev := by
  obtain ⟨_, _, _, h⟩ := s.logExpire_only sel; rw [h]
@[simp] theorem State.logExpire_tide (s : State) (sel : LogRec → Bool) : (s.logExpire sel).tide = s.tide := by
  obtain ⟨_, _, _, h⟩ := s.logExpire_only sel; rw [h]
@[simp] theorem State.logExpire_govW (s : State) (sel : LogRec → Bool) : (s.logExpire sel).govW = s.govW := by
  obtain ⟨_, _, _, h⟩ := s.logExpire_only sel; rw [h]
@[simp] theorem State.logExpire_govE (s : State) (sel : LogRec → Bool) : (s.logExpire sel).govE = s.govE := by
  obtain ⟨_, _, _, h⟩ := s.logExpire_only sel; rw [h]
@[simp] theorem State.logExpire_run (s : State) (sel : LogRec → Bool) : (s.logExpire sel).run = s.run := by
  obtain ⟨_, _, _, h⟩ := s.logExpire_only sel; rw [h]
@[simp] theorem State.logExpire_snap (s : State) (sel : LogRec → Bool) : (s.logExpire sel).snap = s.snap := by
  obtain ⟨_, _, _, h⟩ := s.logExpire_only sel; rw [h]
@[simp] theorem State.logExpire_strands (s : State) (sel : LogRec → Bool) : (s.logExpire sel).strands = s.strands := by
  obtain ⟨_, _, _, h⟩ := s.logExpire_only sel; rw [h]
@[simp] theorem State.logExpire_code (s : State) (sel : LogRec → Bool) : (s.logExpire sel).code = s.code := by
  obtain ⟨_, _, _, h⟩ := s.logExpire_only sel; rw [h]
@[simp] theorem State.logExpire_marks (s : State) (sel : LogRec → Bool) : (s.logExpire sel).marks = s.marks := by
  obtain ⟨_, _, _, h⟩ := s.logExpire_only sel; rw [h]
@[simp] theorem State.logExpire_signals (s : State) (sel : LogRec → Bool) : (s.logExpire sel).signals = s.signals := by
  obtain ⟨_, _, _, h⟩ := s.logExpire_only sel; rw [h]
@[simp] theorem State.logExpire_lockx (s : State) (sel : LogRec → Bool) : (s.logExpire sel).lockx = s.lockx := by
  obtain ⟨_, _, _, h⟩ := s.logExpire_only sel; rw [h]
@[simp] theorem State.logExpire_ops (s : State) (sel : LogRec → Bool) : (s.logExpire sel).ops = s.ops := by
  obtain ⟨_, _, _, h⟩ := s.logExpire_only sel; rw [h]
@[simp] theorem State.logExpire_nextOp (s : State) (sel : LogRec → Bool) : (s.logExpire sel).nextOp = s.nextOp := by
  obtain ⟨_, _, _, h⟩ := s.logExpire_only sel; rw [h]
@[simp] theorem State.logExpire_acc (s : State) (sel : LogRec → Bool) : (s.logExpire sel).acc = s.acc := by
  obtain ⟨_, _, _, h⟩ := s.logExpire_only sel; rw [h]
@[simp] theorem State.logExpire_feed (s : State) (sel : LogRec → Bool) : (s.logExpire sel).feed = s.feed := by
  obtain ⟨_, _, _, h⟩ := s.logExpire_only sel; rw [h]
@[simp] theorem State.logExpire_easelFree (s : State) (sel : LogRec → Bool) : (s.logExpire sel).easelFree = s.easelFree := by
  obtain ⟨_, _, _, h⟩ := s.logExpire_only sel; rw [h]
@[simp] theorem State.logExpire_bankFree (s : State) (sel : LogRec → Bool) : (s.logExpire sel).bankFree = s.bankFree := by
  obtain ⟨_, _, _, h⟩ := s.logExpire_only sel; rw [h]
@[simp] theorem State.logExpire_pipeFree (s : State) (sel : LogRec → Bool) : (s.logExpire sel).pipeFree = s.pipeFree := by
  obtain ⟨_, _, _, h⟩ := s.logExpire_only sel; rw [h]
@[simp] theorem State.logExpire_varnishFree (s : State) (sel : LogRec → Bool) : (s.logExpire sel).varnishFree = s.varnishFree := by
  obtain ⟨_, _, _, h⟩ := s.logExpire_only sel; rw [h]
@[simp] theorem State.logExpire_vectorFree (s : State) (sel : LogRec → Bool) : (s.logExpire sel).vectorFree = s.vectorFree := by
  obtain ⟨_, _, _, h⟩ := s.logExpire_only sel; rw [h]
@[simp] theorem State.logExpire_mem (s : State) (sel : LogRec → Bool) : (s.logExpire sel).mem = s.mem := by
  obtain ⟨_, _, _, h⟩ := s.logExpire_only sel; rw [h]
@[simp] theorem State.logExpire_poison (s : State) (sel : LogRec → Bool) : (s.logExpire sel).poison = s.poison := by
  obtain ⟨_, _, _, h⟩ := s.logExpire_only sel; rw [h]
@[simp] theorem State.logExpire_onDie (s : State) (sel : LogRec → Bool) : (s.logExpire sel).onDie = s.onDie := by
  obtain ⟨_, _, _, h⟩ := s.logExpire_only sel; rw [h]
@[simp] theorem State.logExpire_main (s : State) (sel : LogRec → Bool) : (s.logExpire sel).main = s.main := by
  obtain ⟨_, _, _, h⟩ := s.logExpire_only sel; rw [h]
@[simp] theorem State.logExpire_manifests (s : State) (sel : LogRec → Bool) : (s.logExpire sel).manifests = s.manifests := by
  obtain ⟨_, _, _, h⟩ := s.logExpire_only sel; rw [h]
@[simp] theorem State.logExpire_grids (s : State) (sel : LogRec → Bool) : (s.logExpire sel).grids = s.grids := by
  obtain ⟨_, _, _, h⟩ := s.logExpire_only sel; rw [h]
@[simp] theorem State.logExpire_fab (s : State) (sel : LogRec → Bool) : (s.logExpire sel).fab = s.fab := by
  obtain ⟨_, _, _, h⟩ := s.logExpire_only sel; rw [h]
@[simp] theorem State.logExpire_red (s : State) (sel : LogRec → Bool) : (s.logExpire sel).red = s.red := by
  obtain ⟨_, _, _, h⟩ := s.logExpire_only sel; rw [h]
@[simp] theorem State.logExpire_com (s : State) (sel : LogRec → Bool) : (s.logExpire sel).com = s.com := by
  obtain ⟨_, _, _, h⟩ := s.logExpire_only sel; rw [h]
@[simp] theorem State.logExpire_plan (s : State) (sel : LogRec → Bool) : (s.logExpire sel).plan = s.plan := by
  obtain ⟨_, _, _, h⟩ := s.logExpire_only sel; rw [h]
@[simp] theorem State.logExpire_host (s : State) (sel : LogRec → Bool) : (s.logExpire sel).host = s.host := by
  obtain ⟨_, _, _, h⟩ := s.logExpire_only sel; rw [h]
@[simp] theorem State.logExpire_sec (s : State) (sel : LogRec → Bool) : (s.logExpire sel).sec = s.sec := by
  obtain ⟨_, _, _, h⟩ := s.logExpire_only sel; rw [h]
@[simp] theorem State.logExpire_env (s : State) (sel : LogRec → Bool) : (s.logExpire sel).env = s.env := by
  obtain ⟨_, _, _, h⟩ := s.logExpire_only sel; rw [h]
@[simp] theorem State.logExpire_i3c (s : State) (sel : LogRec → Bool) : (s.logExpire sel).i3c = s.i3c := by
  obtain ⟨_, _, _, h⟩ := s.logExpire_only sel; rw [h]
@[simp] theorem State.logExpire_totals (s : State) (sel : LogRec → Bool) : (s.logExpire sel).totals = s.totals := by
  obtain ⟨_, _, _, h⟩ := s.logExpire_only sel; rw [h]
@[simp] theorem State.logExpire_pending (s : State) (sel : LogRec → Bool) : (s.logExpire sel).pending = s.pending := by
  obtain ⟨_, _, _, h⟩ := s.logExpire_only sel; rw [h]
@[simp] theorem State.logExpire_freeCtr (s : State) (sel : LogRec → Bool) : (s.logExpire sel).freeCtr = s.freeCtr := by
  obtain ⟨_, _, _, h⟩ := s.logExpire_only sel; rw [h]

@[simp] theorem State.logOpen_dev (s : State) (e : Event) : (s.logOpen e).dev = s.dev := by
  obtain ⟨_, _, _, h⟩ := s.logOpen_only e; rw [h]
@[simp] theorem State.logOpen_tide (s : State) (e : Event) : (s.logOpen e).tide = s.tide := by
  obtain ⟨_, _, _, h⟩ := s.logOpen_only e; rw [h]
@[simp] theorem State.logOpen_govW (s : State) (e : Event) : (s.logOpen e).govW = s.govW := by
  obtain ⟨_, _, _, h⟩ := s.logOpen_only e; rw [h]
@[simp] theorem State.logOpen_govE (s : State) (e : Event) : (s.logOpen e).govE = s.govE := by
  obtain ⟨_, _, _, h⟩ := s.logOpen_only e; rw [h]
@[simp] theorem State.logOpen_run (s : State) (e : Event) : (s.logOpen e).run = s.run := by
  obtain ⟨_, _, _, h⟩ := s.logOpen_only e; rw [h]
@[simp] theorem State.logOpen_snap (s : State) (e : Event) : (s.logOpen e).snap = s.snap := by
  obtain ⟨_, _, _, h⟩ := s.logOpen_only e; rw [h]
@[simp] theorem State.logOpen_strands (s : State) (e : Event) : (s.logOpen e).strands = s.strands := by
  obtain ⟨_, _, _, h⟩ := s.logOpen_only e; rw [h]
@[simp] theorem State.logOpen_code (s : State) (e : Event) : (s.logOpen e).code = s.code := by
  obtain ⟨_, _, _, h⟩ := s.logOpen_only e; rw [h]
@[simp] theorem State.logOpen_marks (s : State) (e : Event) : (s.logOpen e).marks = s.marks := by
  obtain ⟨_, _, _, h⟩ := s.logOpen_only e; rw [h]
@[simp] theorem State.logOpen_signals (s : State) (e : Event) : (s.logOpen e).signals = s.signals := by
  obtain ⟨_, _, _, h⟩ := s.logOpen_only e; rw [h]
@[simp] theorem State.logOpen_lockx (s : State) (e : Event) : (s.logOpen e).lockx = s.lockx := by
  obtain ⟨_, _, _, h⟩ := s.logOpen_only e; rw [h]
@[simp] theorem State.logOpen_ops (s : State) (e : Event) : (s.logOpen e).ops = s.ops := by
  obtain ⟨_, _, _, h⟩ := s.logOpen_only e; rw [h]
@[simp] theorem State.logOpen_nextOp (s : State) (e : Event) : (s.logOpen e).nextOp = s.nextOp := by
  obtain ⟨_, _, _, h⟩ := s.logOpen_only e; rw [h]
@[simp] theorem State.logOpen_acc (s : State) (e : Event) : (s.logOpen e).acc = s.acc := by
  obtain ⟨_, _, _, h⟩ := s.logOpen_only e; rw [h]
@[simp] theorem State.logOpen_feed (s : State) (e : Event) : (s.logOpen e).feed = s.feed := by
  obtain ⟨_, _, _, h⟩ := s.logOpen_only e; rw [h]
@[simp] theorem State.logOpen_easelFree (s : State) (e : Event) : (s.logOpen e).easelFree = s.easelFree := by
  obtain ⟨_, _, _, h⟩ := s.logOpen_only e; rw [h]
@[simp] theorem State.logOpen_bankFree (s : State) (e : Event) : (s.logOpen e).bankFree = s.bankFree := by
  obtain ⟨_, _, _, h⟩ := s.logOpen_only e; rw [h]
@[simp] theorem State.logOpen_pipeFree (s : State) (e : Event) : (s.logOpen e).pipeFree = s.pipeFree := by
  obtain ⟨_, _, _, h⟩ := s.logOpen_only e; rw [h]
@[simp] theorem State.logOpen_varnishFree (s : State) (e : Event) : (s.logOpen e).varnishFree = s.varnishFree := by
  obtain ⟨_, _, _, h⟩ := s.logOpen_only e; rw [h]
@[simp] theorem State.logOpen_vectorFree (s : State) (e : Event) : (s.logOpen e).vectorFree = s.vectorFree := by
  obtain ⟨_, _, _, h⟩ := s.logOpen_only e; rw [h]
@[simp] theorem State.logOpen_mem (s : State) (e : Event) : (s.logOpen e).mem = s.mem := by
  obtain ⟨_, _, _, h⟩ := s.logOpen_only e; rw [h]
@[simp] theorem State.logOpen_poison (s : State) (e : Event) : (s.logOpen e).poison = s.poison := by
  obtain ⟨_, _, _, h⟩ := s.logOpen_only e; rw [h]
@[simp] theorem State.logOpen_onDie (s : State) (e : Event) : (s.logOpen e).onDie = s.onDie := by
  obtain ⟨_, _, _, h⟩ := s.logOpen_only e; rw [h]
@[simp] theorem State.logOpen_main (s : State) (e : Event) : (s.logOpen e).main = s.main := by
  obtain ⟨_, _, _, h⟩ := s.logOpen_only e; rw [h]
@[simp] theorem State.logOpen_manifests (s : State) (e : Event) : (s.logOpen e).manifests = s.manifests := by
  obtain ⟨_, _, _, h⟩ := s.logOpen_only e; rw [h]
@[simp] theorem State.logOpen_grids (s : State) (e : Event) : (s.logOpen e).grids = s.grids := by
  obtain ⟨_, _, _, h⟩ := s.logOpen_only e; rw [h]
@[simp] theorem State.logOpen_fab (s : State) (e : Event) : (s.logOpen e).fab = s.fab := by
  obtain ⟨_, _, _, h⟩ := s.logOpen_only e; rw [h]
@[simp] theorem State.logOpen_red (s : State) (e : Event) : (s.logOpen e).red = s.red := by
  obtain ⟨_, _, _, h⟩ := s.logOpen_only e; rw [h]
@[simp] theorem State.logOpen_com (s : State) (e : Event) : (s.logOpen e).com = s.com := by
  obtain ⟨_, _, _, h⟩ := s.logOpen_only e; rw [h]
@[simp] theorem State.logOpen_plan (s : State) (e : Event) : (s.logOpen e).plan = s.plan := by
  obtain ⟨_, _, _, h⟩ := s.logOpen_only e; rw [h]
@[simp] theorem State.logOpen_host (s : State) (e : Event) : (s.logOpen e).host = s.host := by
  obtain ⟨_, _, _, h⟩ := s.logOpen_only e; rw [h]
@[simp] theorem State.logOpen_sec (s : State) (e : Event) : (s.logOpen e).sec = s.sec := by
  obtain ⟨_, _, _, h⟩ := s.logOpen_only e; rw [h]
@[simp] theorem State.logOpen_env (s : State) (e : Event) : (s.logOpen e).env = s.env := by
  obtain ⟨_, _, _, h⟩ := s.logOpen_only e; rw [h]
@[simp] theorem State.logOpen_i3c (s : State) (e : Event) : (s.logOpen e).i3c = s.i3c := by
  obtain ⟨_, _, _, h⟩ := s.logOpen_only e; rw [h]
@[simp] theorem State.logOpen_totals (s : State) (e : Event) : (s.logOpen e).totals = s.totals := by
  obtain ⟨_, _, _, h⟩ := s.logOpen_only e; rw [h]
@[simp] theorem State.logOpen_pending (s : State) (e : Event) : (s.logOpen e).pending = s.pending := by
  obtain ⟨_, _, _, h⟩ := s.logOpen_only e; rw [h]
@[simp] theorem State.logOpen_freeCtr (s : State) (e : Event) : (s.logOpen e).freeCtr = s.freeCtr := by
  obtain ⟨_, _, _, h⟩ := s.logOpen_only e; rw [h]

/-! ### alarmOpen -/

@[simp] theorem State.alarmOpen_dev (s : State) (e : Event) : (s.alarmOpen e).dev = s.dev := by
  unfold State.alarmOpen; dsimp only; repeat' split
  all_goals simp only []
@[simp] theorem State.alarmOpen_tide (s : State) (e : Event) : (s.alarmOpen e).tide = s.tide := by
  unfold State.alarmOpen; dsimp only; repeat' split
  all_goals simp only []
@[simp] theorem State.alarmOpen_govW (s : State) (e : Event) : (s.alarmOpen e).govW = s.govW := by
  unfold State.alarmOpen; dsimp only; repeat' split
  all_goals simp only []
@[simp] theorem State.alarmOpen_govE (s : State) (e : Event) : (s.alarmOpen e).govE = s.govE := by
  unfold State.alarmOpen; dsimp only; repeat' split
  all_goals simp only []
@[simp] theorem State.alarmOpen_run (s : State) (e : Event) : (s.alarmOpen e).run = s.run := by
  unfold State.alarmOpen; dsimp only; repeat' split
  all_goals simp only []
@[simp] theorem State.alarmOpen_regs (s : State) (e : Event) : (s.alarmOpen e).regs = s.regs := by
  unfold State.alarmOpen; dsimp only; repeat' split
  all_goals simp only []
@[simp] theorem State.alarmOpen_fresh (s : State) (e : Event) : (s.alarmOpen e).fresh = s.fresh := by
  unfold State.alarmOpen; dsimp only; repeat' split
  all_goals simp only []
@[simp] theorem State.alarmOpen_snap (s : State) (e : Event) : (s.alarmOpen e).snap = s.snap := by
  unfold State.alarmOpen; dsimp only; repeat' split
  all_goals simp only []
@[simp] theorem State.alarmOpen_strands (s : State) (e : Event) : (s.alarmOpen e).strands = s.strands := by
  unfold State.alarmOpen; dsimp only; repeat' split
  all_goals simp only []
@[simp] theorem State.alarmOpen_code (s : State) (e : Event) : (s.alarmOpen e).code = s.code := by
  unfold State.alarmOpen; dsimp only; repeat' split
  all_goals simp only []
@[simp] theorem State.alarmOpen_marks (s : State) (e : Event) : (s.alarmOpen e).marks = s.marks := by
  unfold State.alarmOpen; dsimp only; repeat' split
  all_goals simp only []
@[simp] theorem State.alarmOpen_signals (s : State) (e : Event) : (s.alarmOpen e).signals = s.signals := by
  unfold State.alarmOpen; dsimp only; repeat' split
  all_goals simp only []
@[simp] theorem State.alarmOpen_lockx (s : State) (e : Event) : (s.alarmOpen e).lockx = s.lockx := by
  unfold State.alarmOpen; dsimp only; repeat' split
  all_goals simp only []
@[simp] theorem State.alarmOpen_ops (s : State) (e : Event) : (s.alarmOpen e).ops = s.ops := by
  unfold State.alarmOpen; dsimp only; repeat' split
  all_goals simp only []
@[simp] theorem State.alarmOpen_nextOp (s : State) (e : Event) : (s.alarmOpen e).nextOp = s.nextOp := by
  unfold State.alarmOpen; dsimp only; repeat' split
  all_goals simp only []
@[simp] theorem State.alarmOpen_acc (s : State) (e : Event) : (s.alarmOpen e).acc = s.acc := by
  unfold State.alarmOpen; dsimp only; repeat' split
  all_goals simp only []
@[simp] theorem State.alarmOpen_feed (s : State) (e : Event) : (s.alarmOpen e).feed = s.feed := by
  unfold State.alarmOpen; dsimp only; repeat' split
  all_goals simp only []
@[simp] theorem State.alarmOpen_easelFree (s : State) (e : Event) : (s.alarmOpen e).easelFree = s.easelFree := by
  unfold State.alarmOpen; dsimp only; repeat' split
  all_goals simp only []
@[simp] theorem State.alarmOpen_bankFree (s : State) (e : Event) : (s.alarmOpen e).bankFree = s.bankFree := by
  unfold State.alarmOpen; dsimp only; repeat' split
  all_goals simp only []
@[simp] theorem State.alarmOpen_pipeFree (s : State) (e : Event) : (s.alarmOpen e).pipeFree = s.pipeFree := by
  unfold State.alarmOpen; dsimp only; repeat' split
  all_goals simp only []
@[simp] theorem State.alarmOpen_varnishFree (s : State) (e : Event) : (s.alarmOpen e).varnishFree = s.varnishFree := by
  unfold State.alarmOpen; dsimp only; repeat' split
  all_goals simp only []
@[simp] theorem State.alarmOpen_vectorFree (s : State) (e : Event) : (s.alarmOpen e).vectorFree = s.vectorFree := by
  unfold State.alarmOpen; dsimp only; repeat' split
  all_goals simp only []
@[simp] theorem State.alarmOpen_mem (s : State) (e : Event) : (s.alarmOpen e).mem = s.mem := by
  unfold State.alarmOpen; dsimp only; repeat' split
  all_goals simp only []
@[simp] theorem State.alarmOpen_poison (s : State) (e : Event) : (s.alarmOpen e).poison = s.poison := by
  unfold State.alarmOpen; dsimp only; repeat' split
  all_goals simp only []
@[simp] theorem State.alarmOpen_onDie (s : State) (e : Event) : (s.alarmOpen e).onDie = s.onDie := by
  unfold State.alarmOpen; dsimp only; repeat' split
  all_goals simp only []
@[simp] theorem State.alarmOpen_main (s : State) (e : Event) : (s.alarmOpen e).main = s.main := by
  unfold State.alarmOpen; dsimp only; repeat' split
  all_goals simp only []
@[simp] theorem State.alarmOpen_manifests (s : State) (e : Event) : (s.alarmOpen e).manifests = s.manifests := by
  unfold State.alarmOpen; dsimp only; repeat' split
  all_goals simp only []
@[simp] theorem State.alarmOpen_grids (s : State) (e : Event) : (s.alarmOpen e).grids = s.grids := by
  unfold State.alarmOpen; dsimp only; repeat' split
  all_goals simp only []
@[simp] theorem State.alarmOpen_fab (s : State) (e : Event) : (s.alarmOpen e).fab = s.fab := by
  unfold State.alarmOpen; dsimp only; repeat' split
  all_goals simp only []
@[simp] theorem State.alarmOpen_red (s : State) (e : Event) : (s.alarmOpen e).red = s.red := by
  unfold State.alarmOpen; dsimp only; repeat' split
  all_goals simp only []
@[simp] theorem State.alarmOpen_com (s : State) (e : Event) : (s.alarmOpen e).com = s.com := by
  unfold State.alarmOpen; dsimp only; repeat' split
  all_goals simp only []
@[simp] theorem State.alarmOpen_plan (s : State) (e : Event) : (s.alarmOpen e).plan = s.plan := by
  unfold State.alarmOpen; dsimp only; repeat' split
  all_goals simp only []
@[simp] theorem State.alarmOpen_host (s : State) (e : Event) : (s.alarmOpen e).host = s.host := by
  unfold State.alarmOpen; dsimp only; repeat' split
  all_goals simp only []
@[simp] theorem State.alarmOpen_sec (s : State) (e : Event) : (s.alarmOpen e).sec = s.sec := by
  unfold State.alarmOpen; dsimp only; repeat' split
  all_goals simp only []
@[simp] theorem State.alarmOpen_env (s : State) (e : Event) : (s.alarmOpen e).env = s.env := by
  unfold State.alarmOpen; dsimp only; repeat' split
  all_goals simp only []
@[simp] theorem State.alarmOpen_i3c (s : State) (e : Event) : (s.alarmOpen e).i3c = s.i3c := by
  unfold State.alarmOpen; dsimp only; repeat' split
  all_goals simp only []
@[simp] theorem State.alarmOpen_totals (s : State) (e : Event) : (s.alarmOpen e).totals = s.totals := by
  unfold State.alarmOpen; dsimp only; repeat' split
  all_goals simp only []
@[simp] theorem State.alarmOpen_pending (s : State) (e : Event) : (s.alarmOpen e).pending = s.pending := by
  unfold State.alarmOpen; dsimp only; repeat' split
  all_goals simp only []
@[simp] theorem State.alarmOpen_freeCtr (s : State) (e : Event) : (s.alarmOpen e).freeCtr = s.freeCtr := by
  unfold State.alarmOpen; dsimp only; repeat' split
  all_goals simp only []

/-! ### raise -/

@[simp] theorem State.raise_dev (s : State) (e : Event) : (s.raise e).dev = s.dev := by
  unfold State.raise; cases e.bit <;> dsimp only <;> split <;> simp
@[simp] theorem State.raise_tide (s : State) (e : Event) : (s.raise e).tide = s.tide := by
  unfold State.raise; cases e.bit <;> dsimp only <;> split <;> simp
@[simp] theorem State.raise_govW (s : State) (e : Event) : (s.raise e).govW = s.govW := by
  unfold State.raise; cases e.bit <;> dsimp only <;> split <;> simp
@[simp] theorem State.raise_govE (s : State) (e : Event) : (s.raise e).govE = s.govE := by
  unfold State.raise; cases e.bit <;> dsimp only <;> split <;> simp
@[simp] theorem State.raise_run (s : State) (e : Event) : (s.raise e).run = s.run := by
  unfold State.raise; cases e.bit <;> dsimp only <;> split <;> simp
@[simp] theorem State.raise_snap (s : State) (e : Event) : (s.raise e).snap = s.snap := by
  unfold State.raise; cases e.bit <;> dsimp only <;> split <;> simp
@[simp] theorem State.raise_strands (s : State) (e : Event) : (s.raise e).strands = s.strands := by
  unfold State.raise; cases e.bit <;> dsimp only <;> split <;> simp
@[simp] theorem State.raise_code (s : State) (e : Event) : (s.raise e).code = s.code := by
  unfold State.raise; cases e.bit <;> dsimp only <;> split <;> simp
@[simp] theorem State.raise_marks (s : State) (e : Event) : (s.raise e).marks = s.marks := by
  unfold State.raise; cases e.bit <;> dsimp only <;> split <;> simp
@[simp] theorem State.raise_signals (s : State) (e : Event) : (s.raise e).signals = s.signals := by
  unfold State.raise; cases e.bit <;> dsimp only <;> split <;> simp
@[simp] theorem State.raise_lockx (s : State) (e : Event) : (s.raise e).lockx = s.lockx := by
  unfold State.raise; cases e.bit <;> dsimp only <;> split <;> simp
@[simp] theorem State.raise_ops (s : State) (e : Event) : (s.raise e).ops = s.ops := by
  unfold State.raise; cases e.bit <;> dsimp only <;> split <;> simp
@[simp] theorem State.raise_nextOp (s : State) (e : Event) : (s.raise e).nextOp = s.nextOp := by
  unfold State.raise; cases e.bit <;> dsimp only <;> split <;> simp
@[simp] theorem State.raise_acc (s : State) (e : Event) : (s.raise e).acc = s.acc := by
  unfold State.raise; cases e.bit <;> dsimp only <;> split <;> simp
@[simp] theorem State.raise_feed (s : State) (e : Event) : (s.raise e).feed = s.feed := by
  unfold State.raise; cases e.bit <;> dsimp only <;> split <;> simp
@[simp] theorem State.raise_easelFree (s : State) (e : Event) : (s.raise e).easelFree = s.easelFree := by
  unfold State.raise; cases e.bit <;> dsimp only <;> split <;> simp
@[simp] theorem State.raise_bankFree (s : State) (e : Event) : (s.raise e).bankFree = s.bankFree := by
  unfold State.raise; cases e.bit <;> dsimp only <;> split <;> simp
@[simp] theorem State.raise_pipeFree (s : State) (e : Event) : (s.raise e).pipeFree = s.pipeFree := by
  unfold State.raise; cases e.bit <;> dsimp only <;> split <;> simp
@[simp] theorem State.raise_varnishFree (s : State) (e : Event) : (s.raise e).varnishFree = s.varnishFree := by
  unfold State.raise; cases e.bit <;> dsimp only <;> split <;> simp
@[simp] theorem State.raise_vectorFree (s : State) (e : Event) : (s.raise e).vectorFree = s.vectorFree := by
  unfold State.raise; cases e.bit <;> dsimp only <;> split <;> simp
@[simp] theorem State.raise_mem (s : State) (e : Event) : (s.raise e).mem = s.mem := by
  unfold State.raise; cases e.bit <;> dsimp only <;> split <;> simp
@[simp] theorem State.raise_poison (s : State) (e : Event) : (s.raise e).poison = s.poison := by
  unfold State.raise; cases e.bit <;> dsimp only <;> split <;> simp
@[simp] theorem State.raise_onDie (s : State) (e : Event) : (s.raise e).onDie = s.onDie := by
  unfold State.raise; cases e.bit <;> dsimp only <;> split <;> simp
@[simp] theorem State.raise_main (s : State) (e : Event) : (s.raise e).main = s.main := by
  unfold State.raise; cases e.bit <;> dsimp only <;> split <;> simp
@[simp] theorem State.raise_manifests (s : State) (e : Event) : (s.raise e).manifests = s.manifests := by
  unfold State.raise; cases e.bit <;> dsimp only <;> split <;> simp
@[simp] theorem State.raise_grids (s : State) (e : Event) : (s.raise e).grids = s.grids := by
  unfold State.raise; cases e.bit <;> dsimp only <;> split <;> simp
@[simp] theorem State.raise_fab (s : State) (e : Event) : (s.raise e).fab = s.fab := by
  unfold State.raise; cases e.bit <;> dsimp only <;> split <;> simp
@[simp] theorem State.raise_red (s : State) (e : Event) : (s.raise e).red = s.red := by
  unfold State.raise; cases e.bit <;> dsimp only <;> split <;> simp
@[simp] theorem State.raise_com (s : State) (e : Event) : (s.raise e).com = s.com := by
  unfold State.raise; cases e.bit <;> dsimp only <;> split <;> simp
@[simp] theorem State.raise_plan (s : State) (e : Event) : (s.raise e).plan = s.plan := by
  unfold State.raise; cases e.bit <;> dsimp only <;> split <;> simp
@[simp] theorem State.raise_host (s : State) (e : Event) : (s.raise e).host = s.host := by
  unfold State.raise; cases e.bit <;> dsimp only <;> split <;> simp
@[simp] theorem State.raise_sec (s : State) (e : Event) : (s.raise e).sec = s.sec := by
  unfold State.raise; cases e.bit <;> dsimp only <;> split <;> simp
@[simp] theorem State.raise_env (s : State) (e : Event) : (s.raise e).env = s.env := by
  unfold State.raise; cases e.bit <;> dsimp only <;> split <;> simp
@[simp] theorem State.raise_i3c (s : State) (e : Event) : (s.raise e).i3c = s.i3c := by
  unfold State.raise; cases e.bit <;> dsimp only <;> split <;> simp
@[simp] theorem State.raise_totals (s : State) (e : Event) : (s.raise e).totals = s.totals := by
  unfold State.raise; cases e.bit <;> dsimp only <;> split <;> simp
@[simp] theorem State.raise_pending (s : State) (e : Event) : (s.raise e).pending = s.pending := by
  unfold State.raise; cases e.bit <;> dsimp only <;> split <;> simp
@[simp] theorem State.raise_freeCtr (s : State) (e : Event) : (s.raise e).freeCtr = s.freeCtr := by
  unfold State.raise; cases e.bit <;> dsimp only <;> split <;> simp

/-! ### trace -/

@[simp] theorem State.trace_dev (s : State) (src idx inst : Nat) (items : List Nat) : (s.trace src idx inst items).dev = s.dev := by
  unfold State.trace; dsimp only; repeat' split
  all_goals simp only [State.setTraceBuf_dev, State.setBitAt_dev, State.countAt_dev]
@[simp] theorem State.trace_tide (s : State) (src idx inst : Nat) (items : List Nat) : (s.trace src idx inst items).tide = s.tide := by
  unfold State.trace; dsimp only; repeat' split
  all_goals simp only [State.setTraceBuf_tide, State.setBitAt_tide, State.countAt_tide]
@[simp] theorem State.trace_govW (s : State) (src idx inst : Nat) (items : List Nat) : (s.trace src idx inst items).govW = s.govW := by
  unfold State.trace; dsimp only; repeat' split
  all_goals simp only [State.setTraceBuf_govW, State.setBitAt_govW, State.countAt_govW]
@[simp] theorem State.trace_govE (s : State) (src idx inst : Nat) (items : List Nat) : (s.trace src idx inst items).govE = s.govE := by
  unfold State.trace; dsimp only; repeat' split
  all_goals simp only [State.setTraceBuf_govE, State.setBitAt_govE, State.countAt_govE]
@[simp] theorem State.trace_run (s : State) (src idx inst : Nat) (items : List Nat) : (s.trace src idx inst items).run = s.run := by
  unfold State.trace; dsimp only; repeat' split
  all_goals simp only [State.setTraceBuf_run, State.setBitAt_run, State.countAt_run]
@[simp] theorem State.trace_snap (s : State) (src idx inst : Nat) (items : List Nat) : (s.trace src idx inst items).snap = s.snap := by
  unfold State.trace; dsimp only; repeat' split
  all_goals simp only [State.setTraceBuf_snap, State.setBitAt_snap, State.countAt_snap]
@[simp] theorem State.trace_strands (s : State) (src idx inst : Nat) (items : List Nat) : (s.trace src idx inst items).strands = s.strands := by
  unfold State.trace; dsimp only; repeat' split
  all_goals simp only [State.setTraceBuf_strands, State.setBitAt_strands, State.countAt_strands]
@[simp] theorem State.trace_code (s : State) (src idx inst : Nat) (items : List Nat) : (s.trace src idx inst items).code = s.code := by
  unfold State.trace; dsimp only; repeat' split
  all_goals simp only [State.setTraceBuf_code, State.setBitAt_code, State.countAt_code]
@[simp] theorem State.trace_marks (s : State) (src idx inst : Nat) (items : List Nat) : (s.trace src idx inst items).marks = s.marks := by
  unfold State.trace; dsimp only; repeat' split
  all_goals simp only [State.setTraceBuf_marks, State.setBitAt_marks, State.countAt_marks]
@[simp] theorem State.trace_signals (s : State) (src idx inst : Nat) (items : List Nat) : (s.trace src idx inst items).signals = s.signals := by
  unfold State.trace; dsimp only; repeat' split
  all_goals simp only [State.setTraceBuf_signals, State.setBitAt_signals, State.countAt_signals]
@[simp] theorem State.trace_lockx (s : State) (src idx inst : Nat) (items : List Nat) : (s.trace src idx inst items).lockx = s.lockx := by
  unfold State.trace; dsimp only; repeat' split
  all_goals simp only [State.setTraceBuf_lockx, State.setBitAt_lockx, State.countAt_lockx]
@[simp] theorem State.trace_ops (s : State) (src idx inst : Nat) (items : List Nat) : (s.trace src idx inst items).ops = s.ops := by
  unfold State.trace; dsimp only; repeat' split
  all_goals simp only [State.setTraceBuf_ops, State.setBitAt_ops, State.countAt_ops]
@[simp] theorem State.trace_nextOp (s : State) (src idx inst : Nat) (items : List Nat) : (s.trace src idx inst items).nextOp = s.nextOp := by
  unfold State.trace; dsimp only; repeat' split
  all_goals simp only [State.setTraceBuf_nextOp, State.setBitAt_nextOp, State.countAt_nextOp]
@[simp] theorem State.trace_acc (s : State) (src idx inst : Nat) (items : List Nat) : (s.trace src idx inst items).acc = s.acc := by
  unfold State.trace; dsimp only; repeat' split
  all_goals simp only [State.setTraceBuf_acc, State.setBitAt_acc, State.countAt_acc]
@[simp] theorem State.trace_feed (s : State) (src idx inst : Nat) (items : List Nat) : (s.trace src idx inst items).feed = s.feed := by
  unfold State.trace; dsimp only; repeat' split
  all_goals simp only [State.setTraceBuf_feed, State.setBitAt_feed, State.countAt_feed]
@[simp] theorem State.trace_easelFree (s : State) (src idx inst : Nat) (items : List Nat) : (s.trace src idx inst items).easelFree = s.easelFree := by
  unfold State.trace; dsimp only; repeat' split
  all_goals simp only [State.setTraceBuf_easelFree, State.setBitAt_easelFree, State.countAt_easelFree]
@[simp] theorem State.trace_bankFree (s : State) (src idx inst : Nat) (items : List Nat) : (s.trace src idx inst items).bankFree = s.bankFree := by
  unfold State.trace; dsimp only; repeat' split
  all_goals simp only [State.setTraceBuf_bankFree, State.setBitAt_bankFree, State.countAt_bankFree]
@[simp] theorem State.trace_pipeFree (s : State) (src idx inst : Nat) (items : List Nat) : (s.trace src idx inst items).pipeFree = s.pipeFree := by
  unfold State.trace; dsimp only; repeat' split
  all_goals simp only [State.setTraceBuf_pipeFree, State.setBitAt_pipeFree, State.countAt_pipeFree]
@[simp] theorem State.trace_varnishFree (s : State) (src idx inst : Nat) (items : List Nat) : (s.trace src idx inst items).varnishFree = s.varnishFree := by
  unfold State.trace; dsimp only; repeat' split
  all_goals simp only [State.setTraceBuf_varnishFree, State.setBitAt_varnishFree, State.countAt_varnishFree]
@[simp] theorem State.trace_vectorFree (s : State) (src idx inst : Nat) (items : List Nat) : (s.trace src idx inst items).vectorFree = s.vectorFree := by
  unfold State.trace; dsimp only; repeat' split
  all_goals simp only [State.setTraceBuf_vectorFree, State.setBitAt_vectorFree, State.countAt_vectorFree]
@[simp] theorem State.trace_mem (s : State) (src idx inst : Nat) (items : List Nat) : (s.trace src idx inst items).mem = s.mem := by
  unfold State.trace; dsimp only; repeat' split
  all_goals simp only [State.setTraceBuf_mem, State.setBitAt_mem, State.countAt_mem]
@[simp] theorem State.trace_poison (s : State) (src idx inst : Nat) (items : List Nat) : (s.trace src idx inst items).poison = s.poison := by
  unfold State.trace; dsimp only; repeat' split
  all_goals simp only [State.setTraceBuf_poison, State.setBitAt_poison, State.countAt_poison]
@[simp] theorem State.trace_onDie (s : State) (src idx inst : Nat) (items : List Nat) : (s.trace src idx inst items).onDie = s.onDie := by
  unfold State.trace; dsimp only; repeat' split
  all_goals simp only [State.setTraceBuf_onDie, State.setBitAt_onDie, State.countAt_onDie]
@[simp] theorem State.trace_main (s : State) (src idx inst : Nat) (items : List Nat) : (s.trace src idx inst items).main = s.main := by
  unfold State.trace; dsimp only; repeat' split
  all_goals simp only [State.setTraceBuf_main, State.setBitAt_main, State.countAt_main]
@[simp] theorem State.trace_manifests (s : State) (src idx inst : Nat) (items : List Nat) : (s.trace src idx inst items).manifests = s.manifests := by
  unfold State.trace; dsimp only; repeat' split
  all_goals simp only [State.setTraceBuf_manifests, State.setBitAt_manifests, State.countAt_manifests]
@[simp] theorem State.trace_grids (s : State) (src idx inst : Nat) (items : List Nat) : (s.trace src idx inst items).grids = s.grids := by
  unfold State.trace; dsimp only; repeat' split
  all_goals simp only [State.setTraceBuf_grids, State.setBitAt_grids, State.countAt_grids]
@[simp] theorem State.trace_fab (s : State) (src idx inst : Nat) (items : List Nat) : (s.trace src idx inst items).fab = s.fab := by
  unfold State.trace; dsimp only; repeat' split
  all_goals simp only [State.setTraceBuf_fab, State.setBitAt_fab, State.countAt_fab]
@[simp] theorem State.trace_red (s : State) (src idx inst : Nat) (items : List Nat) : (s.trace src idx inst items).red = s.red := by
  unfold State.trace; dsimp only; repeat' split
  all_goals simp only [State.setTraceBuf_red, State.setBitAt_red, State.countAt_red]
@[simp] theorem State.trace_com (s : State) (src idx inst : Nat) (items : List Nat) : (s.trace src idx inst items).com = s.com := by
  unfold State.trace; dsimp only; repeat' split
  all_goals simp only [State.setTraceBuf_com, State.setBitAt_com, State.countAt_com]
@[simp] theorem State.trace_plan (s : State) (src idx inst : Nat) (items : List Nat) : (s.trace src idx inst items).plan = s.plan := by
  unfold State.trace; dsimp only; repeat' split
  all_goals simp only [State.setTraceBuf_plan, State.setBitAt_plan, State.countAt_plan]
@[simp] theorem State.trace_host (s : State) (src idx inst : Nat) (items : List Nat) : (s.trace src idx inst items).host = s.host := by
  unfold State.trace; dsimp only; repeat' split
  all_goals simp only [State.setTraceBuf_host, State.setBitAt_host, State.countAt_host]
@[simp] theorem State.trace_sec (s : State) (src idx inst : Nat) (items : List Nat) : (s.trace src idx inst items).sec = s.sec := by
  unfold State.trace; dsimp only; repeat' split
  all_goals simp only [State.setTraceBuf_sec, State.setBitAt_sec, State.countAt_sec]
@[simp] theorem State.trace_env (s : State) (src idx inst : Nat) (items : List Nat) : (s.trace src idx inst items).env = s.env := by
  unfold State.trace; dsimp only; repeat' split
  all_goals simp only [State.setTraceBuf_env, State.setBitAt_env, State.countAt_env]
@[simp] theorem State.trace_i3c (s : State) (src idx inst : Nat) (items : List Nat) : (s.trace src idx inst items).i3c = s.i3c := by
  unfold State.trace; dsimp only; repeat' split
  all_goals simp only [State.setTraceBuf_i3c, State.setBitAt_i3c, State.countAt_i3c]
@[simp] theorem State.trace_totals (s : State) (src idx inst : Nat) (items : List Nat) : (s.trace src idx inst items).totals = s.totals := by
  unfold State.trace; dsimp only; repeat' split
  all_goals simp only [State.setTraceBuf_totals, State.setBitAt_totals, State.countAt_totals]
@[simp] theorem State.trace_pending (s : State) (src idx inst : Nat) (items : List Nat) : (s.trace src idx inst items).pending = s.pending := by
  unfold State.trace; dsimp only; repeat' split
  all_goals simp only [State.setTraceBuf_pending, State.setBitAt_pending, State.countAt_pending]
@[simp] theorem State.trace_freeCtr (s : State) (src idx inst : Nat) (items : List Nat) : (s.trace src idx inst items).freeCtr = s.freeCtr := by
  unfold State.trace; dsimp only; repeat' split
  all_goals simp only [State.setTraceBuf_freeCtr, State.setBitAt_freeCtr, State.countAt_freeCtr]

/-! ### traceCore -/

@[simp] theorem State.traceCore_dev (s : State) (src idx core : Nat) (items : List Nat) : (s.traceCore src idx core items).dev = s.dev := by
  unfold State.traceCore; split <;> simp
@[simp] theorem State.traceCore_tide (s : State) (src idx core : Nat) (items : List Nat) : (s.traceCore src idx core items).tide = s.tide := by
  unfold State.traceCore; split <;> simp
@[simp] theorem State.traceCore_govW (s : State) (src idx core : Nat) (items : List Nat) : (s.traceCore src idx core items).govW = s.govW := by
  unfold State.traceCore; split <;> simp
@[simp] theorem State.traceCore_govE (s : State) (src idx core : Nat) (items : List Nat) : (s.traceCore src idx core items).govE = s.govE := by
  unfold State.traceCore; split <;> simp
@[simp] theorem State.traceCore_run (s : State) (src idx core : Nat) (items : List Nat) : (s.traceCore src idx core items).run = s.run := by
  unfold State.traceCore; split <;> simp
@[simp] theorem State.traceCore_snap (s : State) (src idx core : Nat) (items : List Nat) : (s.traceCore src idx core items).snap = s.snap := by
  unfold State.traceCore; split <;> simp
@[simp] theorem State.traceCore_strands (s : State) (src idx core : Nat) (items : List Nat) : (s.traceCore src idx core items).strands = s.strands := by
  unfold State.traceCore; split <;> simp
@[simp] theorem State.traceCore_code (s : State) (src idx core : Nat) (items : List Nat) : (s.traceCore src idx core items).code = s.code := by
  unfold State.traceCore; split <;> simp
@[simp] theorem State.traceCore_marks (s : State) (src idx core : Nat) (items : List Nat) : (s.traceCore src idx core items).marks = s.marks := by
  unfold State.traceCore; split <;> simp
@[simp] theorem State.traceCore_signals (s : State) (src idx core : Nat) (items : List Nat) : (s.traceCore src idx core items).signals = s.signals := by
  unfold State.traceCore; split <;> simp
@[simp] theorem State.traceCore_lockx (s : State) (src idx core : Nat) (items : List Nat) : (s.traceCore src idx core items).lockx = s.lockx := by
  unfold State.traceCore; split <;> simp
@[simp] theorem State.traceCore_ops (s : State) (src idx core : Nat) (items : List Nat) : (s.traceCore src idx core items).ops = s.ops := by
  unfold State.traceCore; split <;> simp
@[simp] theorem State.traceCore_nextOp (s : State) (src idx core : Nat) (items : List Nat) : (s.traceCore src idx core items).nextOp = s.nextOp := by
  unfold State.traceCore; split <;> simp
@[simp] theorem State.traceCore_acc (s : State) (src idx core : Nat) (items : List Nat) : (s.traceCore src idx core items).acc = s.acc := by
  unfold State.traceCore; split <;> simp
@[simp] theorem State.traceCore_feed (s : State) (src idx core : Nat) (items : List Nat) : (s.traceCore src idx core items).feed = s.feed := by
  unfold State.traceCore; split <;> simp
@[simp] theorem State.traceCore_easelFree (s : State) (src idx core : Nat) (items : List Nat) : (s.traceCore src idx core items).easelFree = s.easelFree := by
  unfold State.traceCore; split <;> simp
@[simp] theorem State.traceCore_bankFree (s : State) (src idx core : Nat) (items : List Nat) : (s.traceCore src idx core items).bankFree = s.bankFree := by
  unfold State.traceCore; split <;> simp
@[simp] theorem State.traceCore_pipeFree (s : State) (src idx core : Nat) (items : List Nat) : (s.traceCore src idx core items).pipeFree = s.pipeFree := by
  unfold State.traceCore; split <;> simp
@[simp] theorem State.traceCore_varnishFree (s : State) (src idx core : Nat) (items : List Nat) : (s.traceCore src idx core items).varnishFree = s.varnishFree := by
  unfold State.traceCore; split <;> simp
@[simp] theorem State.traceCore_vectorFree (s : State) (src idx core : Nat) (items : List Nat) : (s.traceCore src idx core items).vectorFree = s.vectorFree := by
  unfold State.traceCore; split <;> simp
@[simp] theorem State.traceCore_mem (s : State) (src idx core : Nat) (items : List Nat) : (s.traceCore src idx core items).mem = s.mem := by
  unfold State.traceCore; split <;> simp
@[simp] theorem State.traceCore_poison (s : State) (src idx core : Nat) (items : List Nat) : (s.traceCore src idx core items).poison = s.poison := by
  unfold State.traceCore; split <;> simp
@[simp] theorem State.traceCore_onDie (s : State) (src idx core : Nat) (items : List Nat) : (s.traceCore src idx core items).onDie = s.onDie := by
  unfold State.traceCore; split <;> simp
@[simp] theorem State.traceCore_main (s : State) (src idx core : Nat) (items : List Nat) : (s.traceCore src idx core items).main = s.main := by
  unfold State.traceCore; split <;> simp
@[simp] theorem State.traceCore_manifests (s : State) (src idx core : Nat) (items : List Nat) : (s.traceCore src idx core items).manifests = s.manifests := by
  unfold State.traceCore; split <;> simp
@[simp] theorem State.traceCore_grids (s : State) (src idx core : Nat) (items : List Nat) : (s.traceCore src idx core items).grids = s.grids := by
  unfold State.traceCore; split <;> simp
@[simp] theorem State.traceCore_fab (s : State) (src idx core : Nat) (items : List Nat) : (s.traceCore src idx core items).fab = s.fab := by
  unfold State.traceCore; split <;> simp
@[simp] theorem State.traceCore_red (s : State) (src idx core : Nat) (items : List Nat) : (s.traceCore src idx core items).red = s.red := by
  unfold State.traceCore; split <;> simp
@[simp] theorem State.traceCore_com (s : State) (src idx core : Nat) (items : List Nat) : (s.traceCore src idx core items).com = s.com := by
  unfold State.traceCore; split <;> simp
@[simp] theorem State.traceCore_plan (s : State) (src idx core : Nat) (items : List Nat) : (s.traceCore src idx core items).plan = s.plan := by
  unfold State.traceCore; split <;> simp
@[simp] theorem State.traceCore_host (s : State) (src idx core : Nat) (items : List Nat) : (s.traceCore src idx core items).host = s.host := by
  unfold State.traceCore; split <;> simp
@[simp] theorem State.traceCore_sec (s : State) (src idx core : Nat) (items : List Nat) : (s.traceCore src idx core items).sec = s.sec := by
  unfold State.traceCore; split <;> simp
@[simp] theorem State.traceCore_env (s : State) (src idx core : Nat) (items : List Nat) : (s.traceCore src idx core items).env = s.env := by
  unfold State.traceCore; split <;> simp
@[simp] theorem State.traceCore_i3c (s : State) (src idx core : Nat) (items : List Nat) : (s.traceCore src idx core items).i3c = s.i3c := by
  unfold State.traceCore; split <;> simp
@[simp] theorem State.traceCore_totals (s : State) (src idx core : Nat) (items : List Nat) : (s.traceCore src idx core items).totals = s.totals := by
  unfold State.traceCore; split <;> simp
@[simp] theorem State.traceCore_pending (s : State) (src idx core : Nat) (items : List Nat) : (s.traceCore src idx core items).pending = s.pending := by
  unfold State.traceCore; split <;> simp
@[simp] theorem State.traceCore_freeCtr (s : State) (src idx core : Nat) (items : List Nat) : (s.traceCore src idx core items).freeCtr = s.freeCtr := by
  unfold State.traceCore; split <;> simp

/-! ### traceMove -/

@[simp] theorem State.traceMove_dev (s : State) (idx core : Nat) (items : List Nat) : (s.traceMove idx core items).dev = s.dev := by
  unfold State.traceMove; split <;> simp
@[simp] theorem State.traceMove_tide (s : State) (idx core : Nat) (items : List Nat) : (s.traceMove idx core items).tide = s.tide := by
  unfold State.traceMove; split <;> simp
@[simp] theorem State.traceMove_govW (s : State) (idx core : Nat) (items : List Nat) : (s.traceMove idx core items).govW = s.govW := by
  unfold State.traceMove; split <;> simp
@[simp] theorem State.traceMove_govE (s : State) (idx core : Nat) (items : List Nat) : (s.traceMove idx core items).govE = s.govE := by
  unfold State.traceMove; split <;> simp
@[simp] theorem State.traceMove_run (s : State) (idx core : Nat) (items : List Nat) : (s.traceMove idx core items).run = s.run := by
  unfold State.traceMove; split <;> simp
@[simp] theorem State.traceMove_snap (s : State) (idx core : Nat) (items : List Nat) : (s.traceMove idx core items).snap = s.snap := by
  unfold State.traceMove; split <;> simp
@[simp] theorem State.traceMove_strands (s : State) (idx core : Nat) (items : List Nat) : (s.traceMove idx core items).strands = s.strands := by
  unfold State.traceMove; split <;> simp
@[simp] theorem State.traceMove_code (s : State) (idx core : Nat) (items : List Nat) : (s.traceMove idx core items).code = s.code := by
  unfold State.traceMove; split <;> simp
@[simp] theorem State.traceMove_marks (s : State) (idx core : Nat) (items : List Nat) : (s.traceMove idx core items).marks = s.marks := by
  unfold State.traceMove; split <;> simp
@[simp] theorem State.traceMove_signals (s : State) (idx core : Nat) (items : List Nat) : (s.traceMove idx core items).signals = s.signals := by
  unfold State.traceMove; split <;> simp
@[simp] theorem State.traceMove_lockx (s : State) (idx core : Nat) (items : List Nat) : (s.traceMove idx core items).lockx = s.lockx := by
  unfold State.traceMove; split <;> simp
@[simp] theorem State.traceMove_ops (s : State) (idx core : Nat) (items : List Nat) : (s.traceMove idx core items).ops = s.ops := by
  unfold State.traceMove; split <;> simp
@[simp] theorem State.traceMove_nextOp (s : State) (idx core : Nat) (items : List Nat) : (s.traceMove idx core items).nextOp = s.nextOp := by
  unfold State.traceMove; split <;> simp
@[simp] theorem State.traceMove_acc (s : State) (idx core : Nat) (items : List Nat) : (s.traceMove idx core items).acc = s.acc := by
  unfold State.traceMove; split <;> simp
@[simp] theorem State.traceMove_feed (s : State) (idx core : Nat) (items : List Nat) : (s.traceMove idx core items).feed = s.feed := by
  unfold State.traceMove; split <;> simp
@[simp] theorem State.traceMove_easelFree (s : State) (idx core : Nat) (items : List Nat) : (s.traceMove idx core items).easelFree = s.easelFree := by
  unfold State.traceMove; split <;> simp
@[simp] theorem State.traceMove_bankFree (s : State) (idx core : Nat) (items : List Nat) : (s.traceMove idx core items).bankFree = s.bankFree := by
  unfold State.traceMove; split <;> simp
@[simp] theorem State.traceMove_pipeFree (s : State) (idx core : Nat) (items : List Nat) : (s.traceMove idx core items).pipeFree = s.pipeFree := by
  unfold State.traceMove; split <;> simp
@[simp] theorem State.traceMove_varnishFree (s : State) (idx core : Nat) (items : List Nat) : (s.traceMove idx core items).varnishFree = s.varnishFree := by
  unfold State.traceMove; split <;> simp
@[simp] theorem State.traceMove_vectorFree (s : State) (idx core : Nat) (items : List Nat) : (s.traceMove idx core items).vectorFree = s.vectorFree := by
  unfold State.traceMove; split <;> simp
@[simp] theorem State.traceMove_mem (s : State) (idx core : Nat) (items : List Nat) : (s.traceMove idx core items).mem = s.mem := by
  unfold State.traceMove; split <;> simp
@[simp] theorem State.traceMove_poison (s : State) (idx core : Nat) (items : List Nat) : (s.traceMove idx core items).poison = s.poison := by
  unfold State.traceMove; split <;> simp
@[simp] theorem State.traceMove_onDie (s : State) (idx core : Nat) (items : List Nat) : (s.traceMove idx core items).onDie = s.onDie := by
  unfold State.traceMove; split <;> simp
@[simp] theorem State.traceMove_main (s : State) (idx core : Nat) (items : List Nat) : (s.traceMove idx core items).main = s.main := by
  unfold State.traceMove; split <;> simp
@[simp] theorem State.traceMove_manifests (s : State) (idx core : Nat) (items : List Nat) : (s.traceMove idx core items).manifests = s.manifests := by
  unfold State.traceMove; split <;> simp
@[simp] theorem State.traceMove_grids (s : State) (idx core : Nat) (items : List Nat) : (s.traceMove idx core items).grids = s.grids := by
  unfold State.traceMove; split <;> simp
@[simp] theorem State.traceMove_fab (s : State) (idx core : Nat) (items : List Nat) : (s.traceMove idx core items).fab = s.fab := by
  unfold State.traceMove; split <;> simp
@[simp] theorem State.traceMove_red (s : State) (idx core : Nat) (items : List Nat) : (s.traceMove idx core items).red = s.red := by
  unfold State.traceMove; split <;> simp
@[simp] theorem State.traceMove_com (s : State) (idx core : Nat) (items : List Nat) : (s.traceMove idx core items).com = s.com := by
  unfold State.traceMove; split <;> simp
@[simp] theorem State.traceMove_plan (s : State) (idx core : Nat) (items : List Nat) : (s.traceMove idx core items).plan = s.plan := by
  unfold State.traceMove; split <;> simp
@[simp] theorem State.traceMove_host (s : State) (idx core : Nat) (items : List Nat) : (s.traceMove idx core items).host = s.host := by
  unfold State.traceMove; split <;> simp
@[simp] theorem State.traceMove_sec (s : State) (idx core : Nat) (items : List Nat) : (s.traceMove idx core items).sec = s.sec := by
  unfold State.traceMove; split <;> simp
@[simp] theorem State.traceMove_env (s : State) (idx core : Nat) (items : List Nat) : (s.traceMove idx core items).env = s.env := by
  unfold State.traceMove; split <;> simp
@[simp] theorem State.traceMove_i3c (s : State) (idx core : Nat) (items : List Nat) : (s.traceMove idx core items).i3c = s.i3c := by
  unfold State.traceMove; split <;> simp
@[simp] theorem State.traceMove_totals (s : State) (idx core : Nat) (items : List Nat) : (s.traceMove idx core items).totals = s.totals := by
  unfold State.traceMove; split <;> simp
@[simp] theorem State.traceMove_pending (s : State) (idx core : Nat) (items : List Nat) : (s.traceMove idx core items).pending = s.pending := by
  unfold State.traceMove; split <;> simp
@[simp] theorem State.traceMove_freeCtr (s : State) (idx core : Nat) (items : List Nat) : (s.traceMove idx core items).freeCtr = s.freeCtr := by
  unfold State.traceMove; split <;> simp

/-! ### traceQuay -/

@[simp] theorem State.traceQuay_dev (s : State) (idx q : Nat) (items : List Nat) : (s.traceQuay idx q items).dev = s.dev := by
  unfold State.traceQuay; split <;> simp
@[simp] theorem State.traceQuay_tide (s : State) (idx q : Nat) (items : List Nat) : (s.traceQuay idx q items).tide = s.tide := by
  unfold State.traceQuay; split <;> simp
@[simp] theorem State.traceQuay_govW (s : State) (idx q : Nat) (items : List Nat) : (s.traceQuay idx q items).govW = s.govW := by
  unfold State.traceQuay; split <;> simp
@[simp] theorem State.traceQuay_govE (s : State) (idx q : Nat) (items : List Nat) : (s.traceQuay idx q items).govE = s.govE := by
  unfold State.traceQuay; split <;> simp
@[simp] theorem State.traceQuay_run (s : State) (idx q : Nat) (items : List Nat) : (s.traceQuay idx q items).run = s.run := by
  unfold State.traceQuay; split <;> simp
@[simp] theorem State.traceQuay_snap (s : State) (idx q : Nat) (items : List Nat) : (s.traceQuay idx q items).snap = s.snap := by
  unfold State.traceQuay; split <;> simp
@[simp] theorem State.traceQuay_strands (s : State) (idx q : Nat) (items : List Nat) : (s.traceQuay idx q items).strands = s.strands := by
  unfold State.traceQuay; split <;> simp
@[simp] theorem State.traceQuay_code (s : State) (idx q : Nat) (items : List Nat) : (s.traceQuay idx q items).code = s.code := by
  unfold State.traceQuay; split <;> simp
@[simp] theorem State.traceQuay_marks (s : State) (idx q : Nat) (items : List Nat) : (s.traceQuay idx q items).marks = s.marks := by
  unfold State.traceQuay; split <;> simp
@[simp] theorem State.traceQuay_signals (s : State) (idx q : Nat) (items : List Nat) : (s.traceQuay idx q items).signals = s.signals := by
  unfold State.traceQuay; split <;> simp
@[simp] theorem State.traceQuay_lockx (s : State) (idx q : Nat) (items : List Nat) : (s.traceQuay idx q items).lockx = s.lockx := by
  unfold State.traceQuay; split <;> simp
@[simp] theorem State.traceQuay_ops (s : State) (idx q : Nat) (items : List Nat) : (s.traceQuay idx q items).ops = s.ops := by
  unfold State.traceQuay; split <;> simp
@[simp] theorem State.traceQuay_nextOp (s : State) (idx q : Nat) (items : List Nat) : (s.traceQuay idx q items).nextOp = s.nextOp := by
  unfold State.traceQuay; split <;> simp
@[simp] theorem State.traceQuay_acc (s : State) (idx q : Nat) (items : List Nat) : (s.traceQuay idx q items).acc = s.acc := by
  unfold State.traceQuay; split <;> simp
@[simp] theorem State.traceQuay_feed (s : State) (idx q : Nat) (items : List Nat) : (s.traceQuay idx q items).feed = s.feed := by
  unfold State.traceQuay; split <;> simp
@[simp] theorem State.traceQuay_easelFree (s : State) (idx q : Nat) (items : List Nat) : (s.traceQuay idx q items).easelFree = s.easelFree := by
  unfold State.traceQuay; split <;> simp
@[simp] theorem State.traceQuay_bankFree (s : State) (idx q : Nat) (items : List Nat) : (s.traceQuay idx q items).bankFree = s.bankFree := by
  unfold State.traceQuay; split <;> simp
@[simp] theorem State.traceQuay_pipeFree (s : State) (idx q : Nat) (items : List Nat) : (s.traceQuay idx q items).pipeFree = s.pipeFree := by
  unfold State.traceQuay; split <;> simp
@[simp] theorem State.traceQuay_varnishFree (s : State) (idx q : Nat) (items : List Nat) : (s.traceQuay idx q items).varnishFree = s.varnishFree := by
  unfold State.traceQuay; split <;> simp
@[simp] theorem State.traceQuay_vectorFree (s : State) (idx q : Nat) (items : List Nat) : (s.traceQuay idx q items).vectorFree = s.vectorFree := by
  unfold State.traceQuay; split <;> simp
@[simp] theorem State.traceQuay_mem (s : State) (idx q : Nat) (items : List Nat) : (s.traceQuay idx q items).mem = s.mem := by
  unfold State.traceQuay; split <;> simp
@[simp] theorem State.traceQuay_poison (s : State) (idx q : Nat) (items : List Nat) : (s.traceQuay idx q items).poison = s.poison := by
  unfold State.traceQuay; split <;> simp
@[simp] theorem State.traceQuay_onDie (s : State) (idx q : Nat) (items : List Nat) : (s.traceQuay idx q items).onDie = s.onDie := by
  unfold State.traceQuay; split <;> simp
@[simp] theorem State.traceQuay_main (s : State) (idx q : Nat) (items : List Nat) : (s.traceQuay idx q items).main = s.main := by
  unfold State.traceQuay; split <;> simp
@[simp] theorem State.traceQuay_manifests (s : State) (idx q : Nat) (items : List Nat) : (s.traceQuay idx q items).manifests = s.manifests := by
  unfold State.traceQuay; split <;> simp
@[simp] theorem State.traceQuay_grids (s : State) (idx q : Nat) (items : List Nat) : (s.traceQuay idx q items).grids = s.grids := by
  unfold State.traceQuay; split <;> simp
@[simp] theorem State.traceQuay_fab (s : State) (idx q : Nat) (items : List Nat) : (s.traceQuay idx q items).fab = s.fab := by
  unfold State.traceQuay; split <;> simp
@[simp] theorem State.traceQuay_red (s : State) (idx q : Nat) (items : List Nat) : (s.traceQuay idx q items).red = s.red := by
  unfold State.traceQuay; split <;> simp
@[simp] theorem State.traceQuay_com (s : State) (idx q : Nat) (items : List Nat) : (s.traceQuay idx q items).com = s.com := by
  unfold State.traceQuay; split <;> simp
@[simp] theorem State.traceQuay_plan (s : State) (idx q : Nat) (items : List Nat) : (s.traceQuay idx q items).plan = s.plan := by
  unfold State.traceQuay; split <;> simp
@[simp] theorem State.traceQuay_host (s : State) (idx q : Nat) (items : List Nat) : (s.traceQuay idx q items).host = s.host := by
  unfold State.traceQuay; split <;> simp
@[simp] theorem State.traceQuay_sec (s : State) (idx q : Nat) (items : List Nat) : (s.traceQuay idx q items).sec = s.sec := by
  unfold State.traceQuay; split <;> simp
@[simp] theorem State.traceQuay_env (s : State) (idx q : Nat) (items : List Nat) : (s.traceQuay idx q items).env = s.env := by
  unfold State.traceQuay; split <;> simp
@[simp] theorem State.traceQuay_i3c (s : State) (idx q : Nat) (items : List Nat) : (s.traceQuay idx q items).i3c = s.i3c := by
  unfold State.traceQuay; split <;> simp
@[simp] theorem State.traceQuay_totals (s : State) (idx q : Nat) (items : List Nat) : (s.traceQuay idx q items).totals = s.totals := by
  unfold State.traceQuay; split <;> simp
@[simp] theorem State.traceQuay_pending (s : State) (idx q : Nat) (items : List Nat) : (s.traceQuay idx q items).pending = s.pending := by
  unfold State.traceQuay; split <;> simp
@[simp] theorem State.traceQuay_freeCtr (s : State) (idx q : Nat) (items : List Nat) : (s.traceQuay idx q items).freeCtr = s.freeCtr := by
  unfold State.traceQuay; split <;> simp

/-! ### enter -/

@[simp] theorem State.enterBy_tide (s : State) (i : Bool) (d : DevState) (c : Nat) : (s.enterBy i d c).tide = s.tide := by
  unfold State.enterBy; split <;> simp
@[simp] theorem State.enterBy_govW (s : State) (i : Bool) (d : DevState) (c : Nat) : (s.enterBy i d c).govW = s.govW := by
  unfold State.enterBy; split <;> simp
@[simp] theorem State.enterBy_govE (s : State) (i : Bool) (d : DevState) (c : Nat) : (s.enterBy i d c).govE = s.govE := by
  unfold State.enterBy; split <;> simp
@[simp] theorem State.enterBy_run (s : State) (i : Bool) (d : DevState) (c : Nat) : (s.enterBy i d c).run = s.run := by
  unfold State.enterBy; split <;> simp
@[simp] theorem State.enterBy_snap (s : State) (i : Bool) (d : DevState) (c : Nat) : (s.enterBy i d c).snap = s.snap := by
  unfold State.enterBy; split <;> simp
@[simp] theorem State.enterBy_strands (s : State) (i : Bool) (d : DevState) (c : Nat) : (s.enterBy i d c).strands = s.strands := by
  unfold State.enterBy; split <;> simp
@[simp] theorem State.enterBy_code (s : State) (i : Bool) (d : DevState) (c : Nat) : (s.enterBy i d c).code = s.code := by
  unfold State.enterBy; split <;> simp
@[simp] theorem State.enterBy_marks (s : State) (i : Bool) (d : DevState) (c : Nat) : (s.enterBy i d c).marks = s.marks := by
  unfold State.enterBy; split <;> simp
@[simp] theorem State.enterBy_signals (s : State) (i : Bool) (d : DevState) (c : Nat) : (s.enterBy i d c).signals = s.signals := by
  unfold State.enterBy; split <;> simp
@[simp] theorem State.enterBy_lockx (s : State) (i : Bool) (d : DevState) (c : Nat) : (s.enterBy i d c).lockx = s.lockx := by
  unfold State.enterBy; split <;> simp
@[simp] theorem State.enterBy_ops (s : State) (i : Bool) (d : DevState) (c : Nat) : (s.enterBy i d c).ops = s.ops := by
  unfold State.enterBy; split <;> simp
@[simp] theorem State.enterBy_nextOp (s : State) (i : Bool) (d : DevState) (c : Nat) : (s.enterBy i d c).nextOp = s.nextOp := by
  unfold State.enterBy; split <;> simp
@[simp] theorem State.enterBy_acc (s : State) (i : Bool) (d : DevState) (c : Nat) : (s.enterBy i d c).acc = s.acc := by
  unfold State.enterBy; split <;> simp
@[simp] theorem State.enterBy_feed (s : State) (i : Bool) (d : DevState) (c : Nat) : (s.enterBy i d c).feed = s.feed := by
  unfold State.enterBy; split <;> simp
@[simp] theorem State.enterBy_easelFree (s : State) (i : Bool) (d : DevState) (c : Nat) : (s.enterBy i d c).easelFree = s.easelFree := by
  unfold State.enterBy; split <;> simp
@[simp] theorem State.enterBy_bankFree (s : State) (i : Bool) (d : DevState) (c : Nat) : (s.enterBy i d c).bankFree = s.bankFree := by
  unfold State.enterBy; split <;> simp
@[simp] theorem State.enterBy_pipeFree (s : State) (i : Bool) (d : DevState) (c : Nat) : (s.enterBy i d c).pipeFree = s.pipeFree := by
  unfold State.enterBy; split <;> simp
@[simp] theorem State.enterBy_varnishFree (s : State) (i : Bool) (d : DevState) (c : Nat) : (s.enterBy i d c).varnishFree = s.varnishFree := by
  unfold State.enterBy; split <;> simp
@[simp] theorem State.enterBy_vectorFree (s : State) (i : Bool) (d : DevState) (c : Nat) : (s.enterBy i d c).vectorFree = s.vectorFree := by
  unfold State.enterBy; split <;> simp
@[simp] theorem State.enterBy_mem (s : State) (i : Bool) (d : DevState) (c : Nat) : (s.enterBy i d c).mem = s.mem := by
  unfold State.enterBy; split <;> simp
@[simp] theorem State.enterBy_poison (s : State) (i : Bool) (d : DevState) (c : Nat) : (s.enterBy i d c).poison = s.poison := by
  unfold State.enterBy; split <;> simp
@[simp] theorem State.enterBy_onDie (s : State) (i : Bool) (d : DevState) (c : Nat) : (s.enterBy i d c).onDie = s.onDie := by
  unfold State.enterBy; split <;> simp
@[simp] theorem State.enterBy_main (s : State) (i : Bool) (d : DevState) (c : Nat) : (s.enterBy i d c).main = s.main := by
  unfold State.enterBy; split <;> simp
@[simp] theorem State.enterBy_manifests (s : State) (i : Bool) (d : DevState) (c : Nat) : (s.enterBy i d c).manifests = s.manifests := by
  unfold State.enterBy; split <;> simp
@[simp] theorem State.enterBy_grids (s : State) (i : Bool) (d : DevState) (c : Nat) : (s.enterBy i d c).grids = s.grids := by
  unfold State.enterBy; split <;> simp
@[simp] theorem State.enterBy_fab (s : State) (i : Bool) (d : DevState) (c : Nat) : (s.enterBy i d c).fab = s.fab := by
  unfold State.enterBy; split <;> simp
@[simp] theorem State.enterBy_red (s : State) (i : Bool) (d : DevState) (c : Nat) : (s.enterBy i d c).red = s.red := by
  unfold State.enterBy; split <;> simp
@[simp] theorem State.enterBy_com (s : State) (i : Bool) (d : DevState) (c : Nat) : (s.enterBy i d c).com = s.com := by
  unfold State.enterBy; split <;> simp
@[simp] theorem State.enterBy_plan (s : State) (i : Bool) (d : DevState) (c : Nat) : (s.enterBy i d c).plan = s.plan := by
  unfold State.enterBy; split <;> simp
@[simp] theorem State.enterBy_host (s : State) (i : Bool) (d : DevState) (c : Nat) : (s.enterBy i d c).host = s.host := by
  unfold State.enterBy; split <;> simp
@[simp] theorem State.enterBy_sec (s : State) (i : Bool) (d : DevState) (c : Nat) : (s.enterBy i d c).sec = s.sec := by
  unfold State.enterBy; split <;> simp
@[simp] theorem State.enterBy_env (s : State) (i : Bool) (d : DevState) (c : Nat) : (s.enterBy i d c).env = s.env := by
  unfold State.enterBy; split <;> simp
@[simp] theorem State.enterBy_i3c (s : State) (i : Bool) (d : DevState) (c : Nat) : (s.enterBy i d c).i3c = s.i3c := by
  unfold State.enterBy; split <;> simp
@[simp] theorem State.enterBy_totals (s : State) (i : Bool) (d : DevState) (c : Nat) : (s.enterBy i d c).totals = s.totals := by
  unfold State.enterBy; split <;> simp
@[simp] theorem State.enterBy_pending (s : State) (i : Bool) (d : DevState) (c : Nat) : (s.enterBy i d c).pending = s.pending := by
  unfold State.enterBy; split <;> simp
@[simp] theorem State.enterBy_freeCtr (s : State) (i : Bool) (d : DevState) (c : Nat) : (s.enterBy i d c).freeCtr = s.freeCtr := by
  unfold State.enterBy; split <;> simp

@[simp] theorem State.enter_tide (s : State) (d : DevState) (c : Nat) : (s.enter d c).tide = s.tide := s.enterBy_tide false d c
@[simp] theorem State.enter_govW (s : State) (d : DevState) (c : Nat) : (s.enter d c).govW = s.govW := s.enterBy_govW false d c
@[simp] theorem State.enter_govE (s : State) (d : DevState) (c : Nat) : (s.enter d c).govE = s.govE := s.enterBy_govE false d c
@[simp] theorem State.enter_run (s : State) (d : DevState) (c : Nat) : (s.enter d c).run = s.run := s.enterBy_run false d c
@[simp] theorem State.enter_snap (s : State) (d : DevState) (c : Nat) : (s.enter d c).snap = s.snap := s.enterBy_snap false d c
@[simp] theorem State.enter_strands (s : State) (d : DevState) (c : Nat) : (s.enter d c).strands = s.strands := s.enterBy_strands false d c
@[simp] theorem State.enter_code (s : State) (d : DevState) (c : Nat) : (s.enter d c).code = s.code := s.enterBy_code false d c
@[simp] theorem State.enter_marks (s : State) (d : DevState) (c : Nat) : (s.enter d c).marks = s.marks := s.enterBy_marks false d c
@[simp] theorem State.enter_signals (s : State) (d : DevState) (c : Nat) : (s.enter d c).signals = s.signals := s.enterBy_signals false d c
@[simp] theorem State.enter_lockx (s : State) (d : DevState) (c : Nat) : (s.enter d c).lockx = s.lockx := s.enterBy_lockx false d c
@[simp] theorem State.enter_ops (s : State) (d : DevState) (c : Nat) : (s.enter d c).ops = s.ops := s.enterBy_ops false d c
@[simp] theorem State.enter_nextOp (s : State) (d : DevState) (c : Nat) : (s.enter d c).nextOp = s.nextOp := s.enterBy_nextOp false d c
@[simp] theorem State.enter_acc (s : State) (d : DevState) (c : Nat) : (s.enter d c).acc = s.acc := s.enterBy_acc false d c
@[simp] theorem State.enter_feed (s : State) (d : DevState) (c : Nat) : (s.enter d c).feed = s.feed := s.enterBy_feed false d c
@[simp] theorem State.enter_easelFree (s : State) (d : DevState) (c : Nat) : (s.enter d c).easelFree = s.easelFree := s.enterBy_easelFree false d c
@[simp] theorem State.enter_bankFree (s : State) (d : DevState) (c : Nat) : (s.enter d c).bankFree = s.bankFree := s.enterBy_bankFree false d c
@[simp] theorem State.enter_pipeFree (s : State) (d : DevState) (c : Nat) : (s.enter d c).pipeFree = s.pipeFree := s.enterBy_pipeFree false d c
@[simp] theorem State.enter_varnishFree (s : State) (d : DevState) (c : Nat) : (s.enter d c).varnishFree = s.varnishFree := s.enterBy_varnishFree false d c
@[simp] theorem State.enter_vectorFree (s : State) (d : DevState) (c : Nat) : (s.enter d c).vectorFree = s.vectorFree := s.enterBy_vectorFree false d c
@[simp] theorem State.enter_mem (s : State) (d : DevState) (c : Nat) : (s.enter d c).mem = s.mem := s.enterBy_mem false d c
@[simp] theorem State.enter_poison (s : State) (d : DevState) (c : Nat) : (s.enter d c).poison = s.poison := s.enterBy_poison false d c
@[simp] theorem State.enter_onDie (s : State) (d : DevState) (c : Nat) : (s.enter d c).onDie = s.onDie := s.enterBy_onDie false d c
@[simp] theorem State.enter_main (s : State) (d : DevState) (c : Nat) : (s.enter d c).main = s.main := s.enterBy_main false d c
@[simp] theorem State.enter_manifests (s : State) (d : DevState) (c : Nat) : (s.enter d c).manifests = s.manifests := s.enterBy_manifests false d c
@[simp] theorem State.enter_grids (s : State) (d : DevState) (c : Nat) : (s.enter d c).grids = s.grids := s.enterBy_grids false d c
@[simp] theorem State.enter_fab (s : State) (d : DevState) (c : Nat) : (s.enter d c).fab = s.fab := s.enterBy_fab false d c
@[simp] theorem State.enter_red (s : State) (d : DevState) (c : Nat) : (s.enter d c).red = s.red := s.enterBy_red false d c
@[simp] theorem State.enter_com (s : State) (d : DevState) (c : Nat) : (s.enter d c).com = s.com := s.enterBy_com false d c
@[simp] theorem State.enter_plan (s : State) (d : DevState) (c : Nat) : (s.enter d c).plan = s.plan := s.enterBy_plan false d c
@[simp] theorem State.enter_host (s : State) (d : DevState) (c : Nat) : (s.enter d c).host = s.host := s.enterBy_host false d c
@[simp] theorem State.enter_sec (s : State) (d : DevState) (c : Nat) : (s.enter d c).sec = s.sec := s.enterBy_sec false d c
@[simp] theorem State.enter_env (s : State) (d : DevState) (c : Nat) : (s.enter d c).env = s.env := s.enterBy_env false d c
@[simp] theorem State.enter_i3c (s : State) (d : DevState) (c : Nat) : (s.enter d c).i3c = s.i3c := s.enterBy_i3c false d c
@[simp] theorem State.enter_totals (s : State) (d : DevState) (c : Nat) : (s.enter d c).totals = s.totals := s.enterBy_totals false d c
@[simp] theorem State.enter_pending (s : State) (d : DevState) (c : Nat) : (s.enter d c).pending = s.pending := s.enterBy_pending false d c
@[simp] theorem State.enter_freeCtr (s : State) (d : DevState) (c : Nat) : (s.enter d c).freeCtr = s.freeCtr := s.enterBy_freeCtr false d c

/-! ### stopIssue -/

@[simp] theorem State.stopIssue_dev (s : State) (b c : Nat) : (s.stopIssue b c).dev = s.dev := by
  simp [State.stopIssue]
@[simp] theorem State.stopIssue_tide (s : State) (b c : Nat) : (s.stopIssue b c).tide = s.tide := by
  simp [State.stopIssue]
@[simp] theorem State.stopIssue_govW (s : State) (b c : Nat) : (s.stopIssue b c).govW = s.govW := by
  simp [State.stopIssue]
@[simp] theorem State.stopIssue_govE (s : State) (b c : Nat) : (s.stopIssue b c).govE = s.govE := by
  simp [State.stopIssue]
@[simp] theorem State.stopIssue_snap (s : State) (b c : Nat) : (s.stopIssue b c).snap = s.snap := by
  simp [State.stopIssue]
@[simp] theorem State.stopIssue_strands (s : State) (b c : Nat) : (s.stopIssue b c).strands = s.strands := by
  simp [State.stopIssue]
@[simp] theorem State.stopIssue_code (s : State) (b c : Nat) : (s.stopIssue b c).code = s.code := by
  simp [State.stopIssue]
@[simp] theorem State.stopIssue_marks (s : State) (b c : Nat) : (s.stopIssue b c).marks = s.marks := by
  simp [State.stopIssue]
@[simp] theorem State.stopIssue_signals (s : State) (b c : Nat) : (s.stopIssue b c).signals = s.signals := by
  simp [State.stopIssue]
@[simp] theorem State.stopIssue_lockx (s : State) (b c : Nat) : (s.stopIssue b c).lockx = s.lockx := by
  simp [State.stopIssue]
@[simp] theorem State.stopIssue_ops (s : State) (b c : Nat) : (s.stopIssue b c).ops = s.ops := by
  simp [State.stopIssue]
@[simp] theorem State.stopIssue_nextOp (s : State) (b c : Nat) : (s.stopIssue b c).nextOp = s.nextOp := by
  simp [State.stopIssue]
@[simp] theorem State.stopIssue_acc (s : State) (b c : Nat) : (s.stopIssue b c).acc = s.acc := by
  simp [State.stopIssue]
@[simp] theorem State.stopIssue_feed (s : State) (b c : Nat) : (s.stopIssue b c).feed = s.feed := by
  simp [State.stopIssue]
@[simp] theorem State.stopIssue_easelFree (s : State) (b c : Nat) : (s.stopIssue b c).easelFree = s.easelFree := by
  simp [State.stopIssue]
@[simp] theorem State.stopIssue_bankFree (s : State) (b c : Nat) : (s.stopIssue b c).bankFree = s.bankFree := by
  simp [State.stopIssue]
@[simp] theorem State.stopIssue_pipeFree (s : State) (b c : Nat) : (s.stopIssue b c).pipeFree = s.pipeFree := by
  simp [State.stopIssue]
@[simp] theorem State.stopIssue_varnishFree (s : State) (b c : Nat) : (s.stopIssue b c).varnishFree = s.varnishFree := by
  simp [State.stopIssue]
@[simp] theorem State.stopIssue_vectorFree (s : State) (b c : Nat) : (s.stopIssue b c).vectorFree = s.vectorFree := by
  simp [State.stopIssue]
@[simp] theorem State.stopIssue_mem (s : State) (b c : Nat) : (s.stopIssue b c).mem = s.mem := by
  simp [State.stopIssue]
@[simp] theorem State.stopIssue_poison (s : State) (b c : Nat) : (s.stopIssue b c).poison = s.poison := by
  simp [State.stopIssue]
@[simp] theorem State.stopIssue_onDie (s : State) (b c : Nat) : (s.stopIssue b c).onDie = s.onDie := by
  simp [State.stopIssue]
@[simp] theorem State.stopIssue_main (s : State) (b c : Nat) : (s.stopIssue b c).main = s.main := by
  simp [State.stopIssue]
@[simp] theorem State.stopIssue_manifests (s : State) (b c : Nat) : (s.stopIssue b c).manifests = s.manifests := by
  simp [State.stopIssue]
@[simp] theorem State.stopIssue_grids (s : State) (b c : Nat) : (s.stopIssue b c).grids = s.grids := by
  simp [State.stopIssue]
@[simp] theorem State.stopIssue_fab (s : State) (b c : Nat) : (s.stopIssue b c).fab = s.fab := by
  simp [State.stopIssue]
@[simp] theorem State.stopIssue_red (s : State) (b c : Nat) : (s.stopIssue b c).red = s.red := by
  simp [State.stopIssue]
@[simp] theorem State.stopIssue_com (s : State) (b c : Nat) : (s.stopIssue b c).com = s.com := by
  simp [State.stopIssue]
@[simp] theorem State.stopIssue_plan (s : State) (b c : Nat) : (s.stopIssue b c).plan = s.plan := by
  simp [State.stopIssue]
@[simp] theorem State.stopIssue_log (s : State) (b c : Nat) : (s.stopIssue b c).log = s.log := by
  simp [State.stopIssue]
@[simp] theorem State.stopIssue_host (s : State) (b c : Nat) : (s.stopIssue b c).host = s.host := by
  simp [State.stopIssue]
@[simp] theorem State.stopIssue_sec (s : State) (b c : Nat) : (s.stopIssue b c).sec = s.sec := by
  simp [State.stopIssue]
@[simp] theorem State.stopIssue_env (s : State) (b c : Nat) : (s.stopIssue b c).env = s.env := by
  simp [State.stopIssue]
@[simp] theorem State.stopIssue_i3c (s : State) (b c : Nat) : (s.stopIssue b c).i3c = s.i3c := by
  simp [State.stopIssue]
@[simp] theorem State.stopIssue_totals (s : State) (b c : Nat) : (s.stopIssue b c).totals = s.totals := by
  simp [State.stopIssue]
@[simp] theorem State.stopIssue_pending (s : State) (b c : Nat) : (s.stopIssue b c).pending = s.pending := by
  simp [State.stopIssue]
@[simp] theorem State.stopIssue_freeCtr (s : State) (b c : Nat) : (s.stopIssue b c).freeCtr = s.freeCtr := by
  simp [State.stopIssue]

/-! ### slip -/

@[simp] theorem State.slip_dev (s : State) (b src : Nat) (items : List Nat) (i : Bool) : (s.slip b src items i).dev = s.dev := by
  unfold State.slip; dsimp only; split <;> simp
@[simp] theorem State.slip_tide (s : State) (b src : Nat) (items : List Nat) (i : Bool) : (s.slip b src items i).tide = s.tide := by
  unfold State.slip; dsimp only; split <;> simp
@[simp] theorem State.slip_govW (s : State) (b src : Nat) (items : List Nat) (i : Bool) : (s.slip b src items i).govW = s.govW := by
  unfold State.slip; dsimp only; split <;> simp
@[simp] theorem State.slip_govE (s : State) (b src : Nat) (items : List Nat) (i : Bool) : (s.slip b src items i).govE = s.govE := by
  unfold State.slip; dsimp only; split <;> simp
@[simp] theorem State.slip_snap (s : State) (b src : Nat) (items : List Nat) (i : Bool) : (s.slip b src items i).snap = s.snap := by
  unfold State.slip; dsimp only; split <;> simp
@[simp] theorem State.slip_strands (s : State) (b src : Nat) (items : List Nat) (i : Bool) : (s.slip b src items i).strands = s.strands := by
  unfold State.slip; dsimp only; split <;> simp
@[simp] theorem State.slip_code (s : State) (b src : Nat) (items : List Nat) (i : Bool) : (s.slip b src items i).code = s.code := by
  unfold State.slip; dsimp only; split <;> simp
@[simp] theorem State.slip_marks (s : State) (b src : Nat) (items : List Nat) (i : Bool) : (s.slip b src items i).marks = s.marks := by
  unfold State.slip; dsimp only; split <;> simp
@[simp] theorem State.slip_signals (s : State) (b src : Nat) (items : List Nat) (i : Bool) : (s.slip b src items i).signals = s.signals := by
  unfold State.slip; dsimp only; split <;> simp
@[simp] theorem State.slip_lockx (s : State) (b src : Nat) (items : List Nat) (i : Bool) : (s.slip b src items i).lockx = s.lockx := by
  unfold State.slip; dsimp only; split <;> simp
@[simp] theorem State.slip_ops (s : State) (b src : Nat) (items : List Nat) (i : Bool) : (s.slip b src items i).ops = s.ops := by
  unfold State.slip; dsimp only; split <;> simp
@[simp] theorem State.slip_nextOp (s : State) (b src : Nat) (items : List Nat) (i : Bool) : (s.slip b src items i).nextOp = s.nextOp := by
  unfold State.slip; dsimp only; split <;> simp
@[simp] theorem State.slip_acc (s : State) (b src : Nat) (items : List Nat) (i : Bool) : (s.slip b src items i).acc = s.acc := by
  unfold State.slip; dsimp only; split <;> simp
@[simp] theorem State.slip_feed (s : State) (b src : Nat) (items : List Nat) (i : Bool) : (s.slip b src items i).feed = s.feed := by
  unfold State.slip; dsimp only; split <;> simp
@[simp] theorem State.slip_easelFree (s : State) (b src : Nat) (items : List Nat) (i : Bool) : (s.slip b src items i).easelFree = s.easelFree := by
  unfold State.slip; dsimp only; split <;> simp
@[simp] theorem State.slip_bankFree (s : State) (b src : Nat) (items : List Nat) (i : Bool) : (s.slip b src items i).bankFree = s.bankFree := by
  unfold State.slip; dsimp only; split <;> simp
@[simp] theorem State.slip_pipeFree (s : State) (b src : Nat) (items : List Nat) (i : Bool) : (s.slip b src items i).pipeFree = s.pipeFree := by
  unfold State.slip; dsimp only; split <;> simp
@[simp] theorem State.slip_varnishFree (s : State) (b src : Nat) (items : List Nat) (i : Bool) : (s.slip b src items i).varnishFree = s.varnishFree := by
  unfold State.slip; dsimp only; split <;> simp
@[simp] theorem State.slip_vectorFree (s : State) (b src : Nat) (items : List Nat) (i : Bool) : (s.slip b src items i).vectorFree = s.vectorFree := by
  unfold State.slip; dsimp only; split <;> simp
@[simp] theorem State.slip_mem (s : State) (b src : Nat) (items : List Nat) (i : Bool) : (s.slip b src items i).mem = s.mem := by
  unfold State.slip; dsimp only; split <;> simp
@[simp] theorem State.slip_poison (s : State) (b src : Nat) (items : List Nat) (i : Bool) : (s.slip b src items i).poison = s.poison := by
  unfold State.slip; dsimp only; split <;> simp
@[simp] theorem State.slip_onDie (s : State) (b src : Nat) (items : List Nat) (i : Bool) : (s.slip b src items i).onDie = s.onDie := by
  unfold State.slip; dsimp only; split <;> simp
@[simp] theorem State.slip_main (s : State) (b src : Nat) (items : List Nat) (i : Bool) : (s.slip b src items i).main = s.main := by
  unfold State.slip; dsimp only; split <;> simp
@[simp] theorem State.slip_manifests (s : State) (b src : Nat) (items : List Nat) (i : Bool) : (s.slip b src items i).manifests = s.manifests := by
  unfold State.slip; dsimp only; split <;> simp
@[simp] theorem State.slip_grids (s : State) (b src : Nat) (items : List Nat) (i : Bool) : (s.slip b src items i).grids = s.grids := by
  unfold State.slip; dsimp only; split <;> simp
@[simp] theorem State.slip_fab (s : State) (b src : Nat) (items : List Nat) (i : Bool) : (s.slip b src items i).fab = s.fab := by
  unfold State.slip; dsimp only; split <;> simp
@[simp] theorem State.slip_red (s : State) (b src : Nat) (items : List Nat) (i : Bool) : (s.slip b src items i).red = s.red := by
  unfold State.slip; dsimp only; split <;> simp
@[simp] theorem State.slip_com (s : State) (b src : Nat) (items : List Nat) (i : Bool) : (s.slip b src items i).com = s.com := by
  unfold State.slip; dsimp only; split <;> simp
@[simp] theorem State.slip_plan (s : State) (b src : Nat) (items : List Nat) (i : Bool) : (s.slip b src items i).plan = s.plan := by
  unfold State.slip; dsimp only; split <;> simp
@[simp] theorem State.slip_host (s : State) (b src : Nat) (items : List Nat) (i : Bool) : (s.slip b src items i).host = s.host := by
  unfold State.slip; dsimp only; split <;> simp
@[simp] theorem State.slip_sec (s : State) (b src : Nat) (items : List Nat) (i : Bool) : (s.slip b src items i).sec = s.sec := by
  unfold State.slip; dsimp only; split <;> simp
@[simp] theorem State.slip_env (s : State) (b src : Nat) (items : List Nat) (i : Bool) : (s.slip b src items i).env = s.env := by
  unfold State.slip; dsimp only; split <;> simp
@[simp] theorem State.slip_i3c (s : State) (b src : Nat) (items : List Nat) (i : Bool) : (s.slip b src items i).i3c = s.i3c := by
  unfold State.slip; dsimp only; split <;> simp
@[simp] theorem State.slip_totals (s : State) (b src : Nat) (items : List Nat) (i : Bool) : (s.slip b src items i).totals = s.totals := by
  unfold State.slip; dsimp only; split <;> simp
@[simp] theorem State.slip_pending (s : State) (b src : Nat) (items : List Nat) (i : Bool) : (s.slip b src items i).pending = s.pending := by
  unfold State.slip; dsimp only; split <;> simp
@[simp] theorem State.slip_freeCtr (s : State) (b src : Nat) (items : List Nat) (i : Bool) : (s.slip b src items i).freeCtr = s.freeCtr := by
  unfold State.slip; dsimp only; split <;> simp

/-! ### slipSecondary -/

@[simp] theorem State.slipSecondary_dev (s : State) (b src : Nat) (items : List Nat) (i : Bool) : (s.slipSecondary b src items i).dev = s.dev := by
  unfold State.slipSecondary; dsimp only; split <;> simp
@[simp] theorem State.slipSecondary_tide (s : State) (b src : Nat) (items : List Nat) (i : Bool) : (s.slipSecondary b src items i).tide = s.tide := by
  unfold State.slipSecondary; dsimp only; split <;> simp
@[simp] theorem State.slipSecondary_govW (s : State) (b src : Nat) (items : List Nat) (i : Bool) : (s.slipSecondary b src items i).govW = s.govW := by
  unfold State.slipSecondary; dsimp only; split <;> simp
@[simp] theorem State.slipSecondary_govE (s : State) (b src : Nat) (items : List Nat) (i : Bool) : (s.slipSecondary b src items i).govE = s.govE := by
  unfold State.slipSecondary; dsimp only; split <;> simp
@[simp] theorem State.slipSecondary_snap (s : State) (b src : Nat) (items : List Nat) (i : Bool) : (s.slipSecondary b src items i).snap = s.snap := by
  unfold State.slipSecondary; dsimp only; split <;> simp
@[simp] theorem State.slipSecondary_strands (s : State) (b src : Nat) (items : List Nat) (i : Bool) : (s.slipSecondary b src items i).strands = s.strands := by
  unfold State.slipSecondary; dsimp only; split <;> simp
@[simp] theorem State.slipSecondary_code (s : State) (b src : Nat) (items : List Nat) (i : Bool) : (s.slipSecondary b src items i).code = s.code := by
  unfold State.slipSecondary; dsimp only; split <;> simp
@[simp] theorem State.slipSecondary_marks (s : State) (b src : Nat) (items : List Nat) (i : Bool) : (s.slipSecondary b src items i).marks = s.marks := by
  unfold State.slipSecondary; dsimp only; split <;> simp
@[simp] theorem State.slipSecondary_signals (s : State) (b src : Nat) (items : List Nat) (i : Bool) : (s.slipSecondary b src items i).signals = s.signals := by
  unfold State.slipSecondary; dsimp only; split <;> simp
@[simp] theorem State.slipSecondary_lockx (s : State) (b src : Nat) (items : List Nat) (i : Bool) : (s.slipSecondary b src items i).lockx = s.lockx := by
  unfold State.slipSecondary; dsimp only; split <;> simp
@[simp] theorem State.slipSecondary_ops (s : State) (b src : Nat) (items : List Nat) (i : Bool) : (s.slipSecondary b src items i).ops = s.ops := by
  unfold State.slipSecondary; dsimp only; split <;> simp
@[simp] theorem State.slipSecondary_nextOp (s : State) (b src : Nat) (items : List Nat) (i : Bool) : (s.slipSecondary b src items i).nextOp = s.nextOp := by
  unfold State.slipSecondary; dsimp only; split <;> simp
@[simp] theorem State.slipSecondary_acc (s : State) (b src : Nat) (items : List Nat) (i : Bool) : (s.slipSecondary b src items i).acc = s.acc := by
  unfold State.slipSecondary; dsimp only; split <;> simp
@[simp] theorem State.slipSecondary_feed (s : State) (b src : Nat) (items : List Nat) (i : Bool) : (s.slipSecondary b src items i).feed = s.feed := by
  unfold State.slipSecondary; dsimp only; split <;> simp
@[simp] theorem State.slipSecondary_easelFree (s : State) (b src : Nat) (items : List Nat) (i : Bool) : (s.slipSecondary b src items i).easelFree = s.easelFree := by
  unfold State.slipSecondary; dsimp only; split <;> simp
@[simp] theorem State.slipSecondary_bankFree (s : State) (b src : Nat) (items : List Nat) (i : Bool) : (s.slipSecondary b src items i).bankFree = s.bankFree := by
  unfold State.slipSecondary; dsimp only; split <;> simp
@[simp] theorem State.slipSecondary_pipeFree (s : State) (b src : Nat) (items : List Nat) (i : Bool) : (s.slipSecondary b src items i).pipeFree = s.pipeFree := by
  unfold State.slipSecondary; dsimp only; split <;> simp
@[simp] theorem State.slipSecondary_varnishFree (s : State) (b src : Nat) (items : List Nat) (i : Bool) : (s.slipSecondary b src items i).varnishFree = s.varnishFree := by
  unfold State.slipSecondary; dsimp only; split <;> simp
@[simp] theorem State.slipSecondary_vectorFree (s : State) (b src : Nat) (items : List Nat) (i : Bool) : (s.slipSecondary b src items i).vectorFree = s.vectorFree := by
  unfold State.slipSecondary; dsimp only; split <;> simp
@[simp] theorem State.slipSecondary_mem (s : State) (b src : Nat) (items : List Nat) (i : Bool) : (s.slipSecondary b src items i).mem = s.mem := by
  unfold State.slipSecondary; dsimp only; split <;> simp
@[simp] theorem State.slipSecondary_poison (s : State) (b src : Nat) (items : List Nat) (i : Bool) : (s.slipSecondary b src items i).poison = s.poison := by
  unfold State.slipSecondary; dsimp only; split <;> simp
@[simp] theorem State.slipSecondary_onDie (s : State) (b src : Nat) (items : List Nat) (i : Bool) : (s.slipSecondary b src items i).onDie = s.onDie := by
  unfold State.slipSecondary; dsimp only; split <;> simp
@[simp] theorem State.slipSecondary_main (s : State) (b src : Nat) (items : List Nat) (i : Bool) : (s.slipSecondary b src items i).main = s.main := by
  unfold State.slipSecondary; dsimp only; split <;> simp
@[simp] theorem State.slipSecondary_manifests (s : State) (b src : Nat) (items : List Nat) (i : Bool) : (s.slipSecondary b src items i).manifests = s.manifests := by
  unfold State.slipSecondary; dsimp only; split <;> simp
@[simp] theorem State.slipSecondary_grids (s : State) (b src : Nat) (items : List Nat) (i : Bool) : (s.slipSecondary b src items i).grids = s.grids := by
  unfold State.slipSecondary; dsimp only; split <;> simp
@[simp] theorem State.slipSecondary_fab (s : State) (b src : Nat) (items : List Nat) (i : Bool) : (s.slipSecondary b src items i).fab = s.fab := by
  unfold State.slipSecondary; dsimp only; split <;> simp
@[simp] theorem State.slipSecondary_red (s : State) (b src : Nat) (items : List Nat) (i : Bool) : (s.slipSecondary b src items i).red = s.red := by
  unfold State.slipSecondary; dsimp only; split <;> simp
@[simp] theorem State.slipSecondary_com (s : State) (b src : Nat) (items : List Nat) (i : Bool) : (s.slipSecondary b src items i).com = s.com := by
  unfold State.slipSecondary; dsimp only; split <;> simp
@[simp] theorem State.slipSecondary_plan (s : State) (b src : Nat) (items : List Nat) (i : Bool) : (s.slipSecondary b src items i).plan = s.plan := by
  unfold State.slipSecondary; dsimp only; split <;> simp
@[simp] theorem State.slipSecondary_host (s : State) (b src : Nat) (items : List Nat) (i : Bool) : (s.slipSecondary b src items i).host = s.host := by
  unfold State.slipSecondary; dsimp only; split <;> simp
@[simp] theorem State.slipSecondary_sec (s : State) (b src : Nat) (items : List Nat) (i : Bool) : (s.slipSecondary b src items i).sec = s.sec := by
  unfold State.slipSecondary; dsimp only; split <;> simp
@[simp] theorem State.slipSecondary_env (s : State) (b src : Nat) (items : List Nat) (i : Bool) : (s.slipSecondary b src items i).env = s.env := by
  unfold State.slipSecondary; dsimp only; split <;> simp
@[simp] theorem State.slipSecondary_i3c (s : State) (b src : Nat) (items : List Nat) (i : Bool) : (s.slipSecondary b src items i).i3c = s.i3c := by
  unfold State.slipSecondary; dsimp only; split <;> simp
@[simp] theorem State.slipSecondary_totals (s : State) (b src : Nat) (items : List Nat) (i : Bool) : (s.slipSecondary b src items i).totals = s.totals := by
  unfold State.slipSecondary; dsimp only; split <;> simp
@[simp] theorem State.slipSecondary_pending (s : State) (b src : Nat) (items : List Nat) (i : Bool) : (s.slipSecondary b src items i).pending = s.pending := by
  unfold State.slipSecondary; dsimp only; split <;> simp
@[simp] theorem State.slipSecondary_freeCtr (s : State) (b src : Nat) (items : List Nat) (i : Bool) : (s.slipSecondary b src items i).freeCtr = s.freeCtr := by
  unfold State.slipSecondary; dsimp only; split <;> simp

/-! ### strandFault -/

@[simp] theorem State.strandFault_dev (s : State) (k pc c : Nat) (items : List Nat) : (s.strandFault k pc c items).dev = s.dev := by
  unfold State.strandFault; dsimp only; repeat' split
  all_goals simp
@[simp] theorem State.strandFault_tide (s : State) (k pc c : Nat) (items : List Nat) : (s.strandFault k pc c items).tide = s.tide := by
  unfold State.strandFault; dsimp only; repeat' split
  all_goals simp
@[simp] theorem State.strandFault_govW (s : State) (k pc c : Nat) (items : List Nat) : (s.strandFault k pc c items).govW = s.govW := by
  unfold State.strandFault; dsimp only; repeat' split
  all_goals simp
@[simp] theorem State.strandFault_govE (s : State) (k pc c : Nat) (items : List Nat) : (s.strandFault k pc c items).govE = s.govE := by
  unfold State.strandFault; dsimp only; repeat' split
  all_goals simp
@[simp] theorem State.strandFault_snap (s : State) (k pc c : Nat) (items : List Nat) : (s.strandFault k pc c items).snap = s.snap := by
  unfold State.strandFault; dsimp only; repeat' split
  all_goals simp
@[simp] theorem State.strandFault_code (s : State) (k pc c : Nat) (items : List Nat) : (s.strandFault k pc c items).code = s.code := by
  unfold State.strandFault; dsimp only; repeat' split
  all_goals simp
@[simp] theorem State.strandFault_marks (s : State) (k pc c : Nat) (items : List Nat) : (s.strandFault k pc c items).marks = s.marks := by
  unfold State.strandFault; dsimp only; repeat' split
  all_goals simp
@[simp] theorem State.strandFault_signals (s : State) (k pc c : Nat) (items : List Nat) : (s.strandFault k pc c items).signals = s.signals := by
  unfold State.strandFault; dsimp only; repeat' split
  all_goals simp
@[simp] theorem State.strandFault_lockx (s : State) (k pc c : Nat) (items : List Nat) : (s.strandFault k pc c items).lockx = s.lockx := by
  unfold State.strandFault; dsimp only; repeat' split
  all_goals simp
@[simp] theorem State.strandFault_ops (s : State) (k pc c : Nat) (items : List Nat) : (s.strandFault k pc c items).ops = s.ops := by
  unfold State.strandFault; dsimp only; repeat' split
  all_goals simp
@[simp] theorem State.strandFault_nextOp (s : State) (k pc c : Nat) (items : List Nat) : (s.strandFault k pc c items).nextOp = s.nextOp := by
  unfold State.strandFault; dsimp only; repeat' split
  all_goals simp
@[simp] theorem State.strandFault_acc (s : State) (k pc c : Nat) (items : List Nat) : (s.strandFault k pc c items).acc = s.acc := by
  unfold State.strandFault; dsimp only; repeat' split
  all_goals simp
@[simp] theorem State.strandFault_feed (s : State) (k pc c : Nat) (items : List Nat) : (s.strandFault k pc c items).feed = s.feed := by
  unfold State.strandFault; dsimp only; repeat' split
  all_goals simp
@[simp] theorem State.strandFault_easelFree (s : State) (k pc c : Nat) (items : List Nat) : (s.strandFault k pc c items).easelFree = s.easelFree := by
  unfold State.strandFault; dsimp only; repeat' split
  all_goals simp
@[simp] theorem State.strandFault_bankFree (s : State) (k pc c : Nat) (items : List Nat) : (s.strandFault k pc c items).bankFree = s.bankFree := by
  unfold State.strandFault; dsimp only; repeat' split
  all_goals simp
@[simp] theorem State.strandFault_pipeFree (s : State) (k pc c : Nat) (items : List Nat) : (s.strandFault k pc c items).pipeFree = s.pipeFree := by
  unfold State.strandFault; dsimp only; repeat' split
  all_goals simp
@[simp] theorem State.strandFault_varnishFree (s : State) (k pc c : Nat) (items : List Nat) : (s.strandFault k pc c items).varnishFree = s.varnishFree := by
  unfold State.strandFault; dsimp only; repeat' split
  all_goals simp
@[simp] theorem State.strandFault_vectorFree (s : State) (k pc c : Nat) (items : List Nat) : (s.strandFault k pc c items).vectorFree = s.vectorFree := by
  unfold State.strandFault; dsimp only; repeat' split
  all_goals simp
@[simp] theorem State.strandFault_mem (s : State) (k pc c : Nat) (items : List Nat) : (s.strandFault k pc c items).mem = s.mem := by
  unfold State.strandFault; dsimp only; repeat' split
  all_goals simp
@[simp] theorem State.strandFault_poison (s : State) (k pc c : Nat) (items : List Nat) : (s.strandFault k pc c items).poison = s.poison := by
  unfold State.strandFault; dsimp only; repeat' split
  all_goals simp
@[simp] theorem State.strandFault_onDie (s : State) (k pc c : Nat) (items : List Nat) : (s.strandFault k pc c items).onDie = s.onDie := by
  unfold State.strandFault; dsimp only; repeat' split
  all_goals simp
@[simp] theorem State.strandFault_main (s : State) (k pc c : Nat) (items : List Nat) : (s.strandFault k pc c items).main = s.main := by
  unfold State.strandFault; dsimp only; repeat' split
  all_goals simp
@[simp] theorem State.strandFault_manifests (s : State) (k pc c : Nat) (items : List Nat) : (s.strandFault k pc c items).manifests = s.manifests := by
  unfold State.strandFault; dsimp only; repeat' split
  all_goals simp
@[simp] theorem State.strandFault_grids (s : State) (k pc c : Nat) (items : List Nat) : (s.strandFault k pc c items).grids = s.grids := by
  unfold State.strandFault; dsimp only; repeat' split
  all_goals simp
@[simp] theorem State.strandFault_fab (s : State) (k pc c : Nat) (items : List Nat) : (s.strandFault k pc c items).fab = s.fab := by
  unfold State.strandFault; dsimp only; repeat' split
  all_goals simp
@[simp] theorem State.strandFault_red (s : State) (k pc c : Nat) (items : List Nat) : (s.strandFault k pc c items).red = s.red := by
  unfold State.strandFault; dsimp only; repeat' split
  all_goals simp
@[simp] theorem State.strandFault_com (s : State) (k pc c : Nat) (items : List Nat) : (s.strandFault k pc c items).com = s.com := by
  unfold State.strandFault; dsimp only; repeat' split
  all_goals simp
@[simp] theorem State.strandFault_plan (s : State) (k pc c : Nat) (items : List Nat) : (s.strandFault k pc c items).plan = s.plan := by
  unfold State.strandFault; dsimp only; repeat' split
  all_goals simp
@[simp] theorem State.strandFault_host (s : State) (k pc c : Nat) (items : List Nat) : (s.strandFault k pc c items).host = s.host := by
  unfold State.strandFault; dsimp only; repeat' split
  all_goals simp
@[simp] theorem State.strandFault_sec (s : State) (k pc c : Nat) (items : List Nat) : (s.strandFault k pc c items).sec = s.sec := by
  unfold State.strandFault; dsimp only; repeat' split
  all_goals simp
@[simp] theorem State.strandFault_env (s : State) (k pc c : Nat) (items : List Nat) : (s.strandFault k pc c items).env = s.env := by
  unfold State.strandFault; dsimp only; repeat' split
  all_goals simp
@[simp] theorem State.strandFault_i3c (s : State) (k pc c : Nat) (items : List Nat) : (s.strandFault k pc c items).i3c = s.i3c := by
  unfold State.strandFault; dsimp only; repeat' split
  all_goals simp
@[simp] theorem State.strandFault_totals (s : State) (k pc c : Nat) (items : List Nat) : (s.strandFault k pc c items).totals = s.totals := by
  unfold State.strandFault; dsimp only; repeat' split
  all_goals simp
@[simp] theorem State.strandFault_pending (s : State) (k pc c : Nat) (items : List Nat) : (s.strandFault k pc c items).pending = s.pending := by
  unfold State.strandFault; dsimp only; repeat' split
  all_goals simp
@[simp] theorem State.strandFault_freeCtr (s : State) (k pc c : Nat) (items : List Nat) : (s.strandFault k pc c items).freeCtr = s.freeCtr := by
  unfold State.strandFault; dsimp only; repeat' split
  all_goals simp

/-! ### armLate -/

@[simp] theorem State.armLate_dev (s : State) (k sc : Nat) : (s.armLate k sc).dev = s.dev := by
  unfold State.armLate; split <;> simp
@[simp] theorem State.armLate_tide (s : State) (k sc : Nat) : (s.armLate k sc).tide = s.tide := by
  unfold State.armLate; split <;> simp
@[simp] theorem State.armLate_govW (s : State) (k sc : Nat) : (s.armLate k sc).govW = s.govW := by
  unfold State.armLate; split <;> simp
@[simp] theorem State.armLate_govE (s : State) (k sc : Nat) : (s.armLate k sc).govE = s.govE := by
  unfold State.armLate; split <;> simp
@[simp] theorem State.armLate_regs (s : State) (k sc : Nat) : (s.armLate k sc).regs = s.regs := by
  unfold State.armLate; split <;> simp
@[simp] theorem State.armLate_fresh (s : State) (k sc : Nat) : (s.armLate k sc).fresh = s.fresh := by
  unfold State.armLate; split <;> simp
@[simp] theorem State.armLate_snap (s : State) (k sc : Nat) : (s.armLate k sc).snap = s.snap := by
  unfold State.armLate; split <;> simp
@[simp] theorem State.armLate_strands (s : State) (k sc : Nat) : (s.armLate k sc).strands = s.strands := by
  unfold State.armLate; split <;> simp
@[simp] theorem State.armLate_code (s : State) (k sc : Nat) : (s.armLate k sc).code = s.code := by
  unfold State.armLate; split <;> simp
@[simp] theorem State.armLate_marks (s : State) (k sc : Nat) : (s.armLate k sc).marks = s.marks := by
  unfold State.armLate; split <;> simp
@[simp] theorem State.armLate_signals (s : State) (k sc : Nat) : (s.armLate k sc).signals = s.signals := by
  unfold State.armLate; split <;> simp
@[simp] theorem State.armLate_lockx (s : State) (k sc : Nat) : (s.armLate k sc).lockx = s.lockx := by
  unfold State.armLate; split <;> simp
@[simp] theorem State.armLate_ops (s : State) (k sc : Nat) : (s.armLate k sc).ops = s.ops := by
  unfold State.armLate; split <;> simp
@[simp] theorem State.armLate_nextOp (s : State) (k sc : Nat) : (s.armLate k sc).nextOp = s.nextOp := by
  unfold State.armLate; split <;> simp
@[simp] theorem State.armLate_acc (s : State) (k sc : Nat) : (s.armLate k sc).acc = s.acc := by
  unfold State.armLate; split <;> simp
@[simp] theorem State.armLate_feed (s : State) (k sc : Nat) : (s.armLate k sc).feed = s.feed := by
  unfold State.armLate; split <;> simp
@[simp] theorem State.armLate_easelFree (s : State) (k sc : Nat) : (s.armLate k sc).easelFree = s.easelFree := by
  unfold State.armLate; split <;> simp
@[simp] theorem State.armLate_bankFree (s : State) (k sc : Nat) : (s.armLate k sc).bankFree = s.bankFree := by
  unfold State.armLate; split <;> simp
@[simp] theorem State.armLate_pipeFree (s : State) (k sc : Nat) : (s.armLate k sc).pipeFree = s.pipeFree := by
  unfold State.armLate; split <;> simp
@[simp] theorem State.armLate_varnishFree (s : State) (k sc : Nat) : (s.armLate k sc).varnishFree = s.varnishFree := by
  unfold State.armLate; split <;> simp
@[simp] theorem State.armLate_vectorFree (s : State) (k sc : Nat) : (s.armLate k sc).vectorFree = s.vectorFree := by
  unfold State.armLate; split <;> simp
@[simp] theorem State.armLate_mem (s : State) (k sc : Nat) : (s.armLate k sc).mem = s.mem := by
  unfold State.armLate; split <;> simp
@[simp] theorem State.armLate_poison (s : State) (k sc : Nat) : (s.armLate k sc).poison = s.poison := by
  unfold State.armLate; split <;> simp
@[simp] theorem State.armLate_onDie (s : State) (k sc : Nat) : (s.armLate k sc).onDie = s.onDie := by
  unfold State.armLate; split <;> simp
@[simp] theorem State.armLate_main (s : State) (k sc : Nat) : (s.armLate k sc).main = s.main := by
  unfold State.armLate; split <;> simp
@[simp] theorem State.armLate_manifests (s : State) (k sc : Nat) : (s.armLate k sc).manifests = s.manifests := by
  unfold State.armLate; split <;> simp
@[simp] theorem State.armLate_grids (s : State) (k sc : Nat) : (s.armLate k sc).grids = s.grids := by
  unfold State.armLate; split <;> simp
@[simp] theorem State.armLate_fab (s : State) (k sc : Nat) : (s.armLate k sc).fab = s.fab := by
  unfold State.armLate; split <;> simp
@[simp] theorem State.armLate_red (s : State) (k sc : Nat) : (s.armLate k sc).red = s.red := by
  unfold State.armLate; split <;> simp
@[simp] theorem State.armLate_com (s : State) (k sc : Nat) : (s.armLate k sc).com = s.com := by
  unfold State.armLate; split <;> simp
@[simp] theorem State.armLate_plan (s : State) (k sc : Nat) : (s.armLate k sc).plan = s.plan := by
  unfold State.armLate; split <;> simp
@[simp] theorem State.armLate_host (s : State) (k sc : Nat) : (s.armLate k sc).host = s.host := by
  unfold State.armLate; split <;> simp
@[simp] theorem State.armLate_sec (s : State) (k sc : Nat) : (s.armLate k sc).sec = s.sec := by
  unfold State.armLate; split <;> simp
@[simp] theorem State.armLate_env (s : State) (k sc : Nat) : (s.armLate k sc).env = s.env := by
  unfold State.armLate; split <;> simp
@[simp] theorem State.armLate_i3c (s : State) (k sc : Nat) : (s.armLate k sc).i3c = s.i3c := by
  unfold State.armLate; split <;> simp
@[simp] theorem State.armLate_totals (s : State) (k sc : Nat) : (s.armLate k sc).totals = s.totals := by
  unfold State.armLate; split <;> simp
@[simp] theorem State.armLate_pending (s : State) (k sc : Nat) : (s.armLate k sc).pending = s.pending := by
  unfold State.armLate; split <;> simp
@[simp] theorem State.armLate_freeCtr (s : State) (k sc : Nat) : (s.armLate k sc).freeCtr = s.freeCtr := by
  unfold State.armLate; split <;> simp

/-! ### waitHere -/

@[simp] theorem State.waitHere_dev (s : State) (k sc : Nat) : ((s.waitHere k sc).s).dev = s.dev := by
  unfold State.waitHere State.waitUntil; dsimp only; repeat' split
  all_goals simp
@[simp] theorem State.waitHere_tide (s : State) (k sc : Nat) : ((s.waitHere k sc).s).tide = s.tide := by
  unfold State.waitHere State.waitUntil; dsimp only; repeat' split
  all_goals simp
@[simp] theorem State.waitHere_govW (s : State) (k sc : Nat) : ((s.waitHere k sc).s).govW = s.govW := by
  unfold State.waitHere State.waitUntil; dsimp only; repeat' split
  all_goals simp
@[simp] theorem State.waitHere_govE (s : State) (k sc : Nat) : ((s.waitHere k sc).s).govE = s.govE := by
  unfold State.waitHere State.waitUntil; dsimp only; repeat' split
  all_goals simp
@[simp] theorem State.waitHere_regs (s : State) (k sc : Nat) : ((s.waitHere k sc).s).regs = s.regs := by
  unfold State.waitHere State.waitUntil; dsimp only; repeat' split
  all_goals simp
@[simp] theorem State.waitHere_fresh (s : State) (k sc : Nat) : ((s.waitHere k sc).s).fresh = s.fresh := by
  unfold State.waitHere State.waitUntil; dsimp only; repeat' split
  all_goals simp
@[simp] theorem State.waitHere_snap (s : State) (k sc : Nat) : ((s.waitHere k sc).s).snap = s.snap := by
  unfold State.waitHere State.waitUntil; dsimp only; repeat' split
  all_goals simp
@[simp] theorem State.waitHere_code (s : State) (k sc : Nat) : ((s.waitHere k sc).s).code = s.code := by
  unfold State.waitHere State.waitUntil; dsimp only; repeat' split
  all_goals simp
@[simp] theorem State.waitHere_marks (s : State) (k sc : Nat) : ((s.waitHere k sc).s).marks = s.marks := by
  unfold State.waitHere State.waitUntil; dsimp only; repeat' split
  all_goals simp
@[simp] theorem State.waitHere_signals (s : State) (k sc : Nat) : ((s.waitHere k sc).s).signals = s.signals := by
  unfold State.waitHere State.waitUntil; dsimp only; repeat' split
  all_goals simp
@[simp] theorem State.waitHere_lockx (s : State) (k sc : Nat) : ((s.waitHere k sc).s).lockx = s.lockx := by
  unfold State.waitHere State.waitUntil; dsimp only; repeat' split
  all_goals simp
@[simp] theorem State.waitHere_ops (s : State) (k sc : Nat) : ((s.waitHere k sc).s).ops = s.ops := by
  unfold State.waitHere State.waitUntil; dsimp only; repeat' split
  all_goals simp
@[simp] theorem State.waitHere_nextOp (s : State) (k sc : Nat) : ((s.waitHere k sc).s).nextOp = s.nextOp := by
  unfold State.waitHere State.waitUntil; dsimp only; repeat' split
  all_goals simp
@[simp] theorem State.waitHere_acc (s : State) (k sc : Nat) : ((s.waitHere k sc).s).acc = s.acc := by
  unfold State.waitHere State.waitUntil; dsimp only; repeat' split
  all_goals simp
@[simp] theorem State.waitHere_feed (s : State) (k sc : Nat) : ((s.waitHere k sc).s).feed = s.feed := by
  unfold State.waitHere State.waitUntil; dsimp only; repeat' split
  all_goals simp
@[simp] theorem State.waitHere_easelFree (s : State) (k sc : Nat) : ((s.waitHere k sc).s).easelFree = s.easelFree := by
  unfold State.waitHere State.waitUntil; dsimp only; repeat' split
  all_goals simp
@[simp] theorem State.waitHere_bankFree (s : State) (k sc : Nat) : ((s.waitHere k sc).s).bankFree = s.bankFree := by
  unfold State.waitHere State.waitUntil; dsimp only; repeat' split
  all_goals simp
@[simp] theorem State.waitHere_pipeFree (s : State) (k sc : Nat) : ((s.waitHere k sc).s).pipeFree = s.pipeFree := by
  unfold State.waitHere State.waitUntil; dsimp only; repeat' split
  all_goals simp
@[simp] theorem State.waitHere_varnishFree (s : State) (k sc : Nat) : ((s.waitHere k sc).s).varnishFree = s.varnishFree := by
  unfold State.waitHere State.waitUntil; dsimp only; repeat' split
  all_goals simp
@[simp] theorem State.waitHere_vectorFree (s : State) (k sc : Nat) : ((s.waitHere k sc).s).vectorFree = s.vectorFree := by
  unfold State.waitHere State.waitUntil; dsimp only; repeat' split
  all_goals simp
@[simp] theorem State.waitHere_mem (s : State) (k sc : Nat) : ((s.waitHere k sc).s).mem = s.mem := by
  unfold State.waitHere State.waitUntil; dsimp only; repeat' split
  all_goals simp
@[simp] theorem State.waitHere_poison (s : State) (k sc : Nat) : ((s.waitHere k sc).s).poison = s.poison := by
  unfold State.waitHere State.waitUntil; dsimp only; repeat' split
  all_goals simp
@[simp] theorem State.waitHere_onDie (s : State) (k sc : Nat) : ((s.waitHere k sc).s).onDie = s.onDie := by
  unfold State.waitHere State.waitUntil; dsimp only; repeat' split
  all_goals simp
@[simp] theorem State.waitHere_main (s : State) (k sc : Nat) : ((s.waitHere k sc).s).main = s.main := by
  unfold State.waitHere State.waitUntil; dsimp only; repeat' split
  all_goals simp
@[simp] theorem State.waitHere_manifests (s : State) (k sc : Nat) : ((s.waitHere k sc).s).manifests = s.manifests := by
  unfold State.waitHere State.waitUntil; dsimp only; repeat' split
  all_goals simp
@[simp] theorem State.waitHere_grids (s : State) (k sc : Nat) : ((s.waitHere k sc).s).grids = s.grids := by
  unfold State.waitHere State.waitUntil; dsimp only; repeat' split
  all_goals simp
@[simp] theorem State.waitHere_fab (s : State) (k sc : Nat) : ((s.waitHere k sc).s).fab = s.fab := by
  unfold State.waitHere State.waitUntil; dsimp only; repeat' split
  all_goals simp
@[simp] theorem State.waitHere_red (s : State) (k sc : Nat) : ((s.waitHere k sc).s).red = s.red := by
  unfold State.waitHere State.waitUntil; dsimp only; repeat' split
  all_goals simp
@[simp] theorem State.waitHere_com (s : State) (k sc : Nat) : ((s.waitHere k sc).s).com = s.com := by
  unfold State.waitHere State.waitUntil; dsimp only; repeat' split
  all_goals simp
@[simp] theorem State.waitHere_plan (s : State) (k sc : Nat) : ((s.waitHere k sc).s).plan = s.plan := by
  unfold State.waitHere State.waitUntil; dsimp only; repeat' split
  all_goals simp
@[simp] theorem State.waitHere_host (s : State) (k sc : Nat) : ((s.waitHere k sc).s).host = s.host := by
  unfold State.waitHere State.waitUntil; dsimp only; repeat' split
  all_goals simp
@[simp] theorem State.waitHere_sec (s : State) (k sc : Nat) : ((s.waitHere k sc).s).sec = s.sec := by
  unfold State.waitHere State.waitUntil; dsimp only; repeat' split
  all_goals simp
@[simp] theorem State.waitHere_env (s : State) (k sc : Nat) : ((s.waitHere k sc).s).env = s.env := by
  unfold State.waitHere State.waitUntil; dsimp only; repeat' split
  all_goals simp
@[simp] theorem State.waitHere_i3c (s : State) (k sc : Nat) : ((s.waitHere k sc).s).i3c = s.i3c := by
  unfold State.waitHere State.waitUntil; dsimp only; repeat' split
  all_goals simp
@[simp] theorem State.waitHere_totals (s : State) (k sc : Nat) : ((s.waitHere k sc).s).totals = s.totals := by
  unfold State.waitHere State.waitUntil; dsimp only; repeat' split
  all_goals simp
@[simp] theorem State.waitHere_pending (s : State) (k sc : Nat) : ((s.waitHere k sc).s).pending = s.pending := by
  unfold State.waitHere State.waitUntil; dsimp only; repeat' split
  all_goals simp
@[simp] theorem State.waitHere_freeCtr (s : State) (k sc : Nat) : ((s.waitHere k sc).s).freeCtr = s.freeCtr := by
  unfold State.waitHere State.waitUntil; dsimp only; repeat' split
  all_goals simp

/-! ### noopIssue -/

@[simp] theorem State.noopIssue_dev (s : State) (k n : Nat) : ((s.noopIssue k n).s).dev = s.dev := by
  simp [State.noopIssue, State.endGroup]
@[simp] theorem State.noopIssue_tide (s : State) (k n : Nat) : ((s.noopIssue k n).s).tide = s.tide := by
  simp [State.noopIssue, State.endGroup]
@[simp] theorem State.noopIssue_govW (s : State) (k n : Nat) : ((s.noopIssue k n).s).govW = s.govW := by
  simp [State.noopIssue, State.endGroup]
@[simp] theorem State.noopIssue_govE (s : State) (k n : Nat) : ((s.noopIssue k n).s).govE = s.govE := by
  simp [State.noopIssue, State.endGroup]
@[simp] theorem State.noopIssue_run (s : State) (k n : Nat) : ((s.noopIssue k n).s).run = s.run := by
  simp [State.noopIssue, State.endGroup]
@[simp] theorem State.noopIssue_snap (s : State) (k n : Nat) : ((s.noopIssue k n).s).snap = s.snap := by
  simp [State.noopIssue, State.endGroup]
@[simp] theorem State.noopIssue_code (s : State) (k n : Nat) : ((s.noopIssue k n).s).code = s.code := by
  simp [State.noopIssue, State.endGroup]
@[simp] theorem State.noopIssue_marks (s : State) (k n : Nat) : ((s.noopIssue k n).s).marks = s.marks := by
  simp [State.noopIssue, State.endGroup]
@[simp] theorem State.noopIssue_signals (s : State) (k n : Nat) : ((s.noopIssue k n).s).signals = s.signals := by
  simp [State.noopIssue, State.endGroup]
@[simp] theorem State.noopIssue_lockx (s : State) (k n : Nat) : ((s.noopIssue k n).s).lockx = s.lockx := by
  simp [State.noopIssue, State.endGroup]
@[simp] theorem State.noopIssue_ops (s : State) (k n : Nat) : ((s.noopIssue k n).s).ops = s.ops := by
  simp [State.noopIssue, State.endGroup]
@[simp] theorem State.noopIssue_nextOp (s : State) (k n : Nat) : ((s.noopIssue k n).s).nextOp = s.nextOp := by
  simp [State.noopIssue, State.endGroup]
@[simp] theorem State.noopIssue_acc (s : State) (k n : Nat) : ((s.noopIssue k n).s).acc = s.acc := by
  simp [State.noopIssue, State.endGroup]
@[simp] theorem State.noopIssue_feed (s : State) (k n : Nat) : ((s.noopIssue k n).s).feed = s.feed := by
  simp [State.noopIssue, State.endGroup]
@[simp] theorem State.noopIssue_easelFree (s : State) (k n : Nat) : ((s.noopIssue k n).s).easelFree = s.easelFree := by
  simp [State.noopIssue, State.endGroup]
@[simp] theorem State.noopIssue_bankFree (s : State) (k n : Nat) : ((s.noopIssue k n).s).bankFree = s.bankFree := by
  simp [State.noopIssue, State.endGroup]
@[simp] theorem State.noopIssue_pipeFree (s : State) (k n : Nat) : ((s.noopIssue k n).s).pipeFree = s.pipeFree := by
  simp [State.noopIssue, State.endGroup]
@[simp] theorem State.noopIssue_varnishFree (s : State) (k n : Nat) : ((s.noopIssue k n).s).varnishFree = s.varnishFree := by
  simp [State.noopIssue, State.endGroup]
@[simp] theorem State.noopIssue_vectorFree (s : State) (k n : Nat) : ((s.noopIssue k n).s).vectorFree = s.vectorFree := by
  simp [State.noopIssue, State.endGroup]
@[simp] theorem State.noopIssue_mem (s : State) (k n : Nat) : ((s.noopIssue k n).s).mem = s.mem := by
  simp [State.noopIssue, State.endGroup]
@[simp] theorem State.noopIssue_poison (s : State) (k n : Nat) : ((s.noopIssue k n).s).poison = s.poison := by
  simp [State.noopIssue, State.endGroup]
@[simp] theorem State.noopIssue_onDie (s : State) (k n : Nat) : ((s.noopIssue k n).s).onDie = s.onDie := by
  simp [State.noopIssue, State.endGroup]
@[simp] theorem State.noopIssue_main (s : State) (k n : Nat) : ((s.noopIssue k n).s).main = s.main := by
  simp [State.noopIssue, State.endGroup]
@[simp] theorem State.noopIssue_manifests (s : State) (k n : Nat) : ((s.noopIssue k n).s).manifests = s.manifests := by
  simp [State.noopIssue, State.endGroup]
@[simp] theorem State.noopIssue_grids (s : State) (k n : Nat) : ((s.noopIssue k n).s).grids = s.grids := by
  simp [State.noopIssue, State.endGroup]
@[simp] theorem State.noopIssue_fab (s : State) (k n : Nat) : ((s.noopIssue k n).s).fab = s.fab := by
  simp [State.noopIssue, State.endGroup]
@[simp] theorem State.noopIssue_red (s : State) (k n : Nat) : ((s.noopIssue k n).s).red = s.red := by
  simp [State.noopIssue, State.endGroup]
@[simp] theorem State.noopIssue_com (s : State) (k n : Nat) : ((s.noopIssue k n).s).com = s.com := by
  simp [State.noopIssue, State.endGroup]
@[simp] theorem State.noopIssue_plan (s : State) (k n : Nat) : ((s.noopIssue k n).s).plan = s.plan := by
  simp [State.noopIssue, State.endGroup]
@[simp] theorem State.noopIssue_log (s : State) (k n : Nat) : ((s.noopIssue k n).s).log = s.log := by
  simp [State.noopIssue, State.endGroup]
@[simp] theorem State.noopIssue_host (s : State) (k n : Nat) : ((s.noopIssue k n).s).host = s.host := by
  simp [State.noopIssue, State.endGroup]
@[simp] theorem State.noopIssue_sec (s : State) (k n : Nat) : ((s.noopIssue k n).s).sec = s.sec := by
  simp [State.noopIssue, State.endGroup]
@[simp] theorem State.noopIssue_env (s : State) (k n : Nat) : ((s.noopIssue k n).s).env = s.env := by
  simp [State.noopIssue, State.endGroup]
@[simp] theorem State.noopIssue_i3c (s : State) (k n : Nat) : ((s.noopIssue k n).s).i3c = s.i3c := by
  simp [State.noopIssue, State.endGroup]
@[simp] theorem State.noopIssue_totals (s : State) (k n : Nat) : ((s.noopIssue k n).s).totals = s.totals := by
  simp [State.noopIssue, State.endGroup]
@[simp] theorem State.noopIssue_pending (s : State) (k n : Nat) : ((s.noopIssue k n).s).pending = s.pending := by
  simp [State.noopIssue, State.endGroup]
@[simp] theorem State.noopIssue_freeCtr (s : State) (k n : Nat) : ((s.noopIssue k n).s).freeCtr = s.freeCtr := by
  simp [State.noopIssue, State.endGroup]

/-! ### book -/

@[simp] theorem State.book_dev (s : State) (i c x : Nat) (e : Engine) (b p : Nat) (rs : List (Nat × Nat)) (fs : List (BankPlace × Nat)) (es : List Effect) : (s.book i c x e b p rs fs es).dev = s.dev := by
  rfl
@[simp] theorem State.book_tide (s : State) (i c x : Nat) (e : Engine) (b p : Nat) (rs : List (Nat × Nat)) (fs : List (BankPlace × Nat)) (es : List Effect) : (s.book i c x e b p rs fs es).tide = s.tide := by
  rfl
@[simp] theorem State.book_govW (s : State) (i c x : Nat) (e : Engine) (b p : Nat) (rs : List (Nat × Nat)) (fs : List (BankPlace × Nat)) (es : List Effect) : (s.book i c x e b p rs fs es).govW = s.govW := by
  rfl
@[simp] theorem State.book_govE (s : State) (i c x : Nat) (e : Engine) (b p : Nat) (rs : List (Nat × Nat)) (fs : List (BankPlace × Nat)) (es : List Effect) : (s.book i c x e b p rs fs es).govE = s.govE := by
  rfl
@[simp] theorem State.book_run (s : State) (i c x : Nat) (e : Engine) (b p : Nat) (rs : List (Nat × Nat)) (fs : List (BankPlace × Nat)) (es : List Effect) : (s.book i c x e b p rs fs es).run = s.run := by
  rfl
@[simp] theorem State.book_regs (s : State) (i c x : Nat) (e : Engine) (b p : Nat) (rs : List (Nat × Nat)) (fs : List (BankPlace × Nat)) (es : List Effect) : (s.book i c x e b p rs fs es).regs = s.regs := by
  rfl
@[simp] theorem State.book_fresh (s : State) (i c x : Nat) (e : Engine) (b p : Nat) (rs : List (Nat × Nat)) (fs : List (BankPlace × Nat)) (es : List Effect) : (s.book i c x e b p rs fs es).fresh = s.fresh := by
  rfl
@[simp] theorem State.book_snap (s : State) (i c x : Nat) (e : Engine) (b p : Nat) (rs : List (Nat × Nat)) (fs : List (BankPlace × Nat)) (es : List Effect) : (s.book i c x e b p rs fs es).snap = s.snap := by
  rfl
@[simp] theorem State.book_strands (s : State) (i c x : Nat) (e : Engine) (b p : Nat) (rs : List (Nat × Nat)) (fs : List (BankPlace × Nat)) (es : List Effect) : (s.book i c x e b p rs fs es).strands = s.strands := by
  rfl
@[simp] theorem State.book_code (s : State) (i c x : Nat) (e : Engine) (b p : Nat) (rs : List (Nat × Nat)) (fs : List (BankPlace × Nat)) (es : List Effect) : (s.book i c x e b p rs fs es).code = s.code := by
  rfl
@[simp] theorem State.book_marks (s : State) (i c x : Nat) (e : Engine) (b p : Nat) (rs : List (Nat × Nat)) (fs : List (BankPlace × Nat)) (es : List Effect) : (s.book i c x e b p rs fs es).marks = s.marks := by
  rfl
@[simp] theorem State.book_signals (s : State) (i c x : Nat) (e : Engine) (b p : Nat) (rs : List (Nat × Nat)) (fs : List (BankPlace × Nat)) (es : List Effect) : (s.book i c x e b p rs fs es).signals = s.signals := by
  rfl
@[simp] theorem State.book_lockx (s : State) (i c x : Nat) (e : Engine) (b p : Nat) (rs : List (Nat × Nat)) (fs : List (BankPlace × Nat)) (es : List Effect) : (s.book i c x e b p rs fs es).lockx = s.lockx := by
  rfl
@[simp] theorem State.book_ops (s : State) (i c x : Nat) (e : Engine) (b p : Nat) (rs : List (Nat × Nat)) (fs : List (BankPlace × Nat)) (es : List Effect) : (s.book i c x e b p rs fs es).ops = s.ops := by
  rfl
@[simp] theorem State.book_nextOp (s : State) (i c x : Nat) (e : Engine) (b p : Nat) (rs : List (Nat × Nat)) (fs : List (BankPlace × Nat)) (es : List Effect) : (s.book i c x e b p rs fs es).nextOp = s.nextOp := by
  rfl
@[simp] theorem State.book_acc (s : State) (i c x : Nat) (e : Engine) (b p : Nat) (rs : List (Nat × Nat)) (fs : List (BankPlace × Nat)) (es : List Effect) : (s.book i c x e b p rs fs es).acc = s.acc := by
  rfl
@[simp] theorem State.book_feed (s : State) (i c x : Nat) (e : Engine) (b p : Nat) (rs : List (Nat × Nat)) (fs : List (BankPlace × Nat)) (es : List Effect) : (s.book i c x e b p rs fs es).feed = s.feed := by
  rfl
@[simp] theorem State.book_easelFree (s : State) (i c x : Nat) (e : Engine) (b p : Nat) (rs : List (Nat × Nat)) (fs : List (BankPlace × Nat)) (es : List Effect) : (s.book i c x e b p rs fs es).easelFree = s.easelFree := by
  rfl
@[simp] theorem State.book_bankFree (s : State) (i c x : Nat) (e : Engine) (b p : Nat) (rs : List (Nat × Nat)) (fs : List (BankPlace × Nat)) (es : List Effect) : (s.book i c x e b p rs fs es).bankFree = s.bankFree := by
  rfl
@[simp] theorem State.book_pipeFree (s : State) (i c x : Nat) (e : Engine) (b p : Nat) (rs : List (Nat × Nat)) (fs : List (BankPlace × Nat)) (es : List Effect) : (s.book i c x e b p rs fs es).pipeFree = s.pipeFree := by
  rfl
@[simp] theorem State.book_varnishFree (s : State) (i c x : Nat) (e : Engine) (b p : Nat) (rs : List (Nat × Nat)) (fs : List (BankPlace × Nat)) (es : List Effect) : (s.book i c x e b p rs fs es).varnishFree = s.varnishFree := by
  rfl
@[simp] theorem State.book_vectorFree (s : State) (i c x : Nat) (e : Engine) (b p : Nat) (rs : List (Nat × Nat)) (fs : List (BankPlace × Nat)) (es : List Effect) : (s.book i c x e b p rs fs es).vectorFree = s.vectorFree := by
  rfl
@[simp] theorem State.book_mem (s : State) (i c x : Nat) (e : Engine) (b p : Nat) (rs : List (Nat × Nat)) (fs : List (BankPlace × Nat)) (es : List Effect) : (s.book i c x e b p rs fs es).mem = s.mem := by
  rfl
@[simp] theorem State.book_poison (s : State) (i c x : Nat) (e : Engine) (b p : Nat) (rs : List (Nat × Nat)) (fs : List (BankPlace × Nat)) (es : List Effect) : (s.book i c x e b p rs fs es).poison = s.poison := by
  rfl
@[simp] theorem State.book_main (s : State) (i c x : Nat) (e : Engine) (b p : Nat) (rs : List (Nat × Nat)) (fs : List (BankPlace × Nat)) (es : List Effect) : (s.book i c x e b p rs fs es).main = s.main := by
  rfl
@[simp] theorem State.book_manifests (s : State) (i c x : Nat) (e : Engine) (b p : Nat) (rs : List (Nat × Nat)) (fs : List (BankPlace × Nat)) (es : List Effect) : (s.book i c x e b p rs fs es).manifests = s.manifests := by
  rfl
@[simp] theorem State.book_grids (s : State) (i c x : Nat) (e : Engine) (b p : Nat) (rs : List (Nat × Nat)) (fs : List (BankPlace × Nat)) (es : List Effect) : (s.book i c x e b p rs fs es).grids = s.grids := by
  rfl
@[simp] theorem State.book_fab (s : State) (i c x : Nat) (e : Engine) (b p : Nat) (rs : List (Nat × Nat)) (fs : List (BankPlace × Nat)) (es : List Effect) : (s.book i c x e b p rs fs es).fab = s.fab := by
  rfl
@[simp] theorem State.book_red (s : State) (i c x : Nat) (e : Engine) (b p : Nat) (rs : List (Nat × Nat)) (fs : List (BankPlace × Nat)) (es : List Effect) : (s.book i c x e b p rs fs es).red = s.red := by
  rfl
@[simp] theorem State.book_com (s : State) (i c x : Nat) (e : Engine) (b p : Nat) (rs : List (Nat × Nat)) (fs : List (BankPlace × Nat)) (es : List Effect) : (s.book i c x e b p rs fs es).com = s.com := by
  rfl
@[simp] theorem State.book_plan (s : State) (i c x : Nat) (e : Engine) (b p : Nat) (rs : List (Nat × Nat)) (fs : List (BankPlace × Nat)) (es : List Effect) : (s.book i c x e b p rs fs es).plan = s.plan := by
  rfl
@[simp] theorem State.book_log (s : State) (i c x : Nat) (e : Engine) (b p : Nat) (rs : List (Nat × Nat)) (fs : List (BankPlace × Nat)) (es : List Effect) : (s.book i c x e b p rs fs es).log = s.log := by
  rfl
@[simp] theorem State.book_host (s : State) (i c x : Nat) (e : Engine) (b p : Nat) (rs : List (Nat × Nat)) (fs : List (BankPlace × Nat)) (es : List Effect) : (s.book i c x e b p rs fs es).host = s.host := by
  rfl
@[simp] theorem State.book_sec (s : State) (i c x : Nat) (e : Engine) (b p : Nat) (rs : List (Nat × Nat)) (fs : List (BankPlace × Nat)) (es : List Effect) : (s.book i c x e b p rs fs es).sec = s.sec := by
  rfl
@[simp] theorem State.book_env (s : State) (i c x : Nat) (e : Engine) (b p : Nat) (rs : List (Nat × Nat)) (fs : List (BankPlace × Nat)) (es : List Effect) : (s.book i c x e b p rs fs es).env = s.env := by
  rfl
@[simp] theorem State.book_i3c (s : State) (i c x : Nat) (e : Engine) (b p : Nat) (rs : List (Nat × Nat)) (fs : List (BankPlace × Nat)) (es : List Effect) : (s.book i c x e b p rs fs es).i3c = s.i3c := by
  rfl
@[simp] theorem State.book_totals (s : State) (i c x : Nat) (e : Engine) (b p : Nat) (rs : List (Nat × Nat)) (fs : List (BankPlace × Nat)) (es : List Effect) : (s.book i c x e b p rs fs es).totals = s.totals := by
  rfl
@[simp] theorem State.book_pending (s : State) (i c x : Nat) (e : Engine) (b p : Nat) (rs : List (Nat × Nat)) (fs : List (BankPlace × Nat)) (es : List Effect) : (s.book i c x e b p rs fs es).pending = s.pending := by
  rfl
@[simp] theorem State.book_freeCtr (s : State) (i c x : Nat) (e : Engine) (b p : Nat) (rs : List (Nat × Nat)) (fs : List (BankPlace × Nat)) (es : List Effect) : (s.book i c x e b p rs fs es).freeCtr = s.freeCtr := by
  rfl

/-! ### launch -/

@[simp] theorem State.launch_dev (s : State) (k : Nat) (l : Launch) : ((s.launch k l).s).dev = s.dev := by
  unfold State.launch; dsimp only; simp only [State.endGroup, State.setStrand_dev, State.traceMove_dev, State.traceCore_dev]; repeat' split
  all_goals simp
@[simp] theorem State.launch_tide (s : State) (k : Nat) (l : Launch) : ((s.launch k l).s).tide = s.tide := by
  unfold State.launch; dsimp only; simp only [State.endGroup, State.setStrand_tide, State.traceMove_tide, State.traceCore_tide]; repeat' split
  all_goals simp
@[simp] theorem State.launch_govW (s : State) (k : Nat) (l : Launch) : ((s.launch k l).s).govW = s.govW := by
  unfold State.launch; dsimp only; simp only [State.endGroup, State.setStrand_govW, State.traceMove_govW, State.traceCore_govW]; repeat' split
  all_goals simp
@[simp] theorem State.launch_govE (s : State) (k : Nat) (l : Launch) : ((s.launch k l).s).govE = s.govE := by
  unfold State.launch; dsimp only; simp only [State.endGroup, State.setStrand_govE, State.traceMove_govE, State.traceCore_govE]; repeat' split
  all_goals simp
@[simp] theorem State.launch_run (s : State) (k : Nat) (l : Launch) : ((s.launch k l).s).run = s.run := by
  unfold State.launch; dsimp only; simp only [State.endGroup, State.setStrand_run, State.traceMove_run, State.traceCore_run]; repeat' split
  all_goals simp
@[simp] theorem State.launch_snap (s : State) (k : Nat) (l : Launch) : ((s.launch k l).s).snap = s.snap := by
  unfold State.launch; dsimp only; simp only [State.endGroup, State.setStrand_snap, State.traceMove_snap, State.traceCore_snap]; repeat' split
  all_goals simp
@[simp] theorem State.launch_code (s : State) (k : Nat) (l : Launch) : ((s.launch k l).s).code = s.code := by
  unfold State.launch; dsimp only; simp only [State.endGroup, State.setStrand_code, State.traceMove_code, State.traceCore_code]; repeat' split
  all_goals simp
@[simp] theorem State.launch_marks (s : State) (k : Nat) (l : Launch) : ((s.launch k l).s).marks = s.marks := by
  unfold State.launch; dsimp only; simp only [State.endGroup, State.setStrand_marks, State.traceMove_marks, State.traceCore_marks]; repeat' split
  all_goals simp
@[simp] theorem State.launch_signals (s : State) (k : Nat) (l : Launch) : ((s.launch k l).s).signals = s.signals := by
  unfold State.launch; dsimp only; simp only [State.endGroup, State.setStrand_signals, State.traceMove_signals, State.traceCore_signals]; repeat' split
  all_goals simp
@[simp] theorem State.launch_lockx (s : State) (k : Nat) (l : Launch) : ((s.launch k l).s).lockx = s.lockx := by
  unfold State.launch; dsimp only; simp only [State.endGroup, State.setStrand_lockx, State.traceMove_lockx, State.traceCore_lockx]; repeat' split
  all_goals simp
@[simp] theorem State.launch_acc (s : State) (k : Nat) (l : Launch) : ((s.launch k l).s).acc = s.acc := by
  unfold State.launch; dsimp only; simp only [State.endGroup, State.setStrand_acc, State.traceMove_acc, State.traceCore_acc]; repeat' split
  all_goals simp
@[simp] theorem State.launch_feed (s : State) (k : Nat) (l : Launch) : ((s.launch k l).s).feed = s.feed := by
  unfold State.launch; dsimp only; simp only [State.endGroup, State.setStrand_feed, State.traceMove_feed, State.traceCore_feed]; repeat' split
  all_goals simp
@[simp] theorem State.launch_easelFree (s : State) (k : Nat) (l : Launch) : ((s.launch k l).s).easelFree = s.easelFree := by
  unfold State.launch; dsimp only; simp only [State.endGroup, State.setStrand_easelFree, State.traceMove_easelFree, State.traceCore_easelFree]; repeat' split
  all_goals simp
@[simp] theorem State.launch_bankFree (s : State) (k : Nat) (l : Launch) : ((s.launch k l).s).bankFree = s.bankFree := by
  unfold State.launch; dsimp only; simp only [State.endGroup, State.setStrand_bankFree, State.traceMove_bankFree, State.traceCore_bankFree]; repeat' split
  all_goals simp
@[simp] theorem State.launch_pipeFree (s : State) (k : Nat) (l : Launch) : ((s.launch k l).s).pipeFree = s.pipeFree := by
  unfold State.launch; dsimp only; simp only [State.endGroup, State.setStrand_pipeFree, State.traceMove_pipeFree, State.traceCore_pipeFree]; repeat' split
  all_goals simp
@[simp] theorem State.launch_varnishFree (s : State) (k : Nat) (l : Launch) : ((s.launch k l).s).varnishFree = s.varnishFree := by
  unfold State.launch; dsimp only; simp only [State.endGroup, State.setStrand_varnishFree, State.traceMove_varnishFree, State.traceCore_varnishFree]; repeat' split
  all_goals simp
@[simp] theorem State.launch_vectorFree (s : State) (k : Nat) (l : Launch) : ((s.launch k l).s).vectorFree = s.vectorFree := by
  unfold State.launch; dsimp only; simp only [State.endGroup, State.setStrand_vectorFree, State.traceMove_vectorFree, State.traceCore_vectorFree]; repeat' split
  all_goals simp
@[simp] theorem State.launch_mem (s : State) (k : Nat) (l : Launch) : ((s.launch k l).s).mem = s.mem := by
  unfold State.launch; dsimp only; simp only [State.endGroup, State.setStrand_mem, State.traceMove_mem, State.traceCore_mem]; repeat' split
  all_goals simp
@[simp] theorem State.launch_poison (s : State) (k : Nat) (l : Launch) : ((s.launch k l).s).poison = s.poison := by
  unfold State.launch; dsimp only; simp only [State.endGroup, State.setStrand_poison, State.traceMove_poison, State.traceCore_poison]; repeat' split
  all_goals simp
@[simp] theorem State.launch_main (s : State) (k : Nat) (l : Launch) : ((s.launch k l).s).main = s.main := by
  unfold State.launch; dsimp only; simp only [State.endGroup, State.setStrand_main, State.traceMove_main, State.traceCore_main]; repeat' split
  all_goals simp
@[simp] theorem State.launch_manifests (s : State) (k : Nat) (l : Launch) : ((s.launch k l).s).manifests = s.manifests := by
  unfold State.launch; dsimp only; simp only [State.endGroup, State.setStrand_manifests, State.traceMove_manifests, State.traceCore_manifests]; repeat' split
  all_goals simp
@[simp] theorem State.launch_grids (s : State) (k : Nat) (l : Launch) : ((s.launch k l).s).grids = s.grids := by
  unfold State.launch; dsimp only; simp only [State.endGroup, State.setStrand_grids, State.traceMove_grids, State.traceCore_grids]; repeat' split
  all_goals simp
@[simp] theorem State.launch_fab (s : State) (k : Nat) (l : Launch) : ((s.launch k l).s).fab = s.fab := by
  unfold State.launch; dsimp only; simp only [State.endGroup, State.setStrand_fab, State.traceMove_fab, State.traceCore_fab]; repeat' split
  all_goals simp
@[simp] theorem State.launch_red (s : State) (k : Nat) (l : Launch) : ((s.launch k l).s).red = s.red := by
  unfold State.launch; dsimp only; simp only [State.endGroup, State.setStrand_red, State.traceMove_red, State.traceCore_red]; repeat' split
  all_goals simp
@[simp] theorem State.launch_com (s : State) (k : Nat) (l : Launch) : ((s.launch k l).s).com = s.com := by
  unfold State.launch; dsimp only; simp only [State.endGroup, State.setStrand_com, State.traceMove_com, State.traceCore_com]; repeat' split
  all_goals simp
@[simp] theorem State.launch_plan (s : State) (k : Nat) (l : Launch) : ((s.launch k l).s).plan = s.plan := by
  unfold State.launch; dsimp only; simp only [State.endGroup, State.setStrand_plan, State.traceMove_plan, State.traceCore_plan]; repeat' split
  all_goals simp
@[simp] theorem State.launch_host (s : State) (k : Nat) (l : Launch) : ((s.launch k l).s).host = s.host := by
  unfold State.launch; dsimp only; simp only [State.endGroup, State.setStrand_host, State.traceMove_host, State.traceCore_host]; repeat' split
  all_goals simp
@[simp] theorem State.launch_sec (s : State) (k : Nat) (l : Launch) : ((s.launch k l).s).sec = s.sec := by
  unfold State.launch; dsimp only; simp only [State.endGroup, State.setStrand_sec, State.traceMove_sec, State.traceCore_sec]; repeat' split
  all_goals simp
@[simp] theorem State.launch_env (s : State) (k : Nat) (l : Launch) : ((s.launch k l).s).env = s.env := by
  unfold State.launch; dsimp only; simp only [State.endGroup, State.setStrand_env, State.traceMove_env, State.traceCore_env]; repeat' split
  all_goals simp
@[simp] theorem State.launch_i3c (s : State) (k : Nat) (l : Launch) : ((s.launch k l).s).i3c = s.i3c := by
  unfold State.launch; dsimp only; simp only [State.endGroup, State.setStrand_i3c, State.traceMove_i3c, State.traceCore_i3c]; repeat' split
  all_goals simp
@[simp] theorem State.launch_totals (s : State) (k : Nat) (l : Launch) : ((s.launch k l).s).totals = s.totals := by
  unfold State.launch; dsimp only; simp only [State.endGroup, State.setStrand_totals, State.traceMove_totals, State.traceCore_totals]; repeat' split
  all_goals simp
@[simp] theorem State.launch_pending (s : State) (k : Nat) (l : Launch) : ((s.launch k l).s).pending = s.pending := by
  unfold State.launch; dsimp only; simp only [State.endGroup, State.setStrand_pending, State.traceMove_pending, State.traceCore_pending]; repeat' split
  all_goals simp
@[simp] theorem State.launch_freeCtr (s : State) (k : Nat) (l : Launch) : ((s.launch k l).s).freeCtr = s.freeCtr := by
  unfold State.launch; dsimp only; simp only [State.endGroup, State.setStrand_freeCtr, State.traceMove_freeCtr, State.traceCore_freeCtr]; repeat' split
  all_goals simp

end Sys2Proof.Machine
end

