-- ==== Sys2Proof/Laws/Words.lean ====
section
/-! SUPPORT. The fields of a word 0 built from its parts read back as the parts (R144). -/

namespace Sys2Proof

open Sys2Proof.Machine

theorem fieldOf_eq_extract (v : W64) (hi lo : Nat) : fieldOf v hi lo = (v.extractLsb' lo (hi + 1 - lo)).toNat := by
  simp [fieldOf, bitsOf, Nat.shiftRight_eq_div_pow]

/-- The bits of a word 0, part by part. -/
theorem getLsbD_word0 (op n : Nat) (w : Word0) (i : Nat) : (word0 op n w).getLsbD i =
    if i < 29 then w.imm.getLsbD i else if i < 34 then w.xd.getLsbD (i - 29) else if i < 39 then w.xc.getLsbD (i - 34)
    else if i < 44 then w.xb.getLsbD (i - 39) else if i < 49 then w.xa.getLsbD (i - 44)
    else if i < 50 then (decide (i = 49) && w.tagEn) else if i < 54 then w.tag.getLsbD (i - 50)
    else if i < 56 then (BitVec.ofNat 2 (n - 1)).getLsbD (i - 54) else (BitVec.ofNat 8 op).getLsbD (i - 56) := by
  change BitVec.getLsbD (w := 8 + 2 + 4 + 1 + 5 + 5 + 5 + 5 + 29) _ i = _
  simp only [word0, BitVec.getLsbD_append, BitVec.getLsbD_ofBool]
  repeat' split
  all_goals first | omega | (congr 1; omega) | rfl | (rw [decide_eq_true (by omega), decide_eq_true (by omega)])

theorem opcodeOf_word0 (op n : Nat) (w : Word0) (h : op < 256) : opcodeOf (word0 op n w) = op := by
  have e : (word0 op n w).extractLsb' 56 8 = BitVec.ofNat 8 op := by
    apply BitVec.eq_of_getLsbD_eq
    intro i hi
    rw [BitVec.getLsbD_extractLsb', getLsbD_word0]
    simp [hi, show ∀ k, k ≤ 56 → ¬ (56 + i < k) from fun k hk => by omega]
  rw [opcodeOf, fieldOf_eq_extract]
  simp only [Nat.reduceAdd, Nat.reduceSub, e, BitVec.toNat_ofNat]
  omega

theorem wordsOf_word0 (op n : Nat) (w : Word0) (h : 1 ≤ n) (h' : n ≤ 4) : wordsOf (word0 op n w) = n := by
  have e : (word0 op n w).extractLsb' 54 2 = BitVec.ofNat 2 (n - 1) := by
    apply BitVec.eq_of_getLsbD_eq
    intro i hi
    rw [BitVec.getLsbD_extractLsb', getLsbD_word0]
    simp [hi, show 54 + i < 56 from by omega, show ∀ k, k ≤ 54 → ¬ (54 + i < k) from fun k hk => by omega]
  rw [wordsOf, fieldOf_eq_extract]
  simp only [Nat.reduceAdd, Nat.reduceSub, e, BitVec.toNat_ofNat]
  omega

/-- Every field of a word 0 decodes as it was encoded. -/
theorem decodeWord0_word0 (op n : Nat) (w : Word0) : decodeWord0 (word0 op n w) = w := by
  have f : ∀ (lo len : Nat) (x : BitVec len), (∀ i, i < len → (word0 op n w).getLsbD (lo + i) = x.getLsbD i) →
      (word0 op n w).extractLsb' lo len = x := by
    intro lo len x hx
    apply BitVec.eq_of_getLsbD_eq
    intro i hi
    rw [BitVec.getLsbD_extractLsb', hx i hi]
    simp [hi]
  unfold decodeWord0
  have b : (word0 op n w).getLsbD 49 = w.tagEn := by rw [getLsbD_word0]; simp
  rw [b, f 50 4 w.tag, f 44 5 w.xa, f 39 5 w.xb, f 34 5 w.xc, f 29 5 w.xd, f 0 29 w.imm]
  all_goals
    intro i hi
    rw [getLsbD_word0]
    repeat' split
    all_goals first | omega | (congr 1; omega)

end Sys2Proof
end

