-- ==== Sys2Proof/Laws/PerInstr.lean ====
section
/-! SUPPORT. Facts about every command as syntax, one lemma per constructor: which commands have words, and how many (R144, R147, R486). -/

namespace Sys2Proof.Laws.WordCount

open Sys2Proof Sys2Proof.Machine Sys2Proof.Safety

/-- The commands that are strand instructions, and no others, have words; their word 0 states their number, which is that of the shape of the opcode in the
instruction set that has it. -/
def Statement (i : Instr) : Prop :=
  ((encodeSsi i).isSome = (strandOf i).isSome) ∧
    ∀ ws, encodeSsi i = some ws →
      wordsOf (ws.getD 0 0) = ws.length ∧
        ((shapeOf (decide (0x80 ≤ opcodeOf (ws.getD 0 0))) (opcodeOf (ws.getD 0 0))).map fun s => s.words) = some ws.length

theorem ofWords (i : Instr) (op n : Nat) (w : Word0) (rest : List W64) (he : encodeSsi i = some (word0 op n w :: rest))
    (hs : (strandOf i).isSome = true) (ho : op < 256) (hn : 1 ≤ n) (hn' : n ≤ 4) (hl : rest.length + 1 = n)
    (hsh : ((shapeOf (decide (0x80 ≤ op)) op).map fun s => s.words) = some n) : Statement i := by
  refine ⟨by simp [he, hs], fun ws h => ?_⟩
  rw [he] at h
  cases h
  simp only [List.getD_cons_zero, List.length_cons, opcodeOf_word0 _ _ _ ho, wordsOf_word0 _ _ _ hn hn', hl]
  exact ⟨trivial, hsh⟩

theorem ofNone (i : Instr) (he : encodeSsi i = none) (hs : strandOf i = none) : Statement i :=
  ⟨by simp [he, hs], fun ws h => by simp [he] at h⟩

theorem strokeBoundary (delaysW delaysE : List Nat) (late : List Nat) : Statement (.strokeBoundary delaysW delaysE late) := ofNone _ rfl rfl
theorem operationVisible (op : Nat) (complete : Bool) : Statement (.operationVisible op complete) := ofNone _ rfl rfl
theorem strandResume (st : StrandRef) : Statement (.strandResume st) := ofNone _ rfl rfl
theorem scheduleLate (st : StrandRef) : Statement (.scheduleLate st) := ofNone _ rfl rfl
theorem governorPeriod (h : Half) : Statement (.governorPeriod h) := ofNone _ rfl rfl
theorem regulatorReadback (h : Half) (sram : Bool) (ack statusError : Bool) (readMv : Nat) : Statement (.regulatorReadback h sram ack statusError readMv) := ofNone _ rfl rfl
theorem railCurrentRead (h : Half) (coreMa sramMa : Nat) : Statement (.railCurrentRead h coreMa sramMa) := ofNone _ rfl rfl
theorem thermal (h : Half) (reading : HeatReading) : Statement (.thermal h reading) := ofNone _ rfl rfl
theorem powerCap (fixed : List (Nat × Nat)) : Statement (.powerCap fixed) := ofNone _ rfl rfl
theorem enterHeld : Statement .enterHeld := ofNone _ rfl rfl
theorem tidePps : Statement .tidePps := ofNone _ rfl rfl
theorem tideServoUpdate : Statement .tideServoUpdate := ofNone _ rfl rfl
theorem upstreamLost : Statement .upstreamLost := ofNone _ rfl rfl
theorem tideError : Statement .tideError := ofNone _ rfl rfl
theorem tideRefLost : Statement .tideRefLost := ofNone _ rfl rfl
theorem nop (st : StrandRef) (w : Word0) : Statement (.nop st w) := ofWords _ 0x00 1 w _ rfl rfl (by decide) (by decide) (by decide) rfl rfl
theorem add (st : StrandRef) (w : Word0) : Statement (.add st w) := ofWords _ 0x01 1 w _ rfl rfl (by decide) (by decide) (by decide) rfl rfl
theorem sub (st : StrandRef) (w : Word0) : Statement (.sub st w) := ofWords _ 0x02 1 w _ rfl rfl (by decide) (by decide) (by decide) rfl rfl
theorem and (st : StrandRef) (w : Word0) : Statement (.and st w) := ofWords _ 0x03 1 w _ rfl rfl (by decide) (by decide) (by decide) rfl rfl
theorem or (st : StrandRef) (w : Word0) : Statement (.or st w) := ofWords _ 0x04 1 w _ rfl rfl (by decide) (by decide) (by decide) rfl rfl
theorem xor (st : StrandRef) (w : Word0) : Statement (.xor st w) := ofWords _ 0x05 1 w _ rfl rfl (by decide) (by decide) (by decide) rfl rfl
theorem shl (st : StrandRef) (w : Word0) : Statement (.shl st w) := ofWords _ 0x06 1 w _ rfl rfl (by decide) (by decide) (by decide) rfl rfl
theorem shr (st : StrandRef) (w : Word0) : Statement (.shr st w) := ofWords _ 0x07 1 w _ rfl rfl (by decide) (by decide) (by decide) rfl rfl
theorem sra (st : StrandRef) (w : Word0) : Statement (.sra st w) := ofWords _ 0x08 1 w _ rfl rfl (by decide) (by decide) (by decide) rfl rfl
theorem mul (st : StrandRef) (w : Word0) : Statement (.mul st w) := ofWords _ 0x09 1 w _ rfl rfl (by decide) (by decide) (by decide) rfl rfl
theorem mins (st : StrandRef) (w : Word0) : Statement (.mins st w) := ofWords _ 0x0A 1 w _ rfl rfl (by decide) (by decide) (by decide) rfl rfl
theorem maxs (st : StrandRef) (w : Word0) : Statement (.maxs st w) := ofWords _ 0x0B 1 w _ rfl rfl (by decide) (by decide) (by decide) rfl rfl
theorem slt (st : StrandRef) (w : Word0) : Statement (.slt st w) := ofWords _ 0x0C 1 w _ rfl rfl (by decide) (by decide) (by decide) rfl rfl
theorem sltu (st : StrandRef) (w : Word0) : Statement (.sltu st w) := ofWords _ 0x0D 1 w _ rfl rfl (by decide) (by decide) (by decide) rfl rfl
theorem li (st : StrandRef) (w : Word0) : Statement (.li st w) := ofWords _ 0x0E 1 w _ rfl rfl (by decide) (by decide) (by decide) rfl rfl
theorem li64 (st : StrandRef) (w : Word0) (w1 : W64) : Statement (.li64 st w w1) := ofWords _ 0x0F 2 w _ rfl rfl (by decide) (by decide) (by decide) rfl rfl
theorem sysrd (st : StrandRef) (w : Word0) : Statement (.sysrd st w) := ofWords _ 0x10 1 w _ rfl rfl (by decide) (by decide) (by decide) rfl rfl
theorem ld (st : StrandRef) (w : Word0) : Statement (.ld st w) := ofWords _ 0x11 1 w _ rfl rfl (by decide) (by decide) (by decide) rfl rfl
theorem st (st : StrandRef) (w : Word0) : Statement (.st st w) := ofWords _ 0x12 1 w _ rfl rfl (by decide) (by decide) (by decide) rfl rfl
theorem jmp (st : StrandRef) (w : Word0) : Statement (.jmp st w) := ofWords _ 0x18 1 w _ rfl rfl (by decide) (by decide) (by decide) rfl rfl
theorem beqz (st : StrandRef) (w : Word0) : Statement (.beqz st w) := ofWords _ 0x19 1 w _ rfl rfl (by decide) (by decide) (by decide) rfl rfl
theorem bnez (st : StrandRef) (w : Word0) : Statement (.bnez st w) := ofWords _ 0x1A 1 w _ rfl rfl (by decide) (by decide) (by decide) rfl rfl
theorem blt (st : StrandRef) (w : Word0) : Statement (.blt st w) := ofWords _ 0x1B 1 w _ rfl rfl (by decide) (by decide) (by decide) rfl rfl
theorem spawn (st : StrandRef) (w : Word0) : Statement (.spawn st w) := ofWords _ 0x1C 1 w _ rfl rfl (by decide) (by decide) (by decide) rfl rfl
theorem endStrand (st : StrandRef) (w : Word0) : Statement (.endStrand st w) := ofWords _ 0x1D 1 w _ rfl rfl (by decide) (by decide) (by decide) rfl rfl
theorem waitt (st : StrandRef) (w : Word0) : Statement (.waitt st w) := ofWords _ 0x1E 1 w _ rfl rfl (by decide) (by decide) (by decide) rfl rfl
theorem twait (st : StrandRef) (w : Word0) : Statement (.twait st w) := ofWords _ 0x1F 1 w _ rfl rfl (by decide) (by decide) (by decide) rfl rfl
theorem eop (st : StrandRef) (w : Word0) (w1 w2 : W64) : Statement (.eop st w w1 w2) := ofWords _ 0x20 3 w _ rfl rfl (by decide) (by decide) (by decide) rfl rfl
theorem accrd (st : StrandRef) (w : Word0) : Statement (.accrd st w) := ofWords _ 0x21 1 w _ rfl rfl (by decide) (by decide) (by decide) rfl rfl
theorem accwr (st : StrandRef) (w : Word0) : Statement (.accwr st w) := ofWords _ 0x22 1 w _ rfl rfl (by decide) (by decide) (by decide) rfl rfl
theorem vst (st : StrandRef) (w : Word0) (w1 : W64) : Statement (.vst st w w1) := ofWords _ 0x24 2 w _ rfl rfl (by decide) (by decide) (by decide) rfl rfl
theorem pcvt (st : StrandRef) (w : Word0) (w1 : W64) : Statement (.pcvt st w w1) := ofWords _ 0x28 2 w _ rfl rfl (by decide) (by decide) (by decide) rfl rfl
theorem sketch (st : StrandRef) (w : Word0) (w1 w2 : W64) : Statement (.sketch st w w1 w2) := ofWords _ 0x2C 3 w _ rfl rfl (by decide) (by decide) (by decide) rfl rfl
theorem vew (st : StrandRef) (w : Word0) (w1 : W64) : Statement (.vew st w w1) := ofWords _ 0x30 2 w _ rfl rfl (by decide) (by decide) (by decide) rfl rfl
theorem vred (st : StrandRef) (w : Word0) (w1 : W64) : Statement (.vred st w w1) := ofWords _ 0x31 2 w _ rfl rfl (by decide) (by decide) (by decide) rfl rfl
theorem upd (st : StrandRef) (w : Word0) (w1 w2 : W64) : Statement (.upd st w w1 w2) := ofWords _ 0x32 3 w _ rfl rfl (by decide) (by decide) (by decide) rfl rfl
theorem mevo (st : StrandRef) (w : Word0) (w1 w2 : W64) : Statement (.mevo st w w1 w2) := ofWords _ 0x33 3 w _ rfl rfl (by decide) (by decide) (by decide) rfl rfl
theorem rng (st : StrandRef) (w : Word0) (w1 : W64) : Statement (.rng st w w1) := ofWords _ 0x34 2 w _ rfl rfl (by decide) (by decide) (by decide) rfl rfl
theorem vfin (st : StrandRef) (w : Word0) (w1 : W64) : Statement (.vfin st w w1) := ofWords _ 0x35 2 w _ rfl rfl (by decide) (by decide) (by decide) rfl rfl
theorem crc (st : StrandRef) (w : Word0) (w1 : W64) : Statement (.crc st w w1) := ofWords _ 0x36 2 w _ rfl rfl (by decide) (by decide) (by decide) rfl rfl
theorem dcopy (st : StrandRef) (w : Word0) (w1 : W64) : Statement (.dcopy st w w1) := ofWords _ 0x38 2 w _ rfl rfl (by decide) (by decide) (by decide) rfl rfl
theorem dfeed (st : StrandRef) (w : Word0) (w1 w2 : W64) : Statement (.dfeed st w w1 w2) := ofWords _ 0x39 3 w _ rfl rfl (by decide) (by decide) (by decide) rfl rfl
theorem dset (st : StrandRef) (w : Word0) (w1 : W64) : Statement (.dset st w w1) := ofWords _ 0x3A 2 w _ rfl rfl (by decide) (by decide) (by decide) rfl rfl
theorem fst (st : StrandRef) (w : Word0) (w1 : W64) : Statement (.fst st w w1) := ofWords _ 0x40 2 w _ rfl rfl (by decide) (by decide) (by decide) rfl rfl
theorem fld (st : StrandRef) (w : Word0) (w1 : W64) : Statement (.fld st w w1) := ofWords _ 0x41 2 w _ rfl rfl (by decide) (by decide) (by decide) rfl rfl
theorem fatom (st : StrandRef) (w : Word0) (w1 : W64) : Statement (.fatom st w w1) := ofWords _ 0x42 2 w _ rfl rfl (by decide) (by decide) (by decide) rfl rfl
theorem fsig (st : StrandRef) (w : Word0) : Statement (.fsig st w) := ofWords _ 0x43 1 w _ rfl rfl (by decide) (by decide) (by decide) rfl rfl
theorem fpush (st : StrandRef) (w : Word0) : Statement (.fpush st w) := ofWords _ 0x44 1 w _ rfl rfl (by decide) (by decide) (by decide) rfl rfl
theorem rcontrib (st : StrandRef) (w : Word0) (w1 : W64) : Statement (.rcontrib st w w1) := ofWords _ 0x48 2 w _ rfl rfl (by decide) (by decide) (by decide) rfl rfl
theorem rmerge (st : StrandRef) (w : Word0) (w1 : W64) : Statement (.rmerge st w w1) := ofWords _ 0x49 2 w _ rfl rfl (by decide) (by decide) (by decide) rfl rfl
theorem bpush (st : StrandRef) (w : Word0) : Statement (.bpush st w) := ofWords _ 0x50 1 w _ rfl rfl (by decide) (by decide) (by decide) rfl rfl
theorem bpop (st : StrandRef) (w : Word0) : Statement (.bpop st w) := ofWords _ 0x51 1 w _ rfl rfl (by decide) (by decide) (by decide) rfl rfl
theorem btry (st : StrandRef) (w : Word0) : Statement (.btry st w) := ofWords _ 0x52 1 w _ rfl rfl (by decide) (by decide) (by decide) rfl rfl
theorem bcount (st : StrandRef) (w : Word0) : Statement (.bcount st w) := ofWords _ 0x53 1 w _ rfl rfl (by decide) (by decide) (by decide) rfl rfl
theorem lenter (st : StrandRef) (w : Word0) : Statement (.lenter st w) := ofWords _ 0x58 1 w _ rfl rfl (by decide) (by decide) (by decide) rfl rfl
theorem larrive (st : StrandRef) (w : Word0) : Statement (.larrive st w) := ofWords _ 0x59 1 w _ rfl rfl (by decide) (by decide) (by decide) rfl rfl
theorem lwait (st : StrandRef) (w : Word0) : Statement (.lwait st w) := ofWords _ 0x5A 1 w _ rfl rfl (by decide) (by decide) (by decide) rfl rfl
theorem sigadd (st : StrandRef) (w : Word0) : Statement (.sigadd st w) := ofWords _ 0x5B 1 w _ rfl rfl (by decide) (by decide) (by decide) rfl rfl
theorem sigwait (st : StrandRef) (w : Word0) : Statement (.sigwait st w) := ofWords _ 0x5C 1 w _ rfl rfl (by decide) (by decide) (by decide) rfl rfl
theorem fence (st : StrandRef) (w : Word0) : Statement (.fence st w) := ofWords _ 0x5D 1 w _ rfl rfl (by decide) (by decide) (by decide) rfl rfl
theorem mma (st : StrandRef) (w : Word0) : Statement (.mma st w) := ofWords _ 0x80 1 w _ rfl rfl (by decide) (by decide) (by decide) rfl rfl
theorem ldf (st : StrandRef) (w : Word0) (w1 : W64) : Statement (.ldf st w w1) := ofWords _ 0x81 2 w _ rfl rfl (by decide) (by decide) (by decide) rfl rfl
theorem sta (st : StrandRef) (w : Word0) : Statement (.sta st w) := ofWords _ 0x82 1 w _ rfl rfl (by decide) (by decide) (by decide) rfl rfl
theorem cvt (st : StrandRef) (w : Word0) : Statement (.cvt st w) := ofWords _ 0x83 1 w _ rfl rfl (by decide) (by decide) (by decide) rfl rfl
theorem cpy (st : StrandRef) (w : Word0) : Statement (.cpy st w) := ofWords _ 0x84 1 w _ rfl rfl (by decide) (by decide) (by decide) rfl rfl
theorem vop (st : StrandRef) (w : Word0) : Statement (.vop st w) := ofWords _ 0x88 1 w _ rfl rfl (by decide) (by decide) (by decide) rfl rfl
theorem bar (st : StrandRef) (w : Word0) : Statement (.bar st w) := ofWords _ 0x90 1 w _ rfl rfl (by decide) (by decide) (by decide) rfl rfl
theorem qpush (st : StrandRef) (w : Word0) : Statement (.qpush st w) := ofWords _ 0x91 1 w _ rfl rfl (by decide) (by decide) (by decide) rfl rfl
theorem qpop (st : StrandRef) (w : Word0) : Statement (.qpop st w) := ofWords _ 0x92 1 w _ rfl rfl (by decide) (by decide) (by decide) rfl rfl
theorem swt (st : StrandRef) (w : Word0) : Statement (.swt st w) := ofWords _ 0x93 1 w _ rfl rfl (by decide) (by decide) (by decide) rfl rfl
theorem rst (st : StrandRef) (w : Word0) (w1 : W64) : Statement (.rst st w w1) := ofWords _ 0x98 2 w _ rfl rfl (by decide) (by decide) (by decide) rfl rfl
theorem rsig (st : StrandRef) (w : Word0) : Statement (.rsig st w) := ofWords _ 0x99 1 w _ rfl rfl (by decide) (by decide) (by decide) rfl rfl
theorem fen (st : StrandRef) (w : Word0) : Statement (.fen st w) := ofWords _ 0x9F 1 w _ rfl rfl (by decide) (by decide) (by decide) rfl rfl
theorem lockOpen (core : Fin 128) (lock : Fin 64) : Statement (.lockOpen core lock) := ofNone _ rfl rfl
theorem lockDeadline (core : Fin 128) (lock : Fin 64) : Statement (.lockDeadline core lock) := ofNone _ rfl rfl
theorem normPartAdd (group : Fin 4096) (part : Fin 64) (w2 g2 d2 : W64) : Statement (.normPartAdd group part w2 g2 d2) := ofNone _ rfl rfl
theorem sketchCounterRead (layer : Nat) : Statement (.sketchCounterRead layer) := ofNone _ rfl rfl
theorem sumContribution (source : SumSource) (slice : Fin 128) (tile : Fin 64) (values : List (Nat × W32)) : Statement (.sumContribution source slice tile values) := ofNone _ rfl rfl
theorem sramScrub (bank : RowBank) (upsets : List RowUpset) : Statement (.sramScrub bank upsets) := ofNone _ rfl rfl
theorem memoryFrame (temperatures : List Int) : Statement (.memoryFrame temperatures) := ofNone _ rfl rfl
theorem memorySlot (use : SlotUse) (core : Fin 128) (line : Nat) (data : List (Nat × Byte)) (errors : List BurstError) : Statement (.memorySlot use core line data errors) := ofNone _ rfl rfl
theorem memQueueStart (op : Nat) : Statement (.memQueueStart op) := ofNone _ rfl rfl
theorem dramScrub (group : Fin 4) (lane : Fin 8) (errors : List BurstError) : Statement (.dramScrub group lane errors) := ofNone _ rfl rfl
theorem packageLost (package : Fin 36) : Statement (.packageLost package) := ofNone _ rfl rfl
theorem cellTransmit (quay : Fin 48) (slot : Nat) : Statement (.cellTransmit quay slot) := ofNone _ rfl rfl
theorem cellReceive (quay : Fin 48) (cell : List Byte) (arrivalNs : Nat) (arrivalFrac : W16) : Statement (.cellReceive quay cell arrivalNs arrivalFrac) := ofNone _ rfl rfl
theorem cellCommit (quay : Fin 48) : Statement (.cellCommit quay) := ofNone _ rfl rfl
theorem loadResponseReady (id : Nat) : Statement (.loadResponseReady id) := ofNone _ rfl rfl
theorem signalApply (id : Nat) : Statement (.signalApply id) := ofNone _ rfl rfl
theorem linkDown (quay : Fin 48) : Statement (.linkDown quay) := ofNone _ rfl rfl
theorem laserLoss (engine : Fin 12) (quarterDbm : Int) : Statement (.laserLoss engine quarterDbm) := ofNone _ rfl rfl
theorem linkTrainingAdvance (quay : Fin 48) (view : TrainView) : Statement (.linkTrainingAdvance quay view) := ofNone _ rfl rfl
theorem trainingTimeout (quay : Fin 48) (laser : Bool) : Statement (.trainingTimeout quay laser) := ofNone _ rfl rfl
theorem channelArm (channel : Fin 256) : Statement (.channelArm channel) := ofNone _ rfl rfl
theorem reduceCellCommit (quay : Fin 48) (cell : List Byte) : Statement (.reduceCellCommit quay cell) := ofNone _ rfl rfl
theorem leafSumStart (h : Half) (entry : Fin 4096) (cell : Nat) : Statement (.leafSumStart h entry cell) := ofNone _ rfl rfl
theorem nodeCombine (h : Half) (entry : Fin 4096) (cell : Nat) : Statement (.nodeCombine h entry cell) := ofNone _ rfl rfl
theorem nodeOutputComplete (h : Half) (entry : Fin 4096) (cell : Nat) : Statement (.nodeOutputComplete h entry cell) := ofNone _ rfl rfl
theorem rootShardDone (h : Half) (entry : Fin 4096) : Statement (.rootShardDone h entry) := ofNone _ rfl rfl
theorem backupDeadline (h : Half) (entry : Fin 4096) (right : Bool) (cell : Nat) : Statement (.backupDeadline h entry right cell) := ofNone _ rfl rfl
theorem hello (d : Desc) : Statement (.hello d) := ofNone _ rfl rfl
theorem identify (d : Desc) : Statement (.identify d) := ofNone _ rfl rfl
theorem status (d : Desc) : Statement (.status d) := ofNone _ rfl rfl
theorem chartRead (d : Desc) : Statement (.chartRead d) := ofNone _ rfl rfl
theorem chartWrite (d : Desc) : Statement (.chartWrite d) := ofNone _ rfl rfl
theorem chartSelect (d : Desc) : Statement (.chartSelect d) := ofNone _ rfl rfl
theorem chartSelectComplete (failed : List (Fin 144)) (packages : List (Fin 36)) : Statement (.chartSelectComplete failed packages) := ofNone _ rfl rfl
theorem resetPlan (d : Desc) : Statement (.resetPlan d) := ofNone _ rfl rfl
theorem resetWarm (d : Desc) : Statement (.resetWarm d) := ofNone _ rfl rfl
theorem resetCold (d : Desc) : Statement (.resetCold d) := ofNone _ rfl rfl
theorem tideSet (d : Desc) : Statement (.tideSet d) := ofNone _ rfl rfl
theorem fabricConfig (d : Desc) : Statement (.fabricConfig d) := ofNone _ rfl rfl
theorem quayTrain (d : Desc) : Statement (.quayTrain d) := ofNone _ rfl rfl
theorem planLoad (d : Desc) (image : HostImage) : Statement (.planLoad d image) := ofNone _ rfl rfl
theorem planUnload (d : Desc) : Statement (.planUnload d) := ofNone _ rfl rfl
theorem run (d : Desc) : Statement (.run d) := ofNone _ rfl rfl
theorem planStart : Statement .planStart := ofNone _ rfl rfl
theorem resumeStart : Statement .resumeStart := ofNone _ rfl rfl
theorem hold (d : Desc) : Statement (.hold d) := ofNone _ rfl rfl
theorem hostHold : Statement .hostHold := ofNone _ rfl rfl
theorem drain (d : Desc) : Statement (.drain d) := ofNone _ rfl rfl
theorem drainAbandoned : Statement .drainAbandoned := ofNone _ rfl rfl
theorem drainComplete : Statement .drainComplete := ofNone _ rfl rfl
theorem recoverEnter (d : Desc) : Statement (.recoverEnter d) := ofNone _ rfl rfl
theorem recoverExit (d : Desc) : Statement (.recoverExit d) := ofNone _ rfl rfl
theorem recoverCopy (d : Desc) : Statement (.recoverCopy d) := ofNone _ rfl rfl
theorem recoverTimeout : Statement .recoverTimeout := ofNone _ rfl rfl
theorem allocCreate (d : Desc) : Statement (.allocCreate d) := ofNone _ rfl rfl
theorem allocFree (d : Desc) : Statement (.allocFree d) := ofNone _ rfl rfl
theorem manifestCreate (d : Desc) : Statement (.manifestCreate d) := ofNone _ rfl rfl
theorem manifestDestroy (d : Desc) : Statement (.manifestDestroy d) := ofNone _ rfl rfl
theorem manifestQuery (d : Desc) : Statement (.manifestQuery d) := ofNone _ rfl rfl
theorem memErase (d : Desc) : Statement (.memErase d) := ofNone _ rfl rfl
theorem memRetirePage (d : Desc) : Statement (.memRetirePage d) := ofNone _ rfl rfl
theorem memRetireList (d : Desc) : Statement (.memRetireList d) := ofNone _ rfl rfl
theorem logSetRing (d : Desc) : Statement (.logSetRing d) := ofNone _ rfl rfl
theorem logReadPins (d : Desc) : Statement (.logReadPins d) := ofNone _ rfl rfl
theorem logClear (d : Desc) : Statement (.logClear d) := ofNone _ rfl rfl
theorem traceConfig (d : Desc) : Statement (.traceConfig d) := ofNone _ rfl rfl
theorem telemetry (d : Desc) : Statement (.telemetry d) := ofNone _ rfl rfl
theorem inject (d : Desc) : Statement (.inject d) := ofNone _ rfl rfl
theorem attest (d : Desc) : Statement (.attest d) := ofNone _ rfl rfl
theorem debugChallenge (d : Desc) : Statement (.debugChallenge d) := ofNone _ rfl rfl
theorem debugUnlock (d : Desc) : Statement (.debugUnlock d) := ofNone _ rfl rfl
theorem rollbackAdvance (d : FuseDesc) : Statement (.rollbackAdvance d) := ofNone _ rfl rfl
theorem mbCmdDoorbell (mb : Fin 4) (value : W32) (entries : List (Option RingEntry)) : Statement (.mbCmdDoorbell mb value entries) := ofNone _ rfl rfl
theorem mbRplDoorbell (mb : Fin 4) (value : W32) : Statement (.mbRplDoorbell mb value) := ofNone _ rfl rfl
theorem mbEnable (mb : Fin 4) (value : W32) : Statement (.mbEnable mb value) := ofNone _ rfl rfl
theorem mbDisable (mb : Fin 4) (value : W32) : Statement (.mbDisable mb value) := ofNone _ rfl rfl
theorem winBaseWrite (value : W64) : Statement (.winBaseWrite value) := ofNone _ rfl rfl
theorem tideNowRead (access : TideNowRead) : Statement (.tideNowRead access) := ofNone _ rfl rfl
theorem rcRead (offset : Nat) (width : Nat) : Statement (.rcRead offset width) := ofNone _ rfl rfl
theorem summaryClear (offset : Nat) (width : Nat) (value : W64) : Statement (.summaryClear offset width value) := ofNone _ rfl rfl
theorem ringTailWrite (ring : Fin 3) (value : W32) : Statement (.ringTailWrite ring value) := ofNone _ rfl rfl
theorem registerWrite (offset : Nat) (width : Nat) (value : W64) : Statement (.registerWrite offset width value) := ofNone _ rfl rfl
theorem bar2Request (access : Bar2Access) : Statement (.bar2Request access) := ofNone _ rfl rfl
theorem serviceSlot : Statement .serviceSlot := ofNone _ rfl rfl
theorem interruptEvaluate : Statement .interruptEvaluate := ofNone _ rfl rfl
theorem msixHoldoffExpiry : Statement .msixHoldoffExpiry := ofNone _ rfl rfl
theorem logWindowClose (cause : W16) (source : W16) (line : Nat) : Statement (.logWindowClose cause source line) := ofNone _ rfl rfl
theorem alarmEmit : Statement .alarmEmit := ofNone _ rfl rfl
theorem logMirrorWrite : Statement .logMirrorWrite := ofNone _ rfl rfl
theorem traceWrite (source : Fin 8) : Statement (.traceWrite source) := ofNone _ rfl rfl
theorem bootEntry : Statement .bootEntry := ofNone _ rfl rfl
theorem coreSelfTestDone (failed : List (Fin 144)) : Statement (.coreSelfTestDone failed) := ofNone _ rfl rfl
theorem memoryTrainingDone (failed : List (Fin 36)) : Statement (.memoryTrainingDone failed) := ofNone _ rfl rfl
theorem bootDone : Statement .bootDone := ofNone _ rfl rfl
theorem verifyDone : Statement .verifyDone := ofNone _ rfl rfl
theorem gessoDone : Statement .gessoDone := ofNone _ rfl rfl
theorem powerLoss : Statement .powerLoss := ofNone _ rfl rfl
theorem railLost (input : Fin 3) : Statement (.railLost input) := ofNone _ rfl rfl
theorem railGlitch (input : Fin 3) : Statement (.railGlitch input) := ofNone _ rfl rfl
theorem thermtrip (h : Half) : Statement (.thermtrip h) := ofNone _ rfl rfl
theorem holdPin (pins : PinLevels) : Statement (.holdPin pins) := ofNone _ rfl rfl
theorem perstAssert : Statement .perstAssert := ofNone _ rfl rfl
theorem functionLevelReset : Statement .functionLevelReset := ofNone _ rfl rfl
theorem hmWatchdog (sramWord : Bool) : Statement (.hmWatchdog sramWord) := ofNone _ rfl rfl
theorem tideRefPresent (present : Bool) : Statement (.tideRefPresent present) := ofNone _ rfl rfl
theorem ppsPresentLost : Statement .ppsPresentLost := ofNone _ rfl rfl
theorem perstRelease : Statement .perstRelease := ofNone _ rfl rfl
theorem pcieLinkUp : Statement .pcieLinkUp := ofNone _ rfl rfl
theorem i3cTransfer (transfer : I3cTransfer) : Statement (.i3cTransfer transfer) := ofNone _ rfl rfl
theorem i3cRefresh : Statement .i3cRefresh := ofNone _ rfl rfl
theorem planLoadComplete : Statement .planLoadComplete := ofNone _ rfl rfl

end Sys2Proof.Laws.WordCount
end

