-- ==== Sys2Proof/Laws/Strand.lean ====
section
/-! SUPPORT. Strand keys, and what the sequencer's conditions give: a row runs its instruction, a register that may be read does not block, a tag with room
does not hold the instruction. -/

namespace Sys2Proof

open Sys2Proof.Machine Sys2Proof.Safety

@[simp] theorem StrandRef.coreOf_key (st : StrandRef) : coreOf st.key = st.core.val := by
  have := st.ctx.isLt
  simp only [coreOf, StrandRef.key]; omega

@[simp] theorem StrandRef.ctxOf_key (st : StrandRef) : ctxOf st.key = st.ctx.val := by
  have := st.ctx.isLt
  simp only [ctxOf, StrandRef.key]; omega

@[simp] theorem StrandRef.coreFin_key (st : StrandRef) : coreFin st.key = st.core := by
  have := st.core.isLt
  ext
  simp only [coreFin, StrandRef.coreOf_key, Fin.ofNat]
  omega

end Sys2Proof

namespace Sys2Proof.Machine

open Sys2Proof.Safety

theorem mayIssue_of_ready {s : State} {st : StrandRef} (h : Ready s st) : s.mayIssue st.key = true := by
  simp [State.mayIssue, h.1, h.2.1, h.2.2]

/-- A strand that may issue executes its instruction. -/
theorem runRow_of_ready {s : State} {st : StrandRef} (h : Ready s st) (f : Nat → State → Issued) :
    runRow st f s = .next (f st.key s).s := by
  simp [runRow, mayIssue_of_ready h]

theorem blocked_of_canRead {s : State} {st : StrandRef} {regs : List Nat} (h : CanRead s st regs) :
    (s.strand st.key).blocked regs = false := by
  simpa [Strand.blocked, CanRead] using h

theorem tagFull_of_room {s : State} {st : StrandRef} {w : Word0} (h : TagRoom s st w) :
    (s.strand st.key).tagFull w.tagOf = false := by
  unfold Word0.tagOf
  split
  · rename_i ht
    have := h ht
    simp [Strand.tagFull]; omega
  · rfl

/-- A scalar instruction whose sources may be read writes its result and goes past its word. -/
theorem scalarOp_of_ready {s : State} {st : StrandRef} {w : Word0} {reads : List Nat} (val : W64 → W64 → W64)
    (hr : CanRead s st reads) (ht : TagRoom s st w) :
    (scalarOp w reads val st.key s).s = WritesReg s st w.a (val ((s.strand st.key).x w.b) ((s.strand st.key).x w.c)) 1 := by
  simp [scalarOp, blocked_of_canRead hr, tagFull_of_room ht, State.goOn, WritesReg]

end Sys2Proof.Machine
end

