-- ==== Sys2Proof/Laws/Transfer.lean ====
section
/-! SUPPORT. What a launch does to the strand, the operations and memory; the launch of a rated transfer and of a vector operation. -/

namespace Sys2Proof.Machine

open Sys2Proof.Safety

/-! ### Launches -/

theorem State.launch_strand (s : State) (key : Nat) (l : Launch) :
    ((s.launch key l).s).strand key = (s.strand key).launch l.words l.tag l.regs := by
  simp [State.launch, State.endGroup]

theorem State.launch_strand_other (s : State) {key k : Nat} (l : Launch) (h : k ≠ key) :
    ((s.launch key l).s).strand k = s.strand k := by
  simp only [State.launch, State.endGroup]
  rw [State.strand_setStrand_other _ _ _ _ h]
  simp only [State.strand]
  repeat' split
  all_goals simp

/-- The operation that a launch puts in flight. -/
def State.launched (s : State) (key : Nat) (l : Launch) : InFlight :=
  { id := s.nextOp, strand := key, core := coreOf key, pc := (s.strand key).pc.toNat, engine := l.engine, kind := kindOf l.kind l.effects, tag := l.tag,
    regs := l.regs.filter (fun r => decide (r ≠ 0)), issue := s.boundary, start := l.start, vis := l.vis,
    late := s.armed 0x17 (coreOf key), later := l.later, effects := l.effects, remote := l.remote, holds := l.holds, eop := l.eop,
    from_ := s.readFrom s.nextOp (s.strand key) none, moves := l.moves }

theorem State.launch_ops (s : State) (key : Nat) (l : Launch) : ((s.launch key l).s).ops = s.ops ++ [s.launched key l] := by
  simp only [State.launch, State.endGroup, State.setStrand_ops, State.launched]
  repeat' split
  all_goals simp

theorem Strand.launch_status (st : Strand) (words : Nat) (tag : Option Nat) (regs : List Nat) :
    (st.launch words tag regs).status = .ready := by
  simp [Strand.launch, Strand.past]

theorem Strand.foldPending_pc (regs : List Nat) (st : Strand) : (regs.foldl Strand.addPending st).pc = st.pc := by
  induction regs generalizing st with
  | nil => rfl
  | cons r regs ih =>
    rw [List.foldl_cons, ih]
    unfold Strand.addPending
    split <;> simp

theorem Strand.launch_pc (st : Strand) (words : Nat) (tag : Option Nat) (regs : List Nat) :
    (st.launch words tag regs).pc = st.pc + BitVec.ofNat 15 words := by
  simp only [Strand.launch, Strand.past, Strand.foldPending_pc]
  cases tag <;> rfl

/-- A launch puts its operation in flight. -/
theorem putInFlight_launch (s : State) (st : StrandRef) (l : Launch) :
    PutInFlight s ((s.launch st.key l).s) st l.words (s.launched st.key l) := by
  refine ⟨State.launch_ops .., rfl, StrandRef.coreOf_key st, rfl, rfl, ?_, ?_, fun k hk => State.launch_strand_other s l hk, ?_, ?_, ?_, ?_, ?_, ?_⟩
  · rw [State.launch_strand, Strand.launch_status]
  · rw [State.launch_strand, Strand.launch_pc]
  all_goals simp

/-- A state that differs only in fields that a launch does not show puts the same operation in flight. -/
theorem putInFlight_of_eq {s s' t : State} {st : StrandRef} {words : Nat} {o : InFlight} (h : PutInFlight s' t st words o)
    (h1 : s'.ops = s.ops) (h2 : s'.strands = s.strands) (h3 : s'.mem = s.mem) (h4 : s'.acc = s.acc) (h5 : s'.feed = s.feed)
    (h6 : s'.signals = s.signals) (h7 : s'.dev = s.dev) (h8 : s'.plan = s.plan) (h9 : s'.boundary = s.boundary) :
    PutInFlight s t st words o := by
  obtain ⟨a1, a2, a3, a4, a5, a6, a7, a8, a9, b1, b2, b3, b4, b5⟩ := h
  have hs : ∀ k, s'.strand k = s.strand k := fun k => by simp only [State.strand, h2]
  refine ⟨h1 ▸ a1, a2, a3, hs _ ▸ a4, h9 ▸ a5, a6, ?_, ?_, h3 ▸ a9, h4 ▸ b1, h5 ▸ b2, h6 ▸ b3, h7 ▸ b4, h8 ▸ b5⟩
  · rw [a7, hs]
  · intro k hk; rw [a8 k hk, hs]

/-! ### What a transfer notes on its way -/

/-- Two states agree on everything that a launch reads or leaves alone. -/
structure SameLaunch (s t : State) : Prop where
  ops     : t.ops = s.ops
  strands : t.strands = s.strands
  mem     : t.mem = s.mem
  acc     : t.acc = s.acc
  feed    : t.feed = s.feed
  signals : t.signals = s.signals
  dev     : t.dev = s.dev
  plan    : t.plan = s.plan
  tide    : t.tide = s.tide

theorem SameLaunch.refl (s : State) : SameLaunch s s := ⟨rfl, rfl, rfl, rfl, rfl, rfl, rfl, rfl, rfl⟩

theorem SameLaunch.trans {s t u : State} (h : SameLaunch s t) (k : SameLaunch t u) : SameLaunch s u :=
  ⟨k.ops.trans h.ops, k.strands.trans h.strands, k.mem.trans h.mem, k.acc.trans h.acc, k.feed.trans h.feed, k.signals.trans h.signals,
    k.dev.trans h.dev, k.plan.trans h.plan, k.tide.trans h.tide⟩

theorem SameLaunch.boundary {s t : State} (h : SameLaunch s t) : t.boundary = s.boundary := by
  simp only [State.boundary, State.boundaryAt, State.period, State.now, h.tide, h.dev]

theorem SameLaunch.put {s s' t : State} {st : StrandRef} {words : Nat} {o : InFlight} (h : SameLaunch s s') (p : PutInFlight s' t st words o) :
    PutInFlight s t st words o :=
  putInFlight_of_eq p h.ops h.strands h.mem h.acc h.feed h.signals h.dev h.plan h.boundary

theorem SameLaunch.disarm (s : State) (i j : Nat) : SameLaunch s (s.disarm i j) := by constructor <;> simp
theorem SameLaunch.det (s : State) (b : Nat) : SameLaunch s (s.det b) := by constructor <;> simp
theorem SameLaunch.count (s : State) (r : Reg) (a b n : Nat) : SameLaunch s (s.count r a b n) := by constructor <;> simp
theorem SameLaunch.raise (s : State) (e : Event) : SameLaunch s (s.raise e) := by constructor <;> simp
theorem SameLaunch.holdPipe (s : State) (a b c : Nat) : SameLaunch s (s.holdPipe a b c) := ⟨rfl, rfl, rfl, rfl, rfl, rfl, rfl, rfl, rfl⟩
theorem SameLaunch.holdUnit (s : State) (v : Nat) (u : HeldUnit) : SameLaunch s (State.holdUnit v s u) := by
  cases u <;> exact ⟨rfl, rfl, rfl, rfl, rfl, rfl, rfl, rfl, rfl⟩

theorem SameLaunch.meeting (s : State) (place : BankPlace) (items : List Nat) (inj : Bool) : SameLaunch s (s.meeting place items inj) := by
  have go (r : Reg) (a b : Nat) (e : Event) (u : State) (hu : u = (s.count r a b 1).det 7) (p : Prop) [Decidable p] : SameLaunch s (if p then u.raise e else u) := by
    have h : SameLaunch s u := hu ▸ (SameLaunch.count ..).trans (SameLaunch.det ..)
    split
    · exact h.trans (SameLaunch.raise ..)
    · exact h
  exact go _ _ _ _ _ rfl _

theorem SameLaunch.feedCollide (s : State) (core ctx half easel : Nat) : SameLaunch s (s.feedCollide core ctx half easel) := by
  unfold State.feedCollide
  split
  · exact (SameLaunch.disarm ..).trans (SameLaunch.meeting ..)
  · exact SameLaunch.refl s

theorem SameLaunch.foldl {β : Type} (f : State → β → State) (h : ∀ s b, SameLaunch s (f s b)) (l : List β) (s : State) :
    SameLaunch s (l.foldl f s) := by
  induction l generalizing s with
  | nil => exact SameLaunch.refl s
  | cons b l ih => exact (h s b).trans (ih (f s b))

theorem SameLaunch.holdUnits (s : State) (us : List HeldUnit) (v : Nat) : SameLaunch s (s.holdUnits us v) :=
  SameLaunch.foldl _ (fun s u => SameLaunch.holdUnit s v u) us s

theorem SameLaunch.memEvent (s : State) (line bit kind package : Nat) (positions : List Nat) (source core : Nat) (alarm inj : Bool) :
    SameLaunch s (s.memEvent line bit kind package positions source core alarm inj) := SameLaunch.raise ..

theorem SameLaunch.slotMeets (s : State) (h : Half) (line core other : Nat) (inj : Bool) : SameLaunch s (s.slotMeets h line core other inj) := by
  unfold State.slotMeets
  dsimp only
  split
  · exact (((SameLaunch.count ..).trans (SameLaunch.det ..)).trans (SameLaunch.memEvent ..)).trans (SameLaunch.memEvent ..)
  · exact SameLaunch.count ..

theorem SameLaunch.memCollide (s : State) (core : Nat) (h : Half) (lines : List Nat) : SameLaunch s (s.memCollide core h lines) := by
  unfold State.memCollide
  split
  · exact SameLaunch.refl s
  · split
    · exact (SameLaunch.disarm ..).trans (SameLaunch.slotMeets ..)
    · exact SameLaunch.refl s

/-- A rating notes what the queues of memory have used, and nothing else. -/
theorem State.rate_main {s : State} {op core start steps extra : Nat} {reads writes : List (Nat × Nat)} {src : Option Nat} {r : Nat × State}
    (h : s.rate op core start steps extra reads writes src = some r) : ∃ m, r.2 = { s with main := m } := by
  unfold State.rate State.rateFor at h
  split at h
  · simp only [Option.some.injEq] at h
    exact ⟨_, by rw [← h]⟩
  · cases h

theorem State.rate_same {s : State} {op core start steps extra : Nat} {reads writes : List (Nat × Nat)} {src : Option Nat} {r : Nat × State}
    (h : s.rate op core start steps extra reads writes src = some r) : SameLaunch s r.2 := by
  obtain ⟨m, hm⟩ := State.rate_main h
  rw [hm]
  exact ⟨rfl, rfl, rfl, rfl, rfl, rfl, rfl, rfl, rfl⟩

theorem State.parityEffects_unarmed (s : State) (core : Nat) (dma : Bool) (w : Work) (more : List Effect) (h : s.armed 1 core = false) :
    s.parityEffects core dma w more = [] := by
  simp [State.parityEffects, h]

/-- A transfer that is rated starts on a state that a launch cannot tell from the one before, at its rating. -/
theorem State.transferStart_spec {s : State} (key pc : Nat) (t : Transfer) (w : Work) (more : List Effect) {r : Nat × State}
    (h : s.rate s.nextOp (coreOf key) s.boundary t.steps t.extra w.readUses w.writeUses t.src = some r) :
    ∃ x parity, s.transferStart s.nextOp key pc t w more = some x ∧ SameLaunch s x.s ∧ x.ps = r.1 ∧
      x.effects = (w.struck parity).effects key pc t.clips ++ more ++ parity ∧ (s.armed 1 (coreOf key) = false → parity = []) := by
  unfold State.transferStart
  rw [h]
  generalize hp : r.2.parityEffects (coreOf key) (t.engine == .dma) w more = parity
  have hd : SameLaunch s (if parity.isEmpty = true then r.2 else r.2.disarm 1 (coreOf key)) := by
    split
    · exact State.rate_same h
    · exact (State.rate_same h).trans (SameLaunch.disarm ..)
  refine ⟨_, parity, by rw [Option.map_some], ?_, rfl, by rw [← hp], fun ha => ?_⟩
  · dsimp only
    rw [hp]
    exact (hd.trans (SameLaunch.memCollide ..)).trans (SameLaunch.memCollide ..)
  · obtain ⟨m, hm⟩ := State.rate_main h
    rw [← hp, hm]
    exact State.parityEffects_unarmed _ _ _ _ _ ha

/-- A transfer that keeps the rules of sum windows and is rated is put in flight. -/
theorem launchTransfer_inFlight (s0 s : State) (st : StrandRef) (t : Transfer) (w : Work) (more : List Effect) (note : Nat → State → State)
    (hn : ∀ v u, SameLaunch u (note v u)) (hb : w.sumBad = false) {r : Nat × State}
    (hr : s.rate s.nextOp st.core.val s.boundary t.steps t.extra w.readUses w.writeUses t.src = some r) :
    ∃ o parity, PutInFlight s (s0.launchTransfer s st.key t w more note).s st t.words o ∧ o.engine = t.engine ∧ o.tag = t.tag ∧
      o.start = s.boundary ∧ o.vis = s.visibleAt s.boundary r.1 ∧ o.later = none ∧
      o.effects = (w.struck parity).effects st.key (s.strand st.key).pc.toNat t.clips ++ more ++ parity ∧ (s.armed 1 st.core.val = false → parity = []) := by
  obtain ⟨x, parity, hx, hs, hps, he, hp⟩ := State.transferStart_spec st.key (s.strand st.key).pc.toNat t w more
    (by rw [StrandRef.coreOf_key]; exact hr)
  unfold State.launchTransfer
  rw [if_neg (by simp [hb]), hx]
  refine ⟨_, parity, SameLaunch.put (hs.trans (hn ..)) (putInFlight_launch _ st _), rfl, rfl, hs.boundary, ?_, rfl, he,
    fun ha => hp (by rw [StrandRef.coreOf_key]; exact ha)⟩
  simp only [State.launched, State.visibleAt, State.period, hs.dev, hs.boundary, hps]

/-! ### The waiting slot of an easel -/

theorem State.freeFrom_holdUnit_same (s : State) (v : Nat) (u : HeldUnit) : (State.holdUnit v s u).freeFrom u = v := by
  cases u <;> simp [State.holdUnit, State.freeFrom]

theorem State.freeFrom_holdUnit (s : State) (v : Nat) (u x : HeldUnit) : (State.holdUnit v s u).freeFrom x = v ∨ (State.holdUnit v s u).freeFrom x = s.freeFrom x := by
  by_cases h : x = u
  · exact .inl (h ▸ State.freeFrom_holdUnit_same s v u)
  · right
    cases u <;> cases x <;> simp_all [State.holdUnit, State.freeFrom, Tab.get_set_other]

/-- Held units are free from the boundary to which they are held. -/
theorem State.freeFrom_holdUnits (us : List HeldUnit) (s : State) (v : Nat) (u : HeldUnit) (h : u ∈ us ∨ s.freeFrom u = v) :
    (s.holdUnits us v).freeFrom u = v := by
  induction us generalizing s with
  | nil => simpa [State.holdUnits] using h
  | cons x us ih =>
    refine ih (State.holdUnit v s x) ?_
    by_cases hx : u = x
    · exact .inr (hx ▸ State.freeFrom_holdUnit_same s v x)
    · rcases h with h | h
      · exact .inl (by simpa [hx] using h)
      · rcases State.freeFrom_holdUnit s v x u with e | e
        · exact .inr e
        · exact .inr (e.trans h)

theorem State.freeFrom_launch (s : State) (key : Nat) (l : Launch) (u : HeldUnit) : ((s.launch key l).s).freeFrom u = s.freeFrom u := by
  cases u <;> simp [State.freeFrom]

theorem foldl_max_ge (us : List HeldUnit) (f : HeldUnit → Nat) (m : Nat) :
    m ≤ us.foldl (fun t u => max t (f u)) m ∧ ∀ u ∈ us, f u ≤ us.foldl (fun t u => max t (f u)) m := by
  induction us generalizing m with
  | nil => simp
  | cons x us ih =>
    have h := ih (max m (f x))
    refine ⟨le_trans (le_max_left _ _) h.1, fun u hu => ?_⟩
    rcases List.mem_cons.1 hu with rfl | hu
    · exact le_trans (le_max_right _ _) h.1
    · exact h.2 u hu

/-- What issuing an operation to an easel's waiting slot does. `b` is a state that a launch cannot tell from the one in which the operation starts now. -/
theorem slotIssue_slotted (s b : State) (st : StrandRef) (opcode words : Nat) (w : Word0) (e : Engine) (k : OpKind) (l : LateStart) (units : List HeldUnit)
    (ready : Bool) (x : Started) (hb : SameLaunch b x.s) (hd : x.s.dev = s.dev) (ht : x.s.boundary = s.boundary) :
    Slotted s b (s.slotIssue st.key opcode words e k w.tagOf l units ready x).s st words w e l units (ready = true) x.ps x.effects := by
  have hv : ∀ a c, x.s.visibleAt a c = s.visibleAt a c := fun a c => by simp only [State.visibleAt, State.period, hd]
  have hg : (ready && s.unitsFree units) = true ↔ ready = true ∧ ∀ u ∈ units, s.freeFrom u ≤ s.boundary := by
    simp [State.unitsFree]
  unfold State.slotIssue
  by_cases h : (ready && s.unitsFree units) = true
  · rw [if_pos h]
    refine ⟨(x.s.holdUnits units (x.s.visibleAt x.s.boundary x.ps)).launched st.key
      { opcode := opcode, words := words, engine := e, kind := k, tag := w.tagOf, regs := [], start := x.s.boundary,
        vis := x.s.visibleAt x.s.boundary x.ps, later := none, effects := x.effects, remote := .none, reads := x.reads, feeds := x.feeds, rated := x.ps, eop := x.eop,
        holds := units }, rfl, rfl, rfl, ?_, fun _ => ⟨?_, ht, rfl, rfl, fun u hu => ?_⟩,
      fun n => absurd (hg.1 h) n⟩
    · show x.s.visibleAt x.s.boundary x.ps = s.visibleAt x.s.boundary x.ps
      exact hv ..
    · exact SameLaunch.put (hb.trans (SameLaunch.holdUnits ..)) (putInFlight_launch _ st _)
    · rw [State.freeFrom_launch]
      exact State.freeFrom_holdUnits _ _ _ _ (.inl hu)
  · rw [if_neg h]
    have hf := foldl_max_ge units s.freeFrom (s.boundary + s.period)
    exact ⟨_, rfl, rfl, rfl, rfl, fun n => absurd (hg.2 n) h,
      fun _ => ⟨putInFlight_launch s st _, hf.1, hf.2, rfl, rfl, fun u => State.freeFrom_launch ..⟩⟩

/-! ### Vector operations -/

theorem SameLaunch.holdVector (s : State) (core vis : Nat) : SameLaunch s { s with vectorFree := Tab.set 0 s.vectorFree core vis } :=
  ⟨rfl, rfl, rfl, rfl, rfl, rfl, rfl, rfl, rfl⟩

/-- A vector-class operation that keeps the rules of sum windows is put in flight. -/
theorem vecLaunch_issues (c : Instr) (s b : State) (st : StrandRef) (a : VecArgs) (l : VecLaunch) (ps : Nat)
    (h : exec c s = .next (b.vecLaunch st.key a l ps).s) : VectorIssues c s b st a l ps := by
  unfold VectorIssues
  generalize hx : b.vectorEffects st.key (b.strand st.key).pc.toNat l.opcode a = x
  dsimp only
  intro hb
  unfold State.vecLaunch at h
  simp only [hx] at h
  rw [if_neg (by simp [hb])] at h
  simp only [StrandRef.coreOf_key] at h
  generalize hvis : b.visibleAt (b.vecStart st.core.val l.pal) (b.stepsPs (x.2.2.withSums x.1 l.steps) + ps) = vis at h
  generalize hu : (if b.vecStart st.core.val l.pal = b.boundary then x.1 else b) = u at h
  generalize hp : (if l.pal = true then ({ u with vectorFree := Tab.set 0 u.vectorFree st.core.val vis } : State).holdPipe st.core.val 1 vis
      else { u with vectorFree := Tab.set 0 u.vectorFree st.core.val vis }) = p at h
  have sl : SameLaunch u p := by
    rw [← hp]
    split
    · exact (SameLaunch.holdVector ..).trans (SameLaunch.holdPipe ..)
    · exact SameLaunch.holdVector ..
  have hv : Tab.get 0 p.vectorFree st.core.val = vis := by
    rw [← hp]
    split <;> simp [State.holdPipe]
  refine ⟨_, p.launched st.key
    { opcode := l.opcode, words := l.words, engine := .vector, kind := l.kind, tag := a.w.tagOf, regs := l.regs, start := b.vecStart st.core.val l.pal, vis := vis,
      later := if b.vecStart st.core.val l.pal = b.boundary then none else some (.vector l.opcode a),
      effects := if b.vecStart st.core.val l.pal = b.boundary then x.2.1 else [], remote := .none, reads := x.2.2.readSpans,
      holds := .vector st.core.val :: if l.pal then [.pipe (2 * st.core.val + 1)] else [] },
    h, rfl, rfl, rfl, ?_, ?_, fun r => ?_, fun hs => ?_, fun hs => ?_⟩
  · simp only [State.launched, ← hvis, State.stepsPs]
  · rw [State.launch_vectorFree, hv]
    rfl
  · simp [State.launched]
  · have hs' : b.vecStart st.core.val l.pal = b.boundary := hs
    rw [if_pos hs'] at hu
    exact ⟨by simp [State.launched, hs'], by simp [State.launched, hs'], hu ▸ SameLaunch.put sl (putInFlight_launch p st _)⟩
  · have hs' : ¬ b.vecStart st.core.val l.pal = b.boundary := hs
    rw [if_neg hs'] at hu
    exact ⟨by simp [State.launched, hs'], by simp [State.launched, hs'], hu ▸ SameLaunch.put sl (putInFlight_launch p st _)⟩

end Sys2Proof.Machine
end

