-- ==== Sys2Proof/Tests/Slice0.lean ====
section
/-! SUPPORT. Tests: ill-formed commands are refused, words decode, single steps give the values of the manual's rules, and the hypotheses of the statements can
be met. Expected values are worked out by hand from the rules that each comment names. -/

namespace Sys2Proof.Tests

set_option Elab.async false

open Sys2Proof Sys2Proof.Machine Sys2Proof.Safety

/-! ### Small states -/

/-- The strand of the tests: context 7 of core 3. -/
def st : StrandRef := { core := 3, ctx := 7 }

/-- A word 0 with registers and an immediate. -/
def word (xa xb xc xd : BitVec 5) (imm : BitVec 29) : Word0 := { tag := 0, tagEn := false, xa := xa, xb := xb, xc := xc, xd := xd, imm := imm }

/-- The same word counting on tag 3. -/
def tagged (w : Word0) : Word0 := { w with tag := 3, tagEn := true }

/-- The strand READY at word 5 with some registers. -/
def strand (regs : Tab W64) : Strand := { Strand.idle with status := .ready, regs := regs, pc := 5 }

/-- The module in a device state, its tide running at a stroke boundary. -/
def mod (d : DevState) : State :=
  { State.reset with dev := { Device.reset with state := d, everReady := true, perstLow := false }, tide := { Tide.reset with running := true, count := 4000 } }

/-- RUNNING, with the strand READY and some registers. -/
def run (regs : Tab W64) : State := { mod .running with strands := [(st.key, strand regs)] }

/-- A register set in a state. -/
def withReg (s : State) (r : Reg) (v : W64) : State := s.setReg r v

/-- The state after a command, if it gives one. -/
def after (c : Instr) (s : State) : Option State := match exec c s with
  | .next t => some t
  | _ => none

/-- A value of the state after a command. -/
def get {α : Type} (c : Instr) (s : State) (f : State → α) : Option α := (after c s).map f

/-- A strand register after a command. -/
def xOf (r : Nat) (t : State) : W64 := (t.strand st.key).x r

/-- The status, PC and fault of the strand. -/
def at_ (t : State) : StrandStatus × Nat × Nat := ((t.strand st.key).status, (t.strand st.key).pc.toNat, (t.strand st.key).fault.toNat)

/-! ### Words (R144, R146, R147, R486) -/

/-- ADD x2, x1, x3, 5: opcode 0x01 in bits 63–56, XA in 48–44, XB in 43–39, XC in 38–34, IMM in 28–0. -/
theorem test_decode_add : decodeSsi false st 0x0100_208C_0000_0005 0 0 = some (.add st (word 2 1 3 0 5)) := by decide +kernel

/-- LI64 x5 has two words: WORDS − 1 = 1 in bits 55–54. -/
theorem test_decode_li64 : decodeSsi false st 0x0F40_5000_0000_0000 0x123456789ABCDEF0 0 = some (.li64 st (word 5 0 0 0 0) 0x123456789ABCDEF0) := by
  decide +kernel

theorem test_decode_end : decodeSsi false st 0x1D00_0000_0000_0000 0 0 = some (.endStrand st (word 0 0 0 0 0)) := by decide +kernel

/-- EOP, class T: three words. -/
theorem test_decode_eop : decodeSsi false st 0x2080_008C_4000_0010 0x40 0x40 = some (.eop st (word 0 1 3 2 0x10) 0x40 0x40) := by decide +kernel

/-- VEW, class U: two words. -/
theorem test_decode_vew : decodeSsi false st 0x3040_0000_0000_1000 0 0 = some (.vew st (word 0 0 0 0 0x1000) 0) := by decide +kernel

/-- DCOPY, class D: two words. -/
theorem test_decode_dcopy : decodeSsi false st 0x3840_0000_0000_0800 0x8080000000000000 0 = some (.dcopy st (word 0 0 0 0 0x800) 0x8080000000000000) := by
  decide +kernel

/-- FSIG, class F. -/
theorem test_decode_fsig : decodeSsi false st 0x4300_008C_4000_0007 0 0 = some (.fsig st (word 0 1 3 2 7)) := by decide +kernel

/-- RCONTRIB, class R. -/
theorem test_decode_rcontrib : decodeSsi false st 0x4840_0000_0000_1000 0 0 = some (.rcontrib st (word 0 0 0 0 0x1000) 0) := by decide +kernel

/-- BPUSH with TAG 3 enabled: TAG in bits 53–50, TAG_EN in bit 49; class Q. -/
theorem test_decode_bpush : decodeSsi false st 0x500E_0090_0000_0010 0 0 = some (.bpush st (tagged (word 0 1 4 0 0x10))) := by decide +kernel

/-- FENCE, class Y, is no SSI-1 opcode. -/
theorem test_decode_fence :
    decodeSsi false st 0x5D00_0000_0000_0001 0 0 = some (.fence st (word 0 0 0 0 1)) ∧ decodeSsi true st 0x5D00_0000_0000_0001 0 0 = none := by decide +kernel

/-- FEN is an SSI-1 opcode only. -/
theorem test_decode_fen :
    decodeSsi true st 0x9F00_0000_0000_0001 0 0 = some (.fen st (word 0 0 0 0 1)) ∧ decodeSsi false st 0x9F00_0000_0000_0001 0 0 = none := by decide +kernel

/-- R146: another WORDS value, a bit of an unused field, and an undefined opcode are refused. -/
theorem test_decode_refused :
    decodeSsi false st 0x0140_208C_0000_0005 0 0 = none ∧ decodeSsi false st 0x1D00_0000_0000_0001 0 0 = none ∧
      decodeSsi false st 0x1D00_1000_0000_0000 0 0 = none ∧ decodeSsi false st 0x1300_0000_0000_0000 0 0 = none := by decide +kernel

/-- The table of operations and events gives bits to no row. -/
theorem test_decode_table : decodeTableWord 64 0x0100_208C_0000_0005 = none := rfl

/-! ### Ill-formed commands -/

/-- A descriptor of mailbox 0 with an inline payload and no reply buffer. -/
def desc (len : Nat) (payload : List Byte) : Desc :=
  { mb := 0, flags := 0, resv := 0, tag := 9, payloadLen := len, replyLen := 0, replyAddr := 0, indirect := 0, rest := [],
    payload := some (payload ++ List.replicate (40 - payload.length) 0), bufOk := true, replyOk := true }

/-- A descriptor with an indirect payload, and a reply buffer of 128 KiB. -/
def descAt (payload : List Byte) : Desc :=
  { desc payload.length [] with
    flags := 1, replyLen := 131072, replyAddr := 0x10000, indirect := 0x40000, rest := List.replicate 32 0, payload := some payload }

theorem test_wf_holds : (Instr.hello (desc 2 [2, 3])).wf = true ∧ (Instr.add st (word 2 1 3 0 5)).wf = true ∧ (Instr.bar2Request (.read 0 8)).wf = true := by
  decide +kernel

theorem test_wf_payload : (Instr.hello { desc 2 [2, 3] with payload := some [2, 3] }).wf = false ∧
    (Instr.hello { desc 2 [2, 3] with payload := none }).wf = false ∧ (Instr.hello { desc 2 [2, 3] with payloadLen := 2 ^ 32 }).wf = false := by decide +kernel

theorem test_wf_reset_type : (Instr.resetWarm (desc 1 [1])).wf = false ∧ (Instr.logReadPins (desc 16 [0])).wf = false := by decide +kernel

theorem test_wf_cell_size : (Instr.cellReceive 0 [] 0 0).wf = false ∧ (Instr.reduceCellCommit 0 (List.replicate 319 0)).wf = false := by decide +kernel

theorem test_wf_image : (Instr.planLoad (desc 24 []) { scatter := some [(0, 4)], bytes := some [1] }).wf = false ∧
    (Instr.planLoad (desc 24 []) { scatter := none, bytes := some [1] }).wf = false := by decide +kernel

theorem test_wf_boundary : (Instr.strokeBoundary [] [800] []).wf = false ∧ (Instr.strokeBoundary [800] [800] [1, 1]).wf = false := by decide +kernel

theorem test_wf_frame : (Instr.memoryFrame [40]).wf = false := by decide +kernel

theorem test_wf_slot : (Instr.memorySlot .write 0 (2 ^ 32) [] []).wf = false ∧ (Instr.memorySlot .write 0 0 [(256, 0)] []).wf = false ∧
    (Instr.memorySlot .write 0 0 [(1, 0), (1, 2)] []).wf = false ∧ (Instr.memorySlot .read 0 0 [] [{ slot := 0, pos := 36, diff := 1 }]).wf = false ∧
    (Instr.dramScrub 0 0 [{ slot := 0, pos := 3, diff := 0 }]).wf = false := by decide +kernel

theorem test_wf_lists : (Instr.sramScrub (.pad 0 0) [.bits 1024 true]).wf = false ∧ (Instr.sumContribution .service 0 0 [(16384, 0)]).wf = false ∧
    (Instr.coreSelfTestDone [3, 3]).wf = false ∧ (Instr.memoryTrainingDone [3, 3]).wf = false ∧ (Instr.chartSelectComplete [1, 1] []).wf = false := by decide +kernel

theorem test_wf_registers : (Instr.registerWrite 0 2 0).wf = false ∧ (Instr.registerWrite 0 4 (2 ^ 32)).wf = false ∧ (Instr.registerWrite (2 ^ 24) 8 0).wf = false ∧
    (Instr.registerWrite (2 ^ 24) 4 0).wf = true ∧ (Instr.powerCap []).wf = false ∧ (Instr.thermal .west ⟨40, [40]⟩).wf = false ∧ (Instr.rcRead (2 ^ 24) 4).wf = false ∧
    (Instr.summaryClear 0x58 8 0).wf = false ∧ (Instr.mbEnable 0 4).wf = false ∧ (Instr.mbDisable 0 0x80000004).wf = false := by decide +kernel

theorem test_wf_windows : (Instr.bar2Request (.read 0 0)).wf = false ∧ (Instr.bar2Request (.write (2 ^ 36) [some 1])).wf = false ∧
    (Instr.leafSumStart .west 0 (2 ^ 20)).wf = false ∧ (Instr.nodeCombine .west 0 (2 ^ 20)).wf = false ∧ (Instr.nodeOutputComplete .west 0 (2 ^ 20)).wf = false ∧
    (Instr.backupDeadline .west 0 true (2 ^ 20)).wf = false := by decide +kernel

theorem test_wf_train : (Instr.linkTrainingAdvance 0 { laser := true, peerLight := true, aligned := true, payload := [], delayPs := 0 }).wf = false := by decide +kernel

theorem test_wf_words : (Instr.endStrand st (word 1 0 0 0 0)).wf = false ∧ (Instr.li st (word 1 1 0 0 0)).wf = false := by decide +kernel

theorem test_wf_entries : (Instr.mbCmdDoorbell 0 1 [some { opcode := 1, desc := { desc 2 [] with payload := none }, image := { scatter := none, bytes := none } }]).wf = false := by
  decide +kernel

/-! ### Scalar instructions (R147, R149, R150) -/

/-- The strand may issue, its operands may be read, its tag has room. -/
theorem witness_scalar : Ready (run [(1, 7), (3, 8)]) st ∧ CanRead (run [(1, 7), (3, 8)]) st [(word 2 1 3 0 5).b, (word 2 1 3 0 5).c] ∧
    TagRoom (run [(1, 7), (3, 8)]) st (tagged (word 2 1 3 0 5)) := by
  unfold Ready CanRead TagRoom; decide +kernel

/-- 7 + 8 + 5 = 20. -/
theorem test_add : get (.add st (word 2 1 3 0 5)) (run [(1, 7), (3, 8)]) (xOf 2) = some 20 := by decide +kernel
/-- Wraps, with an immediate of −1: 0 + 0 − 1. -/
theorem test_add_wraps : get (.add st (word 2 1 3 0 0x1FFFFFFF)) (run []) (xOf 2) = some 0xFFFFFFFFFFFFFFFF := by decide +kernel
/-- A write to x0 is discarded (R135). -/
theorem test_add_x0 : get (.add st (word 0 1 3 0 5)) (run [(1, 7), (3, 8)]) (xOf 0) = some 0 := by decide +kernel
theorem test_sub : get (.sub st (word 1 1 3 0 0)) (run [(1, 7), (3, 8)]) (xOf 1) = some 0xFFFFFFFFFFFFFFFF := by decide +kernel
theorem test_and : get (.and st (word 2 1 3 0 4)) (run [(1, 0xF5), (3, 0x30)]) (xOf 2) = some 0x34 := by decide +kernel
theorem test_or : get (.or st (word 2 1 3 0 4)) (run [(1, 0xF1), (3, 0x30)]) (xOf 2) = some 0xF5 := by decide +kernel
theorem test_xor : get (.xor st (word 2 1 3 0 4)) (run [(1, 0xF1), (3, 0x30)]) (xOf 2) = some 0xC5 := by decide +kernel
/-- The distance is taken modulo 64: 60 + 5 = 1. -/
theorem test_shl : get (.shl st (word 2 1 3 0 5)) (run [(1, 0x8000000000000001), (3, 60)]) (xOf 2) = some 2 := by decide +kernel
theorem test_shr : get (.shr st (word 2 1 3 0 5)) (run [(1, 0x8000000000000001), (3, 60)]) (xOf 2) = some 0x4000000000000000 := by decide +kernel
theorem test_sra : get (.sra st (word 2 1 3 0 5)) (run [(1, 0x8000000000000001), (3, 60)]) (xOf 2) = some 0xC000000000000000 := by decide +kernel
theorem test_mul : get (.mul st (word 2 1 3 0 0)) (run [(1, 0xFFFFFFFFFFFFFFFF), (3, 2)]) (xOf 2) = some 0xFFFFFFFFFFFFFFFE := by decide +kernel
theorem test_mins : get (.mins st (word 2 1 3 0 0)) (run [(1, 0xFFFFFFFFFFFFFFFF), (3, 2)]) (xOf 2) = some 0xFFFFFFFFFFFFFFFF := by decide +kernel
theorem test_maxs : get (.maxs st (word 2 1 3 0 0)) (run [(1, 0xFFFFFFFFFFFFFFFF), (3, 2)]) (xOf 2) = some 2 := by decide +kernel
theorem test_slt : get (.slt st (word 2 1 3 0 0)) (run [(1, 0xFFFFFFFFFFFFFFFF), (3, 2)]) (xOf 2) = some 1 := by decide +kernel
theorem test_sltu : get (.sltu st (word 2 1 3 0 0)) (run [(1, 0xFFFFFFFFFFFFFFFF), (3, 2)]) (xOf 2) = some 0 := by decide +kernel
theorem test_li : get (.li st (word 2 0 0 0 0x10000000)) (run []) (xOf 2) = some 0xFFFFFFFFF0000000 := by decide +kernel
theorem test_li64 : get (.li64 st (word 2 0 0 0 0) 0x123456789) (run []) (fun t => (xOf 2 t, (t.strand st.key).pc)) = some (0x123456789, 7) := by decide +kernel
/-- R150: the tide count of the boundary, and a reserved value. -/
theorem test_sysrd : get (.sysrd st (word 2 0 0 0 0)) (run []) (xOf 2) = some 4000 ∧ get (.sysrd st (word 2 0 0 0 6)) (run []) at_ = some (.faulted, 5, 1) := by
  decide +kernel
/-- The values 1 to 5: core, context, active cores of grade A, step number, chip. -/
theorem test_sysrd_values : (List.range 5).map (fun i => get (.sysrd st (word 2 0 0 0 (BitVec.ofNat 29 (i + 1)))) (run []) (xOf 2)) =
    [some 3, some 7, some 128, some 0, some 0] := by decide +kernel

/-! ### Branches and waits (R136, R137, R143) -/

/-- The strand with word 9 marked as the first word of an instruction. -/
def marked (regs : Tab W64) : State := { run regs with marks := [(32768 * 3 + 9, true)] }

theorem test_jmp : get (.jmp st (word 0 0 0 0 9)) (marked []) at_ = some (.ready, 9, 0) ∧ get (.jmp st (word 0 0 0 0 8)) (marked []) at_ = some (.faulted, 5, 2) := by
  decide +kernel
theorem test_beqz : get (.beqz st (word 0 1 0 0 9)) (marked []) at_ = some (.ready, 9, 0) ∧ get (.beqz st (word 0 1 0 0 9)) (marked [(1, 1)]) at_ = some (.ready, 6, 0) := by
  decide +kernel
theorem test_bnez : get (.bnez st (word 0 1 0 0 9)) (marked [(1, 1)]) at_ = some (.ready, 9, 0) ∧ get (.bnez st (word 0 1 0 0 9)) (marked []) at_ = some (.ready, 6, 0) := by
  decide +kernel
theorem test_blt : get (.blt st (word 0 1 2 0 9)) (marked [(1, 0xFFFFFFFFFFFFFFFF)]) at_ = some (.ready, 9, 0) ∧
    get (.blt st (word 0 2 1 0 9)) (marked [(1, 0xFFFFFFFFFFFFFFFF)]) at_ = some (.ready, 6, 0) := by decide +kernel
theorem test_nop : get (.nop st (word 0 0 0 0 0)) (run []) at_ = some (.ready, 6, 0) := by decide +kernel
/-- A strand that is not READY executes nothing. -/
theorem test_not_ready : after (.nop st (word 0 0 0 0 0)) { run [] with strands := [] } = some { run [] with strands := [] } := by decide +kernel

/-- SPAWN starts context 8 with x1 := x3 (R137). -/
theorem test_spawn : get (.spawn st (word 0 1 3 0 9)) (marked [(1, 8), (3, 5)]) (fun t =>
    let c := t.strand (2048 * 3 + 8)
    (c.status, c.pc.toNat, c.x 1, c.notBefore)) = some (.ready, 9, 5, 4004) := by decide +kernel
theorem test_spawn_busy : get (.spawn st (word 0 1 3 0 9)) (marked [(1, 7)]) at_ = some (.faulted, 5, 0x0B) ∧
    get (.spawn st (word 0 1 3 0 9)) (marked [(1, 2048)]) at_ = some (.faulted, 5, 1) := by decide +kernel
theorem witness_spawn : Ready (marked [(1, 8)]) st ∧ CanRead (marked [(1, 8)]) st [(word 0 1 3 0 9).b, (word 0 1 3 0 9).c] ∧
    ((marked [(1, 8)]).strand (2048 * 3 + 8)).status = .free ∧ (marked [(1, 2047)]).codeMark 3 9 = true ∧ (marked [(1, 8)]).codeMark 3 0x7FFF = false ∧
    ((marked [(1, 7)]).strand (2048 * 3 + 7)).status ≠ .free := by
  unfold Ready CanRead; decide +kernel
theorem test_end : get (.endStrand st (word 0 0 0 0 0)) (run []) at_ = some (.done, 6, 0) := by decide +kernel
/-- The task is done with its last strand; with a plan it ends in LOADED. -/
theorem witness_end : Ready (run []) st ∧ (run []).plan = none ∧ ((run []).setStrand st.key { (strand []).past 1 with status := .done }).taskDone = true ∧
    ((marked []).setStrand 0 (strand [])).taskDone = false := by
  unfold Ready; decide +kernel

/-- WAITT waits until the tide reaches xB + IMM[15:0]: 4000 is at hand, 4001 is not. -/
theorem test_waitt : get (.waitt st (word 0 1 0 0 0x10000)) (run [(1, 4000)]) at_ = some (.ready, 6, 0) ∧
    get (.waitt st (word 0 1 0 0 0x10001)) (run [(1, 4000)]) at_ = some (.waiting, 5, 0) := by decide +kernel
/-- TWAIT on tag 3 with a count of one waits; on tag 2 it goes on. -/
def counting : State := { run [] with strands := [(st.key, { strand [] with tags := [(3, 1)] })] }
theorem test_twait : get (.twait st (word 0 0 0 0 8)) counting at_ = some (.waiting, 5, 0) ∧ get (.twait st (word 0 0 0 0 4)) counting at_ = some (.ready, 6, 0) := by
  decide +kernel
theorem test_sigwait : get (.sigwait st (word 0 1 2 0 4)) { run [(1, 1), (2, 3)] with signals := [(1024 * 3 + 5, 3)] } at_ = some (.ready, 6, 0) ∧
    get (.sigwait st (word 0 1 2 0 4)) { run [(1, 1), (2, 4)] with signals := [(1024 * 3 + 5, 3)] } at_ = some (.waiting, 5, 0) := by decide +kernel
theorem test_swt : get (.swt st (word 0 1 2 0 4)) { run [(1, 1), (2, 3)] with signals := [(1024 * 3 + 5, 3)] } at_ = some (.ready, 6, 0) := by decide +kernel
theorem test_sigadd : get (.sigadd st (word 0 1 2 0 4)) (run [(1, 1), (2, 3)]) (fun t => t.ops.map fun o => (o.vis, o.effects)) =
    some [(4004, [.signal (1024 * 3 + 5) 3])] ∧ get (.sigadd st (word 0 1 2 0 4)) (run [(1, 1020), (2, 3)]) at_ = some (.faulted, 5, 0x0C) := by decide +kernel
/-- An operation of the strand that is a plain read. -/
def flying : InFlight :=
  { id := 4, strand := st.key, core := 3, pc := 4, engine := .scalar, kind := .plain, tag := some 3, regs := [2], issue := 4000, start := 4000, vis := 4008, late := false,
    later := none, effects := [.reg st.key 2 11], remote := .none }
theorem test_fence : get (.fence st (word 0 0 0 0 0)) (run []) at_ = some (.ready, 6, 0) ∧
    get (.fence st (word 0 0 0 0 0)) { run [] with ops := [flying] } at_ = some (.waiting, 5, 0) := by decide +kernel
theorem test_fen : get (.fen st (word 0 0 0 0 1)) (run []) at_ = some (.ready, 6, 0) := by decide +kernel
theorem witness_waits : Ready (run [(1, 1), (2, 3)]) st ∧ ((1 : W64) + BitVec.ofNat 64 ((word 0 1 2 0 1022).f 9 0)).toNat = 1023 ∧
    (∀ o ∈ (run []).ops, o.strand ≠ st.key) ∧ (word 0 0 0 0 2).f 1 0 = 2 ∧ (word 0 0 0 0 1).f 1 0 = 1 := by
  unfold Ready; decide +kernel

/-- A register that an operation will write makes the strand wait; so does a tag at 255 (R140, R141). -/
theorem test_waiting : get (.add st (word 2 1 3 0 5)) { run [] with strands := [(st.key, (strand []).addPending 1)] } at_ = some (.waiting, 5, 0) ∧
    get (.add st (tagged (word 2 1 3 0 5))) { run [] with strands := [(st.key, { strand [] with tags := [(3, 255)] })] } at_ = some (.waiting, 5, 0) := by decide +kernel
theorem witness_waiting : let s : State := { run [] with strands := [(st.key, (strand []).addPending 1)] }
    Ready s st ∧ (s.strand st.key).wait = none ∧ s.armed 0x18 3 = false ∧ (s.strand st.key).isPending 1 = true := by
  unfold Ready; decide +kernel

/-! ### The pad (R147, R217) -/

/-- LD reads 8 bytes of the own pad 5 steps on: 6,250 ps are two strokes of 4 ns. -/
theorem test_ld : get (.ld st (word 2 1 0 0 0)) { run [(1, 0x1FFFF8)] with mem := [(padBase 3 + 0x1FFFF8, 0x5A)] }
    (fun t => t.ops.map fun o => (o.vis, o.regs, o.effects)) = some [(4008, [2], [.reg st.key 2 0x5A])] := by decide +kernel
theorem test_ld_range : get (.ld st (word 2 1 0 0 0)) (run [(1, 0x1FFFF9)]) at_ = some (.faulted, 5, 3) := by decide +kernel
theorem test_st : get (.st st (word 0 1 2 0 8)) (run [(1, 0), (2, 0x0102)]) (fun t => t.ops.map fun o => o.effects) =
    some [[.mem (padBase 3 + 8) [2, 1, 0, 0, 0, 0, 0, 0]]] := by decide +kernel
theorem witness_pad : Ready (run [(1, 0x1FFFF8)]) st ∧ ((run [(1, 0x1FFFF8)]).strand st.key).x 1 + (0#29).signExtend 64 = 0x1FFFF8 ∧
    0x1FFFF8 + 8 ≤ 0x200000 ∧ 0x200000 < 0x1FFFF9 + 8 := by
  unfold Ready; decide +kernel

/-! ### Berths (R155–R157) -/

/-- A berth of depth 4 with its ring at pad offset 0x800, open to pushes from other chips. -/
def berthOf (pushed popped : Nat) : Nat := 2 ^ 49 + 4 * 2 ^ 35 + 0x100 * 2 ^ 17 + popped * 2 ^ 64 + pushed * 2 ^ 96

/-- The strand with berth 2 of its core, and 0x77 in its slot 0. -/
def berthed (regs : Tab W64) (pushed popped : Nat) : State := ((run regs).setBerth 3 2 (berthOf pushed popped)).store (padBase 3 + 0x800) [0x77]

/-- PUSHED counts at issue and slot 3 is written 2 steps on; the fifth entry waits; DEPTH 0 faults. -/
theorem test_bpush : get (.bpush st (word 0 1 4 0 1)) (berthed [(1, 1), (4, 9)] 3 0) (fun t => (berthOcc (t.berth 3 2), t.ops.map fun o => (o.vis, o.effects))) =
    some (4, [(4004, [.berthEntry (4096 * 3 + 2) (padBase 3 + 0x800 + 24) 9])]) := by decide +kernel
theorem test_bpush_full : get (.bpush st (word 0 1 4 0 1)) (berthed [(1, 1)] 4 0) at_ = some (.waiting, 5, 0) ∧
    get (.bpush st (word 0 1 4 0 1)) (run [(1, 1)]) at_ = some (.faulted, 5, 0x0C) := by decide +kernel
theorem test_qpush : get (.qpush st (word 0 1 4 0 1)) (berthed [(1, 1), (4, 9)] 3 0) (fun t => berthOcc (t.berth 3 2)) = some 4 := by decide +kernel
/-- POPPED counts at issue and the oldest entry goes to x2. -/
theorem test_bpop : get (.bpop st (word 2 1 0 0 1)) (berthed [(1, 1)] 1 0) (fun t => (berthOcc (t.berth 3 2), t.ops.map fun o => o.effects)) =
    some (0, [[.reg st.key 2 0x77]]) := by decide +kernel
theorem test_qpop : get (.qpop st (word 2 1 0 0 1)) (berthed [(1, 1)] 1 0) (fun t => t.ops.map fun o => o.effects) = some [[.reg st.key 2 0x77]] := by decide +kernel
/-- BTRY of an empty berth answers x5 := 0, of one with an entry 1. -/
theorem test_btry : get (.btry st (word 2 1 0 5 1)) (berthed [(1, 1)] 0 0) (fun t => t.ops.map fun o => o.effects) = some [[.reg st.key 5 0]] ∧
    get (.btry st (word 2 1 0 5 1)) (berthed [(1, 1)] 1 0) (fun t => t.ops.map fun o => o.effects) = some [[.reg st.key 2 0x77, .reg st.key 5 1]] := by decide +kernel
/-- The counts wrap: 1 pushed after 2^32, 3 popped before. -/
theorem test_bcount : get (.bcount st (word 2 1 0 0 1)) (berthed [(1, 1)] 1 (2 ^ 32 - 3)) (fun t => t.ops.map fun o => o.effects) = some [[.reg st.key 2 4]] := by
  decide +kernel
theorem witness_berths : let s := berthed [(1, 1), (4, 9)] 3 0
    Ready s st ∧ CanRead s st [1, 4] ∧ (1 : W64).toNat + 1 < 4096 ∧ berthDepth (s.berth 3 2) = 4 ∧ berthOcc (s.berth 3 2) = 3 ∧ berthBroken (s.berth 3 2) = false ∧
      s.berthHead 3 2 (s.berth 3 2) = true ∧ berthOcc ((berthed [] 4 0).berth 3 2) = 4 ∧ (berthed [] 0 0).berthHead 3 2 ((berthed [] 0 0).berth 3 2) = false ∧
      berthBroken ((s.setBerth 3 2 (2 ^ 48 + 4 * 2 ^ 35)).berth 3 2) = true := by
  unfold Ready CanRead; decide +kernel

/-! ### Locks (R163–R166) -/

/-- Lock 5 of core 3: two entries open a round; round 6 collects, with one entry. -/
def locked (regs : Tab W64) (held : Nat) : State :=
  ((run regs).setFld (.lockCfg 3 5) 63 48 2).setReg (.lockState 3 5) (BitVec.ofNat 64 (6 * 2 ^ 32 + held))

theorem test_lenter : get (.lenter st (word 2 1 4 0 5)) (locked [(1, 6), (4, 0xF0FFFFFFFE)] 1)
    (fun t => (t.chamber (64 * 3 + 5) 0, (t.strand st.key).status, (t.lockx_ (64 * 3 + 5)).side)) = some (2, .waiting, [0xF0FFFFFFFE, 0xFFFFFFFF]) := by decide +kernel
theorem test_larrive : get (.larrive st (word 0 1 4 0 5)) (locked [(1, 7)] 1) (fun t => (t.chamber (64 * 3 + 5) 1, at_ t)) = some (1, .ready, 6, 0) := by decide +kernel
/-- A round below, an entry too many, and an entry two rounds ahead. -/
theorem test_lock_refused : get (.lenter st (word 2 1 4 0 5)) (locked [(1, 5)] 1) at_ = some (.faulted, 5, 0x0F) ∧
    get (.lenter st (word 2 1 4 0 5)) (locked [(1, 6)] 2) at_ = some (.faulted, 5, 0x10) ∧ get (.lenter st (word 2 1 4 0 5)) (locked [(1, 8)] 1) at_ = some (.parked, 5, 0) ∧
    get (.larrive st (word 0 1 4 0 4)) (locked [(1, 6)] 1) at_ = some (.faulted, 5, 0x0E) := by decide +kernel
/-- An entry two rounds ahead counts as LOCK_OVERRUN in both modes, and is raised in STRICT. -/
theorem test_lock_overrun : get (.larrive st (word 0 1 4 0 5)) (locked [(1, 8)] 1) (fun t => (t.fld (.seqCount 3) 63 48, t.fld (.seqCause 3) 2 2)) = some (1, 1) := by
  decide +kernel
theorem test_bar : get (.bar st (word 2 1 0 0 5)) (locked [(1, 6)] 1) (fun t => (t.lockx_ (64 * 3 + 5)).side) = some [0, 0xFFFFFFFF] := by decide +kernel
/-- LWAIT of an opened round takes the side band published last. -/
theorem test_lwait : get (.lwait st (word 2 1 0 0 5)) ((locked [(1, 5)] 0).setReg (.lockSideband 3 5) 0x1FFFFFFFF) (xOf 2) = some 0x1FFFFFFFF := by decide +kernel
theorem witness_locks : let s := locked [(1, 6)] 1
    Ready s st ∧ CanRead s st [1, 4] ∧ TagRoom s st (tagged (word 2 1 4 0 5)) ∧ s.fld (.lockCfg 3 5) 63 48 = 2 ∧ s.fld (.lockState 3 5) 63 32 = 6 ∧ s.homeKey (64 * 3 + 5) = 64 * 3 + 5 ∧
      s.chamber (64 * 3 + 5) 0 = 1 ∧ s.expected (64 * 3 + 5) = 2 ∧ s.fld (.lockCfg 3 5) 47 46 = 0 ∧ (Tab.get LockX.empty s.lockx (64 * 3 + 5)).side.length = 2 ∧ s.strict = true ∧
      s.fld (.lockCfg 3 4) 63 48 = 0 := by
  unfold Ready CanRead TagRoom; decide +kernel

/-- A strand that waits for round 6. -/
def waiter : Strand := { strand [] with status := .waiting, wait := some { kind := .lock (64 * 3 + 5) 6 2, since := 3000, sched := 0, late := false } }

/-- Both entries have come: the round opens 6 steps (8 ns) after the last, at 4000 where that was at 3992. -/
def opening (last : Nat) : State :=
  { locked [] 2 with strands := [(st.key, waiter)], lockx := [(64 * 3 + 5, { LockX.empty with side := [0x5FFFFFFFF, 0xFFFFFFFF], lastEntry := [last, 0] })] }
theorem test_lock_open : get (.lockOpen 3 5) (opening 3992) (fun t => (t.reg (.lockState 3 5), t.reg (.lockSideband 3 5), xOf 2 t)) =
    some (7 * 2 ^ 32, 0x5FFFFFFFF, 0x5FFFFFFFF) ∧ get (.lockOpen 3 5) (opening 3996) (fun t => t.fld (.lockState 3 5) 63 32) = some 6 := by decide +kernel
theorem witness_opening : let s := opening 3992
    s.scope (64 * 3 + 5) = 0 ∧ s.expected (64 * 3 + 5) = s.chamber (64 * 3 + 5) 0 ∧ s.lockF (64 * 3 + 5) 45 45 = 0 ∧ s.visibleAt 3992 (6 * s.stepPs) = s.boundary ∧
      s.red.channels = [] ∧ s.commitKey ≠ 64 * 3 + 5 ∧ s.stepKey ≠ 64 * 3 + 5 ∧ s.boundary < (opening 3996).visibleAt 3996 (6 * s.stepPs) ∧
      waiter.wait = some { kind := .lock (64 * 3 + 5) 6 2, since := 3000, sched := 0, late := false } := by decide +kernel
/-- Round 6 of a lock whose round 0 was due at 3994 − 6 × 1000 … is due at 4000. -/
def dueLock (base : W64) : State := ((opening 3992).setReg (.lockDlBase 3 5) base).setReg (.lockDlPeriod 3 5) 600
theorem test_lock_deadline : get (.lockDeadline 3 5) (dueLock 400) (fun t => (t.fld .detStatus 3 3, t.fld .stopCause 10 10, t.run.stopFrom)) = some (1, 1, some 4004) ∧
    get (.lockDeadline 3 5) (dueLock 401) (fun t => t.fld .detStatus 3 3) = some 0 := by decide +kernel
theorem witness_deadline : let s := dueLock 400
    s.fld (.lockDlPeriod 3 5) 31 0 = 600 ∧ (s.reg (.lockDlBase 3 5)).toNat + 6 * 600 = s.tide.count ∧ (s.lockx_ (64 * 3 + 5)).deadlined = [] ∧
      (∃ e ∈ s.strands, ∃ w, e.2.wait = some w ∧ (∃ d, w.kind = .lock (64 * 3 + 5) 6 d)) ∧ s.dev.state = .running ∧ s.run.stopFrom = none :=
  ⟨rfl, rfl, rfl, ⟨_, List.mem_singleton.mpr rfl, _, rfl, 2, rfl⟩, rfl, rfl⟩
/-- Joining side bands ORs the upper half and ANDs the lower. -/
theorem test_side_join : sideJoin 0x00000001FFFFFFF0 0x00000006FFFFFF0F = 0x00000007FFFFFF00 := by decide +kernel

/-! ### Faults, records and stops (R55, R56, R153, R400, R436) -/

theorem test_strand_fault : let t := (run []).strandFault st.key 5 0x03 []
    at_ t = (.faulted, 5, 3) ∧ t.fld (.seqFault 3) 33 15 = 7 * 256 + 3 ∧ t.fld (.seqCause 3) 0 0 = 1 := by decide +kernel
theorem witness_strand_fault : (run []).fld (.seqFault 3) 63 63 = 0 ∧ ((run []).strandFault st.key 5 3 []).fld (.seqFault 3) 63 63 = 1 := by decide +kernel
theorem witness_raise : let e := causeEvent 13 .hmCause 13 srcHm [1]
    e.bit = some (Reg.hmCause.offset, 13) ∧ Reg.hmCause.reset = 0 ∧ (run []).log.open_.find? e.sameKey = none ∧
      (((run []).raise e).log.open_.find? e.sameKey).isSome = true ∧ e.alarm = false ∧ (plainAlarm 0x0402 srcHm []).alarm = true := by decide +kernel
/-- A second occurrence joins the open record. -/
theorem test_raise : let e := causeEvent 13 .hmCause 13 srcHm [1]
    (((run []).raise e).raise e).log.open_.map (fun r => r.count) = [2] ∧ ((run []).raise e).fld .hmCause 13 13 = 1 := by decide +kernel
theorem test_slip : let t := (run []).slip 6 srcHm [] false
    t.run.stopFrom = some 4004 ∧ t.reg .stopTide = 4000 ∧ t.reg .stopCause = 0x40 := by decide +kernel
theorem witness_slip : (run []).run.stopFrom = none ∧ (run []).dev.state = .running ∧ (mod .ready).dev.state ≠ .running ∧
    ((run []).slip 6 srcHm [] false).run.resumeAt = none := by decide +kernel
theorem test_enter : let t := (mod .ready).enter .loaded 0
    t.dev.state = .loaded ∧ t.fld .hmCause 8 8 = 1 := by decide +kernel
theorem witness_enter : (mod .ready).tripped = false ∧ ({ mod .ready with dev := { (mod .ready).dev with tripE := true } } : State).tripped = true := by decide +kernel

/-! ### Boundaries and results (R33–R37, R140–R143) -/

/-- 4001 ns lie in the stroke that ends at 4004; 5 steps from 4000 are visible at 4008. -/
theorem test_boundary : (run []).boundary = 4000 ∧ ({ run [] with tide := { (run []).tide with frac := 1 } } : State).boundary = 4004 ∧
    (run []).visibleAt 4000 6250 = 4008 ∧ (run []).visibleAt 4000 8000 = 4008 := by decide +kernel
theorem witness_boundary : (run []).tide.running = true ∧ (run []).period = 4 ∧ (run []).atBoundary = true := by decide +kernel

/-- The flying operation at 4008: its register, its tag and its pending bit. -/
def landing : State :=
  { run [] with ops := [flying], tide := { (run []).tide with count := 4008 }, strands := [(st.key, ({ strand [] with tags := [(3, 1)] }).addPending 2)] }
theorem test_operation_visible : get (.operationVisible 4 true) landing (fun t => (xOf 2 t, (t.strand st.key).tag 3, (t.strand st.key).isPending 2, t.ops)) =
    some (11, 0, false, []) ∧ get (.operationVisible 4 false) landing (fun t => (t.fld .stopCause 7 7, t.ops.map fun o => o.vis)) = some (1, [4012]) := by decide +kernel
theorem witness_visible : landing.ops.find? (fun x => x.id == 4) = some flying ∧ landing.atBoundary = true ∧ landing.opReady landing.now flying = true ∧
    ({ landing with tide := { landing.tide with count := 4004 } } : State).opReady 4004 flying = false ∧ flying.late = false ∧ landing.strict = true ∧ (∀ r ∈ flying.regs, r < 32) ∧
    flying.effects = [.reg st.key 2 11] := by decide +kernel

/-- A strand that waits for a tag at a WAITT of word 5 whose tide has come. -/
def resuming : State :=
  { run [] with code := [(32768 * 3 + 5, 0x1E00008000000FA0#64)], marks := [(32768 * 3 + 5, true)],
                strands := [(st.key, { strand [] with status := .waiting, wait := some { kind := .retry, since := 3000, sched := 1, late := false } })] }
theorem test_strand_resume : get (.strandResume st) resuming at_ = some (.ready, 6, 0) := by decide +kernel
theorem witness_resume : resuming.dev.state = .running ∧ resuming.stoppedAt resuming.boundary = false ∧ resuming.atBoundary = true ∧
    (resuming.strand st.key).wait = some { kind := .retry, since := 3000, sched := 1, late := false } ∧ resuming.codeMark 3 5 = true ∧
    resuming.nextInstr st.key = some (.waitt st (word 0 1 0 0 4000)) := by decide +kernel
/-- The wait of stroke 3000 with SCHED 1 and the chart's 8 strokes of tolerance is late from 3036 on. -/
theorem test_schedule_late : get (.scheduleLate st) resuming (fun t => (t.fld .detStatus 2 2, t.fld (.seqCount 3) 47 32, t.run.stopFrom)) = some (1, 1, some 4004) ∧
    get (.scheduleLate st) { resuming with tide := { resuming.tide with count := 3035 } } (fun t => t.fld .detStatus 2 2) = some 0 := by decide +kernel
theorem witness_late : (∀ x ∈ resuming.run.injLate, x.1 ≠ st.key) ∧ 3000 + resuming.period * (1 + resuming.dev.chart.waitTolerance) = 3036 ∧
    ({ resuming with tide := { resuming.tide with count := 3035 } } : State).waitLate { kind := .retry, since := 3000, sched := 1, late := false } = false := by decide +kernel
/-- A boundary moves the tide to the next multiple of 4 ns and issues. -/
theorem test_stroke_boundary : get (.strokeBoundary [1000] [1000] []) { run [] with strands := [] } (fun t => t.tide.count) = some 4004 ∧
    get (.strokeBoundary [1000] [1000] []) { resuming with plan := none } (fun t => (t.strand st.key).pc.toNat) ≠ some 5 := by decide +kernel
theorem witness_stroke : (run []).tide.running = true ∧ 0 < (run []).period ∧ State.reset.tide.running = false := by decide +kernel

/-! ### Easels (R80–R100) -/

/-- The accumulator values that the operations in flight write. -/
def accOut (t : State) : List (Nat × List W32) := t.ops.flatMap fun o => o.effects.filterMap fun e => match e with
  | .acc k vs => some (k, vs)
  | _ => none

/-- The bytes that the operations in flight write. -/
def memOut (t : State) : List (Nat × List Byte) := t.ops.flatMap fun o => o.effects.filterMap fun e => match e with
  | .mem a bs => some (a, bs)
  | _ => none

/-- Easel 0 of core 3 with one record of BF16: 1.0 in row 0 of its A part (256 bytes), 2.0 in column 0 of its W part. -/
def fed : State :=
  let f := 131072 * (2 * (4 * 3))
  { run [] with feed := [(f, 0x80), (f + 1, 0x3F), (f + 257, 0x40)] }

/-- EOP of one step, one row and one column in BF16: 1 × 2 into bank 0, visible 17 steps (21.25 ns) on. -/
def eopWord : Word0 := word 0 0 0 0 (1 <<< 25 + 1 <<< 7)
def eopWord1 : W64 := 1 <<< 56 + 1 <<< 48 + 1 <<< 37 + 1 <<< 26
theorem test_eop : get (.eop st eopWord eopWord1 0) fed (fun t => (accOut t, t.bankFrom 3 0 0)) = some ([(accKey 3 0 0 0 0, [0x40000000])], 4024) := by decide +kernel
theorem witness_eop : let p := eopArgs eopWord eopWord1 0 (fed.strand st.key)
    Ready fed st ∧ p.k = 1 ∧ p.rows = 1 ∧ p.cols = 1 ∧ fed.eopFault 3 p false = none ∧ (∀ e ∈ maskEasels p.mask, fed.slotTaken 3 e = false) ∧
      (eopArgs eopWord 0 0 (fed.strand st.key)).rows = 0 ∧ ((fed.eopResult st.key 5 p [(0, 0)] [true] false).any fun f => match f with | .acc _ _ => true | _ => false) = true := by
  unfold Ready; decide +kernel
/-- MMA of easel 0 in BF16, K = 1. -/
def mmaWord : Word0 := word 0 0 0 0 (1 <<< 21 + 1 <<< 7)
theorem witness_mma : let q := mmaArgs mmaWord (fed.strand st.key)
    q.k = 1 ∧ mmaWord.f 24 21 = 1 ∧ fed.eopFault 3 q true = none ∧ (∀ e ∈ maskEasels q.mask, fed.slotTaken 3 e = false) ∧
      (mmaArgs (word 0 0 0 0 0) (fed.strand st.key)).k = 0 := by decide +kernel
/-- A zero K is a no-op. -/
theorem test_mma_noop : get (.mma st (word 0 0 0 0 0)) fed at_ = some (.ready, 6, 0) := by decide +kernel

/-- ACCRD at an address that is no multiple of 128 faults, and so does one beyond the pad. -/
theorem test_accrd : get (.accrd st (word 0 1 0 0 0)) (run [(1, 64)]) at_ = some (.faulted, 5, 1) ∧
    get (.accrd st (word 0 1 0 0 0)) (run [(1, 0x1F0080)]) at_ = some (.faulted, 5, 6) := by decide +kernel
theorem test_accwr : get (.accwr st (word 0 1 0 0 0)) { run [(1, 0x1F0000)] with bankFree := [(24, 4400)] }
    (fun t => t.ops.map fun o => (o.start, o.vis, o.later)) = some [(4400, 4440, some (.acc true 0 0 0x1F0000))] := by decide +kernel
theorem witness_acc : Ready (run [(1, 0x1F0000)]) st ∧ 0x1F0000 % 128 = 0 ∧ 0x1F0000 + 65536 ≤ 0x200000 ∧ (run []).slotTaken 3 0 = false ∧
    max (run []).boundary ((run []).bankFrom 3 0 0) = (run []).boundary := by unfold Ready; decide +kernel

/-! ### Manifests, stores, copies and conversions (R97–R100, R191–R195) -/

/-- A manifest of `n` by `n` elements of a format at a local address, for reads and writes. -/
def man (format : BitVec 32) (base n : Nat) : Manifest :=
  { format := format, ndim := 2, use := 2, stencilled := false, distributed := false, scaleArray := false, padFill := 0, padValue := 0, scaleMan := 0, grid := 0,
    allocBase := base, allocSize := 0x10000, offset := 0, stencilBase := 0,
    dims := [{ extent := n, stride := 1, padLo := 0, padHi := 0, shardBlock := 0, shardKind := 0, shardAxis := 0 },
             { extent := n, stride := n, padLo := 0, padHi := 0, shardBlock := 0, shardKind := 0, shardAxis := 0 }] }

/-- The strand with manifests 12289 (FP32), 12290 (FP32) and 12291 (BF16) of core 3 in its pad; the second holds 1.0 at its start. -/
def held (regs : Tab W64) : State :=
  { run regs with manifests := [(12289, man 0 (padBase 3) 4), (12290, man 0 (padBase 3 + 0x10000) 4), (12291, man 1 (padBase 3 + 0x20000) 4)]
                  mem := Tab.setMany 0 [] (padBase 3 + 0x10000) [0, 0, 0x80, 0x3F] }

/-- The view of a manifest of core 3. -/
def viewOf (n : Nat) : View := (held []).viewFor 0 n (((held []).manifestOn 3 n).getD (man 0 0 0))

theorem witness_views : let s := held []
    s.operand 3 12289 .writes = .ok (viewOf 12289) ∧ s.operand 3 12290 .reads = .ok (viewOf 12290) ∧ s.operand 3 12291 .writes = .ok (viewOf 12291) ∧
      (viewOf 12289).man.empty = false ∧ (viewOf 12290).man.empty = false ∧ (viewOf 12291).man.empty = false ∧ (viewOf 12289).tilesHeld 0 1 false = true ∧
      (viewOf 12290).tilesHeld 0 1 true = true ∧ s.pipeIdle 3 1 = true ∧ s.outstanding 3 .dma = 0 ∧ s.outstanding 3 .vector = 0 ∧
      tileCount (viewOf 12289).ext = 1 := by decide +kernel

/-- VST of one entry: 2.0 from bank 0 to element 0 of the manifest. -/
def vstWord : Word0 := word 1 2 0 0 0
def vstWord1 : W64 := 1 <<< 56 + 1 <<< 48
def storing : State := { held [(1, 12289)] with acc := [(accKey 3 0 0 0 0, 0x40000000)] }
theorem test_vst : get (.vst st vstWord vstWord1) storing memOut = some [(padBase 3, [0, 0, 0, 0x40])] := by decide +kernel
theorem witness_vst : let p := vstArgs vstWord vstWord1 (storing.strand st.key)
    Ready storing st ∧ p.rows = 1 ∧ p.cols = 1 ∧ p.fuse = 0 ∧ p.gate = none ∧ storing.gateBeyond 3 p.gate = false ∧ storing.operand 3 p.dst .writes = .ok (viewOf 12289) ∧
      (viewOf 12289).tileHeld p.tile false = true ∧ Tab.get 0 storing.varnishFree 3 ≤ storing.boundary ∧ storing.bankFrom 3 p.easel p.bank ≤ storing.boundary := by
  unfold Ready; decide +kernel
/-- An easel whose waiting slot holds a transfer keeps the next store in its strand (R83). -/
def slotFull : State := { storing with ops := [{ flying with engine := .easel, later := some (.acc false 0 1 0) }] }
theorem test_sta_waits : get (.sta st vstWord) slotFull at_ = some (.waiting, 5, 0) := by decide +kernel
theorem witness_slots_taken : slotFull.slotTaken 3 0 = true ∧ storing.slotTaken 3 0 = false ∧
    (let p := vstArgs vstWord vstWord1 (storing.strand st.key)
    let x := (storing.senseSpans (storing.gateSpans 3 p.gate p.cols)).runWork 3 fun k => k.vstWrite 3 p (viewOf 12289) none
    storing.vstViews 3 p = .ok (viewOf 12289, none) ∧ (storing.vstTiles 3 p (viewOf 12289)).all (fun t => (viewOf 12289).tileHeld t false) = true ∧ x.2.sumBad = false ∧
      (x.1.rate storing.nextOp 3 x.1.boundary 32 0 [] x.2.writeUses).isSome = true ∧ storing.vstAhead 3 storing.nextOp = false ∧
      (vstUnits 3 p).all (fun u => decide (storing.freeFrom u ≤ storing.boundary)) = true) := by decide +kernel

/-- DCOPY of one element. -/
def copyWord : Word0 := word 1 2 3 4 (1 <<< 12)
def copyRegs : Tab W64 := [(1, 12289), (3, 12290)]
theorem test_dcopy : get (.dcopy st copyWord vstWord1) (held copyRegs) memOut = some [(padBase 3, [0, 0, 0x80, 0x3F])] := by decide +kernel
theorem test_dset : get (.dset st copyWord vstWord1) (held [(1, 12289), (3, 0x40400000)]) memOut = some [(padBase 3, [0, 0, 0x40, 0x40])] := by decide +kernel
theorem witness_copy : Ready (held copyRegs) st ∧ CanRead (held copyRegs) st [1, 2, 3, 4] ∧ TagRoom (held copyRegs) st (tagged copyWord) ∧ copyWord.f 28 12 = 1 ∧
    fieldOf vstWord1 63 56 = 1 ∧ fieldOf vstWord1 55 48 = 1 ∧ ((held copyRegs).strand st.key).x 1 = 12289 ∧
    ((held copyRegs).runWork 3 fun k => (k.copyTiles (viewOf 12289) (viewOf 12290) 0 0 1 1 false 1).2).2.sumBad = false := by
  unfold Ready CanRead TagRoom; decide +kernel
theorem test_cpy_unknown : get (.cpy st copyWord) (run copyRegs) at_ = some (.faulted, 5, 4) := by decide +kernel
/-- PCVT of nothing is a no-op; a tile waits for the palette's instruction pipe. -/
theorem test_pcvt : get (.pcvt st (word 1 2 3 4 0) 0) (held copyRegs) at_ = some (.ready, 7, 0) ∧
    get (.pcvt st copyWord 0) { held [(1, 12291), (3, 12290)] with pipeFree := [(7, 4400)] } at_ = some (.waiting, 5, 0) := by decide +kernel
theorem test_cvt : get (.cvt st (word 1 2 3 4 0)) (held copyRegs) at_ = some (.ready, 6, 0) ∧
    get (.cvt st copyWord) (run copyRegs) at_ = some (.faulted, 5, 4) := by decide +kernel

/-- DFEED of the BF16 operand W into easel 0: mask 1, K = 1, A as format 1. -/
def feedWord : Word0 := word 0 0 3 4 (1 <<< 25 + 1 <<< 20)
def feedWord1 : W64 := 1 <<< 52
def feedWord2 : W64 := 1 <<< 15
def feeding : State := held [(3, 12291)]
/-- K = 0 is a no-op; the pattern 0b11 is reserved. -/
theorem test_dfeed : get (.dfeed st feedWord 0 feedWord2) feeding at_ = some (.ready, 8, 0) ∧
    get (.dfeed st (word 0 0 3 4 (1 <<< 25 + 3 <<< 22)) feedWord1 feedWord2) feeding at_ = some (.faulted, 5, 1) := by decide +kernel
theorem test_ldf_noop : get (.ldf st (word 1 2 3 4 0) 0) feeding at_ = some (.ready, 7, 0) := by decide +kernel
theorem witness_feed : let p := feedArgs feedWord feedWord1 feedWord2 (feeding.strand st.key)
    Ready feeding st ∧ p.k = 1 ∧ p.mask = 1 ∧ p.pat = 0 ∧ p.a = none ∧ feeding.feedViews 3 p = .ok (none, some (viewOf 12291)) ∧ fmtInvalid p.other true false = false ∧
      (recLayout p.other 1 p.pat (scaledAcross p.other p.aAxis) (scaledAcross 1 p.wAxis)).isSome = true ∧
      (recLayout p.other 1 p.pat (scaledAcross p.other p.aAxis) (scaledAcross 1 p.wAxis)).all (fun l =>
        ((viewOf 12291).feedTiles p.wTile p.wAxis (fillReach p l none (some (viewOf 12291)) (Work.start feeding 3))).all fun t => (viewOf 12291).tileHeld t true) = true ∧
      p.bmReq = false ∧ feeding.pipeIdle 3 1 = true := by
  unfold Ready; decide +kernel

/-! ### Vector unit (R319, R329, R339–R343, R451–R453, R497–R499) -/

/-- VEW OP 0 copies; OP 1 adds. One element of FP32. -/
def copyVew : Word0 := word 1 2 3 4 (1 <<< 12)
theorem test_vew : get (.vew st copyVew vstWord1) (held copyRegs) memOut = some [(padBase 3, [0, 0, 0x80, 0x3F])] := by decide +kernel
theorem test_vew_add : get (.vew st (word 1 2 3 4 (1 <<< 12 + 1 <<< 8)) (vstWord1 + 12290 <<< 24)) (held copyRegs) memOut = some [(padBase 3, [0, 0, 0, 0x40])] := by
  decide +kernel
theorem test_vred_reserved : get (.vred st (word 1 2 3 4 (1 <<< 12 + 3 <<< 8)) vstWord1) (held copyRegs) at_ = some (.faulted, 5, 1) := by decide +kernel
theorem test_vop_unknown : get (.vop st (word 1 2 3 0 0)) (run []) at_ = some (.faulted, 5, 4) := by decide +kernel
theorem witness_vector : let a := vecArgs copyVew (vstWord1 + 12290 <<< 24) 0 ((held copyRegs).strand st.key)
    let s := held copyRegs
    Ready s st ∧ CanRead s st [1, 2, 3, 4] ∧ TagRoom s st (tagged copyVew) ∧ a.t = 1 ∧ a.rows = 1 ∧ a.cols = 1 ∧ vewNeedsB 1 = true ∧ vewNeedsB 0 = false ∧
      s.operandNo 3 12290 .reads = .ok (viewOf 12290) ∧ (s.vectorEffects st.key 5 0x30 a).2.2.sumBad = false ∧ (s.vectorEffects st.key 5 0x31 a).2.2.sumBad = false := by
  unfold Ready CanRead TagRoom; decide +kernel
/-- RNG refuses a block number at the end of its range; VFIN and CRC of nothing do nothing. -/
theorem test_rng : get (.rng st (word 1 2 3 0 (1 <<< 12)) 0xFFFFFFFE) (held copyRegs) at_ = some (.faulted, 5, 1) := by decide +kernel
theorem test_vfin : get (.vfin st (word 0 1 2 0 0) 0) (held copyRegs) at_ = some (.ready, 7, 0) := by decide +kernel
theorem test_crc : get (.crc st (word 5 1 2 3 0) 0) (held copyRegs) at_ = some (.ready, 7, 0) := by decide +kernel
theorem test_rmerge : get (.rmerge st copyVew 0) (held copyRegs) at_ = some (.faulted, 5, 0x1A) := by decide +kernel

/-- The same state in the commit of a step, with a reduction step. -/
def committing (regs : Tab W64) : State := (held regs).setReg .stepFlags 0x18
theorem test_upd_noop : get (.upd st (word 1 2 3 4 0) 0 0) (committing copyRegs) at_ = some (.ready, 8, 0) := by decide +kernel
theorem test_upd_closed : get (.upd st copyVew 0 0) (held copyRegs) (fun t => (at_ t, t.fld .commitCause 3 3)) = some ((.faulted, 5, 0x1A), 1) := by decide +kernel
theorem test_mevo_closed : get (.mevo st (word 1 2 3 4 (1 <<< 8)) 0 0) (held copyRegs) at_ = some (.faulted, 5, 0x1A) := by decide +kernel
theorem witness_updates : let s := committing copyRegs
    let u : UpdViews := { mast := viewOf 12289, grad := viewOf 12290, m1 := none, m2 := none, wc := none }
    let a := vecArgs copyVew 0 0 (s.strand st.key)
    s.fld .stepFlags 3 3 = 1 ∧ s.fld .stepFlags 4 4 = 1 ∧ Ready s st ∧ s.shardOperands 3 a false = .ok u ∧
      u.badOperand a { opcode := 0x32, t := 1, needM1 := false, needM2 := false, cast := false, tagBegin := false } = false ∧
      (∀ v ∈ u.mast :: u.others, v.tilesHeld 0 1 false = true) ∧ u.grad.tilesHeld 0 1 true = true := by
  unfold Ready; decide +kernel
theorem test_sketch_noop : get (.sketch st (word 1 2 3 4 0) 0 0) (held copyRegs) at_ = some (.ready, 8, 0) := by decide +kernel

/-! ### Fabric (R266–R274) -/

/-- The strand with send flow 7 to chip 5 of the hall, one credit, and send flow 8 to the chip itself. -/
def flow7 : Flow := { Flow.unused with role := 1, peerChip := 5, peerFlow := 9, credits := 1 }
def sending (regs : Tab W64) : State :=
  let s := held regs
  { s with fab := { s.fab with chip := 2, configured := true, hall := [2, 5], flows := [(7, flow7), (8, { flow7 with peerChip := 2 })] } }
/-- The kinds of cell queued on a flow. -/
def kinds (k : Nat) (t : State) : List Nat := (t.flow k).queue.map fun q => q.cell.kind

/-- FPUSH takes the flow's one credit and queues a PUSH (kind 7); without a credit it waits. -/
theorem test_fpush : get (.fpush st (word 0 1 2 0 0)) (sending [(1, 7), (2, 99)]) (fun t => (kinds 7 t, (t.flow 7).credits, at_ t)) = some ([7], 0, (.ready, 6, 0)) := by
  decide +kernel
theorem test_fpush_fault : get (.fpush st (word 0 1 2 0 0)) (sending [(1, 6)]) at_ = some (.faulted, 5, 0x12) := by decide +kernel
/-- FSIG of counter 3 of core 9 with flow 7 as its own cover: a SIGNAL (kind 6). -/
theorem test_fsig : get (.fsig st (word 0 1 2 3 7)) (sending [(1, 7), (2, 1), (3, 0x00090003)]) (fun t => (kinds 7 t, (t.flow 7).seq)) = some ([6], 1) := by
  decide +kernel
/-- To the chip itself the counter is added to 2 steps (2.5 ns, one stroke) on. -/
theorem test_rsig : get (.rsig st (word 0 1 2 3 8)) (sending [(1, 8), (2, 1), (3, 0x00090003)]) (fun t => t.ops.map fun o => (o.vis, o.effects)) =
    some [(4004, [.signal (1024 * 9 + 3) 1])] := by decide +kernel
/-- FATOM sends one ATOMIC_REQ (kind 4). -/
def atomWord1 : W64 := 7 <<< 32
theorem witness_fabric : let s := sending [(1, 7), (2, 99), (3, 0x00090003)]
    Ready s st ∧ CanRead s st [1, 2, 3] ∧ PortRoom s st ∧ s.flowFault 7 = none ∧ s.flowFault 8 = none ∧ s.flowFault 6 = some 1 ∧ (s.flow 7).peerChip ≠ s.fab.chip ∧
      (s.flow 7).credits ≠ 0 ∧ (s.flow 8).peerChip = s.fab.chip ∧ (s.flow 7).role = 1 ∧ (fabArgs copyVew (vstWord1 + atomWord1) (s.strand st.key)).flow = 7 := by
  unfold Ready CanRead PortRoom; decide +kernel
theorem test_fatom : get (.fatom st (word 1 2 3 4 0) atomWord1) (sending [(2, 0x100), (3, 5)]) (fun t => (kinds 7 t, t.ops.map fun o => o.remote)) =
    some ([4], [.atomic 1]) := by decide +kernel
theorem test_fatom_address : get (.fatom st (word 1 2 3 4 0) atomWord1) (sending [(2, 0x104), (3, 5)]) at_ = some (.faulted, 5, 0x12) := by decide +kernel
theorem test_fst : get (.fst st (word 1 2 3 4 (1 <<< 12)) (vstWord1 + 8 <<< 32)) (sending copyRegs) memOut = some [(padBase 3, [0, 0, 0x80, 0x3F])] := by decide +kernel
theorem test_rst_noop : get (.rst st (word 1 2 3 4 0) (8 <<< 32)) (sending copyRegs) at_ = some (.ready, 7, 0) := by decide +kernel
theorem test_fld : get (.fld st (word 1 2 3 4 (1 <<< 12)) (vstWord1 + 8 <<< 32)) (sending copyRegs) memOut = some [(padBase 3, [0, 0, 0x80, 0x3F])] := by decide +kernel
/-- R270: OP 2 is the signed maximum, OP 5 the compare-and-exchange. -/
theorem test_atomics : atomicNew 2 (-1) 3 0 = 3 ∧ atomicNew 3 (-1) 3 0 = -1 ∧ atomicNew 5 7 1 7 = 1 ∧ atomicNew 5 7 1 8 = 7 ∧ atomicNew 1 0x3F800000 0x3F800000 0 = 0x40000000 := by
  decide +kernel

/-- A channel of FP32 tiles that contributes to core 3's manifest 12289. -/
def chan : Channel :=
  { enabled := true, iqw := false, fp16 := false, express := false, east := false, accumN := 1, contributes := true, backupRole := false, groupSize := 2, contrib := 0,
    tiles := 2, stage := 12289, result := 12290, armLock := 0, armCore := 3, cellPitch := 0, mirrorFlow := 0, mirrorBase := 0, mirrorSignal := 0, mirrorCore := 0,
    doneCounter := 0, proxy := 3, nodeFirst := 0, nodeCount := 0 }
def contributing : State := let s := held [(1, 4), (3, 12290)]; { s with red := { s.red with channels := [(4, chan)] } }
theorem test_rcontrib_noop : get (.rcontrib st (word 1 2 3 4 0) 0) contributing at_ = some (.ready, 7, 0) := by decide +kernel
theorem test_rcontrib_channel : get (.rcontrib st (word 1 2 3 4 (1 <<< 12)) 0) (held [(1, 5), (3, 12290)]) at_ = some (.faulted, 5, 0x18) := by decide +kernel
theorem witness_contribution : Ready contributing st ∧ CanRead contributing st [1, 2, 3, 4] ∧ PortRoom contributing st ∧
    contributing.contribBad { channel := 4, b := 0, src := 12290, st := 0, t := 1, acc := 0 } = false ∧ contributing.channel 4 = some chan ∧
    contributing.operandNo 3 chan.stage .writes = .ok (viewOf 12289) ∧ (viewOf 12290).plainF32 = true ∧ (viewOf 12290).tilesHeld 0 1 false = true := by
  unfold Ready CanRead PortRoom; decide +kernel

/-! ### Governors, sensors and the tide (R39–R51) -/

/-- A half's slack of −20 is below SLACK_FLOOR 30: HALF_SLACK of the west half. -/
def low : State := { run [] with govW := { Governor.reset with periodMin := some 50, strokes := 8192 } }
theorem test_slack : (let t := (run []).slackHalf .west [10000]; ((t.reg .stopCause).toNat % 2, t.run.stopFrom)) = (1, some 4004) := by decide +kernel
/-- 50 is below SLACK_MARGIN 60: the core voltage is to rise by 10 mV; the SRAM voltage, 30 mV above it and at least 700 mV, is written first, and VCORE when it is
confirmed. -/
theorem test_governor : get (.governorPeriod .west) low (fun t => (t.govW.vcore, t.govW.vsram, t.govW.coreNext, t.govW.action, t.govW.strokes)) =
    some (7200, 7600, some 7300, 1, 0) ∧
    get (.regulatorReadback .west true true false 760) { low with govW := Governor.reset.move 7300 } (fun t => (t.govW.vcore, t.govW.coreNext)) = some (7300, none) := by
  decide +kernel
theorem witness_governor : low.govW.periodMin = some 50 ∧ low.halfOn .west = true ∧ bitOf low.log.trace.sources 6 = false ∧ low.armed 0x12 0 = false ∧
    (leastOf ([1000].map low.slackOf)).isSome = true ∧ low.armed 0x13 0 = false ∧ low.armed 0x14 0 = false ∧ low.armed 0x15 0 = false := by decide +kernel
theorem test_thermal : get (.thermal .west ⟨100, []⟩) (run []) (fun t => (t.reg .stopCause).toNat) = some 4 ∧
    get (.thermal .west ⟨99, []⟩) (run []) (fun t => (t.reg .stopCause).toNat) = some 0 := by decide +kernel
/-- The fixed rails as measured: 12 V at 200 A draw 2,400 W, the chart's cap; one more rail's 1 W is above it. -/
theorem test_power_cap : get (.powerCap [(12000, 200000), (1000, 1000)]) (run []) (fun t => (t.env.power, (t.reg .stopCause).toNat)) = some (some 2401000, 64) ∧
    get (.powerCap [(12000, 200000)]) (run []) (fun t => (t.env.power, (t.reg .stopCause).toNat)) = some (some 2400000, 0) := by decide +kernel
/-- 720 mV is the target; 714 mV is more than 5 mV off. -/
theorem test_readback : get (.regulatorReadback .west false true false 714) (run []) (fun t => (t.reg .stopCause).toNat) = some 16 ∧
    get (.regulatorReadback .west false true false 715) (run []) (fun t => (t.reg .stopCause).toNat) = some 0 := by decide +kernel
theorem test_current : get (.railCurrentRead .east 5 6) (run []) (fun t => (t.govE.coreMa, t.govE.sramMa)) = some (5, 6) := by decide +kernel

/-- A SOURCE's tide, 100 ns after a whole second. -/
def source (pending : Option Nat) : State :=
  { mod .ready with tide := { Tide.reset with running := true, role := .source, count := 3000000100, pendingSet := pending, refPresent := true } }
theorem test_pps : get .tidePps (source none) (fun t => (t.tide.state, t.tide.count, t.tide.estError)) = some (.locked, 3000000100, 10000) := by decide +kernel
theorem test_pps_set : get .tidePps (source (some 8000000000)) (fun t => (t.tide.state, t.tide.count, t.tide.pendingSet)) = some (.locked, 8000000000, none) := by
  decide +kernel
theorem test_pps_lost : get .ppsPresentLost (source none) (fun t => t.tide.state) = some .acquiring := by decide +kernel

/-- A follower with its upstream quay 0 in service, whose peer reports LOCKED at stratum 2; two offsets of −40 ns have been measured. -/
def follower : State :=
  let s := (mod .ready).setReg (.quayStatus 0) 5
  { s with tide := { Tide.reset with running := true, role := .follower, state := .acquiring, count := 4000, refPresent := true },
           dev := { s.dev with chart := Chart.shipped1 }, fab := { s.fab with quays := [(0, { Quay.reset with peerTide := 0x12, offsetSum := -160000, offsetNum := 2 })] } }
theorem test_servo : get .tideServoUpdate follower (fun t => (t.tide.state, t.tide.stratum, t.tide.estError, t.tide.upstream)) = some (.acquiring, 15, 4000, some 0) := by
  decide +kernel
theorem witness_follower : follower.tide.role = .follower ∧ follower.upstreamQuay = some 0 ∧ (follower.quay 0).offsetNum = 2 ∧ follower.upstreamAlive = true ∧
    (source none).upstreamAlive = false ∧ (source none).servedNow 0x10000 = true ∧ (source (some 1)).running 0x10 = false ∧ follower.armed 0x16 0 = false ∧
    (source none).secondOffset = 100000 ∧ (source none).slewOnly = false ∧ follower.upstreamQuays = [0, 24] := by decide +kernel
theorem test_upstream_lost : get .upstreamLost { source none with tide := { (source none).tide with role := .follower, state := .locked, lastError := 7, estError := 7 } }
    (fun t => (t.tide.state, t.tide.stratum, t.tide.estError)) = some (.holdover, 15, 7) := by decide +kernel
theorem test_tide_error : get .tideError { follower with tide := { follower.tide with state := .locked, estError := 201, errFrom := 4000 } } (fun t => (t.reg .stopCause).toNat) =
    some 256 := by decide +kernel
theorem test_tide_now : get (.tideNowRead .low) { source none with tide := { (source none).tide with count := 0x700000009 } } (fun t => (t.host.lastRead, t.tide.latchedHi)) =
    some (9, 7) := by decide +kernel
theorem test_ref : get .tideRefLost follower (fun t => (t.tide.refPresent, t.tide.recovered, t.log.alarms.length)) = some (false, true, 1) ∧
    get (.tideRefPresent true) follower (fun t => (t.tide.refPresent, t.tide.recovered)) = some (true, false) := by decide +kernel

/-! ### Norm parts, sketch counters, sum windows (R123, R133, R209–R213, R336) -/

/-- 1.0 + 2.0 in FP64 where part 0 is next; part 1 waits for part 0. -/
theorem test_norm_part : get (.normPartAdd 3 0 0x3FF0000000000000 0 0) (run []) (fun t => (Tab.find? t.com.norms 3).map fun r => (r.w2, r.next)) =
    some (some (0x3FF0000000000000, 1)) ∧ get (.normPartAdd 3 1 0x3FF0000000000000 0 0) (run []) (fun t => t.com.waiting.map fun w => (w.group, w.part)) = some [(3, 1)] := by
  decide +kernel
/-- A contribution of a core that no leaf names is a stray (GAL_CAUSE bit 3); one of two leaves waits in its tile. -/
def summing : State :=
  let s := (run []).setFld (.sumCfg 0 0) 63 48 2
  let s := s.setFld (.sumCfg 0 0) 47 40 1
  s.setFld (.sumLeaf 0 1) 6 0 4
theorem test_sum_stray : get (.sumContribution (.core 9) 0 0 [(0, 1)]) summing (fun t => t.fld (.galCause 0) 3 3) = some 1 := by decide +kernel
theorem test_sum_held : get (.sumContribution (.core 4) 0 0 [(0, 1)]) summing (fun t => (t.onDie.sumHeld.map fun h => (h.slice, h.tile, h.leaf), (t.reg (.sumState 0 0)).toNat / 65536 % 65536)) =
    some ([(0, 0, 1)], 1) := by decide +kernel
theorem witness_sums : (summing.sumWin 0 0).map (fun w => (w.leaves, w.tiles, w.base)) = some (2, 1, 0) ∧
    (summing.sumWin 0 0).map (fun w => (summing.sumLeaves w, summing.sumHolds w 4 0)) = some ([(0, 0), (4, 0)], false) := by
  decide +kernel
theorem test_tree : treeSum [some 0x3F800000, none, some 0x40000000] = some 0x40400000 := by decide +kernel

/-- A plan that declares nothing. -/
def plan0 : Plan :=
  { planId := 1, isa1 := false, fabricCycle := 16384, allocs := [], entries := [], berths := [], locks := [], endBerths := [], endLocks := [], endCounters := [],
    hasFlows := false, layers := [], sysrdUses := 0, sysrdFirst := 0, spacing := 480, padScrub := 1, galScrub := 1, dramScrub := 1, manifests := 0, slotsW := [],
    slotsE := [] }
/-- The last strand of a plan ends it. -/
theorem witness_plan_end : let s : State := { run [] with plan := some plan0 }
    Ready s st ∧ (s.setStrand st.key { (strand []).past 1 with status := .done }).taskDone = true ∧ s.run.stopFrom = none ∧ s.run.startAt = none ∧
      s.running 0x23 = false ∧ TagRoom s st (word 0 0 0 0 0) := by
  unfold Ready TagRoom; decide +kernel
/-- A layer of the plan: its descriptor at 0x100 of core 3's pad holds 2 audits. -/
def sketched : State :=
  { run [] with mem := Tab.setMany 0 [] (padBase 3 + 0x120) [2, 0, 0, 0], plan := some { plan0 with layers := [{ core := 3, descr := 0x100, group := 0 }] } }
theorem test_sketch_counters : get (.sketchCounterRead 0) sketched (fun t => ((t.sketchRun 0).pendAud, t.byte (padBase 3 + 0x120))) = some (2, 0) := by decide +kernel

/-! ### Memory (R216–R240) -/

/-- The module at another tide count: 154 ns lie in slot 92 of frame 0, 157 ns in slot 94. -/
def atCount (n : Nat) : State := { run [] with tide := { (run []).tide with count := n } }

/-- A line of West memory whose poison a whole-line write clears; a read is counted. -/
def wholeLine : List (Nat × Byte) := (List.range 256).map fun i => (i, 7)
def poisoned : State := { run [] with poison := [0x100], plan := some { plan0 with slotsW := [some 0] } }
theorem test_slot_write : get (.memorySlot .write 0 1 wholeLine []) poisoned (fun t => (t.poison, t.byte 0x105, t.totals.memSlots)) = some ([], 7, 1) := by decide +kernel
theorem test_slot_read : get (.memorySlot .read 0 2 [] []) poisoned (fun t => t.totals.memSlots) = some 1 ∧
    get (.memorySlot .read 1 2 [] []) poisoned (fun t => t.totals.memSlots) = some 0 := by decide +kernel
theorem witness_slots : poisoned.memUp = true ∧ poisoned.halfOn (linePos 1).half = true ∧ poisoned.refreshing .west (poisoned.tide.count / 160) = false ∧
    poisoned.lineAtRisk 1 = false ∧ poisoned.log.armings = [] ∧ poisoned.laneServes .west (laneKey 1) = true ∧ poisoned.unfinished none 1 poisoned.nowThirds = [] ∧
    poisoned.slotFor .partialWrite .west 0 1 = true ∧ poisoned.slotFor .scrub .west 0 1 = false ∧ (atCount 157).slotFor .service .west 0 1 = true ∧
    (atCount 157).serviceNow false = true ∧ (atCount 159).serviceNow true = true ∧ (atCount 154).slotFor .scrub .west 0 0 = true ∧
    ({ atCount 156 with main := { MainMem.reset with backs := [(0, 465)] } } : State).backSlot 0 = true ∧ poisoned.main.merging.contains (3, 1) = false ∧
    poisoned.main.retired.contains (1 / 1024) = false ∧ poisoned.poison.contains 0x100 = true ∧ poisoned.poison.contains 0x200 = false := by decide +kernel
theorem test_queue_start : get (.memQueueStart 4) { run [] with main := { MainMem.reset with waiting := [(4, 25, 3)] } } (fun t => (t.totals.memSlots, t.main.waiting)) =
    some (3, []) := by decide +kernel
theorem test_dram_scrub : get (.dramScrub 0 2 []) (atCount 154) (fun t => Tab.get 0 t.main.sweep 2) = some 1 ∧
    get (.dramScrub 0 2 []) (atCount 157) (fun t => Tab.get 0 t.main.sweep 2) = some 0 := by decide +kernel
theorem test_package_lost : get (.packageLost 20) { run [] with main := { MainMem.reset with badTimes := [(20, List.replicate 256 3990)] } }
    (fun t => (t.main.marks, t.fld (.memCause .east) 4 4)) = some ([(0, 20, 0)], 1) ∧ get (.packageLost 20) (run []) (fun t => t.main.marks) = some [] := by decide +kernel
/-- A partial write reads its line in one slot and writes it in the next; the other bytes of the line stay. -/
theorem test_partial_write : get (.memorySlot .partialWrite 0 1 [(2, 9)] []) { poisoned with mem := [(0x101, 5)] } (fun t => (t.mem, t.main.merging)) =
      some ([(0x101, 5)], [(0, 1)]) ∧
    get (.memorySlot .partialWrite 0 1 [(2, 9)] []) { poisoned with mem := [(0x101, 5)], main := { MainMem.reset with merging := [(0, 1)] } }
      (fun t => (t.mem, t.main.merging)) = some ([(0x101, 5), (0x102, 9)], []) := by decide +kernel
/-- A bit in error in a pad's first row is corrected and counted. -/
def flipped : State := { run [] with onDie := { OnDie.reset with rowErrs := [(padBase 3, [6])] } }
theorem test_sram_scrub : get (.sramScrub (.pad 3 0) []) flipped (fun t => (t.onDie.rowErrs, t.totals.corrected)) = some ([], 1) := by decide +kernel
theorem witness_sram : flipped.bankOn (.pad 3 0) = true ∧ (padGeom 3 0).base = padBase 3 ∧ (flipped.rowHome (padBase 3)).isSome = true ∧
    flipped.bankOn (.coreStore 3 2 0) = true ∧ flipped.bankOn (.halfStore .west 0 0) = true ∧ flipped.bankOn (.sums 3) = true ∧ flipped.scrubs = true ∧
    (mod .gesso).scrubs = false := by decide +kernel
/-- Upsets in a core's code store count in its pad's registers: one bit corrected, two bits uncorrectable (R431); those of its feed buffers stand until a read. -/
theorem test_structures : get (.sramScrub (.coreStore 3 2 0) [.bits 5 false]) (run []) (fun t => (t.fld (.padCause 3) 1 1, t.totals.corrected)) = some (1, 1) ∧
    get (.sramScrub (.coreStore 3 2 0) [.bits 5 true]) (run []) (fun t => t.fld (.padCause 3) 2 2) = some 1 ∧
    get (.sramScrub (.coreStore 3 0 0) [.bits 5 false]) (run []) (fun t => (t.onDie.rowErrs.length, t.totals.corrected)) = some (1, 0) := by decide +kernel
/-- A row decoded in place of another: every code word of it is in error (R215). -/
theorem test_row_decode : ((run []).addUpset (padGeom 3 0) 0 .row).onDie.rowErrs.length = 4 := by decide +kernel
/-- A frame that begins with a package to mark. -/
theorem test_memory_frame : get (.memoryFrame (List.replicate 36 40)) { run [] with main := { MainMem.reset with marks := [(0, 3, 0)] } }
    (fun t => (t.main.dead, (t.reg (.memPkgState .west)).toNat)) = some ([3], 128) := by decide +kernel
theorem witness_frame : (run []).memUp = true ∧ (run []).frameStart = true ∧ (run []).readsUnderWay 0 = [] ∧ (atCount 4001).frameStart = false ∧ (run []).tide.count / 160 % 24 = 1 ∧ (List.replicate 36 (40 : Int)).length = 36 ∧
    ({ run [] with tide := { (run []).tide with count := 3520 } } : State).tide.count / 160 % 24 = 22 := by decide +kernel
theorem test_bursts : classify false (syndrome [(5, 0x41)]) = .corrected [(5, 0x41)] ∧ classify true (syndrome poisonPattern) = .poison := by decide +kernel

/-! ### Cells and quays (R246–R288) -/

/-- Quay 4 in service with an empty plan table; quay 5 trains. -/
def quayed : State := ((run []).setReg (.quayStatus 4) 5).setReg (.quayStatus 5) 3
/-- A STORE cell of 4 bytes to address 0x100 on flow 7. -/
def storeCell : Cell :=
  { kind := 1, flags := 0, len := 4, srcChip := 5, dstChip := 0, rxFlow := 7, planCycle := 0, seq := 1, addr := 0x100, arg := 0, payload := [1, 2, 3, 4] }
def part : LinkPart := { seq := 9, nakSeq := 0, flags := 0, txStamp := 77, echoTx := 1, echoRx := 2 }
set_option maxRecDepth 100000 in
/-- R258, R260: the bytes of a cell give it back, and both checks hold. -/
theorem test_cell_bytes : let bs := linkCell (storeCell.endToEnd false) storeCell.body part false
    bs.length = 320 ∧ cellOfBytes bs = storeCell ∧ linkOf bs = part ∧ e2eOk bs = true ∧ linkOk bs = true := by decide +kernel
theorem test_transmit : get (.cellTransmit 4 0) quayed (fun t => ((t.quay 4).txSeq, (t.quay 4).history.length, t.totals.cellsSent)) = some (1, 1, 0) := by decide +kernel
theorem test_receive_size : (match exec (.cellReceive 4 [] 0 0) quayed with | .fault .cellSize => true | _ => false) = true := by decide +kernel
/-- A cell whose LINK_CHECK fails is asked for again. -/
def badCell : List Byte := linkCell (storeCell.endToEnd false) storeCell.body part true
set_option maxRecDepth 100000 in
theorem test_receive_bad : get (.cellReceive 4 badCell 4000 0) quayed (fun t => ((t.quay 4).naks, (t.quay 4).rxSeq, t.fld (.quayCause 4) 1 1)) =
    some ([0], 1, 1) := by decide +kernel
set_option maxRecDepth 100000 in
theorem witness_link : quayed.inService 4 = true ∧ 0 < quayed.slotCount ∧ quayed.log.armings = [] ∧ (quayed.quay 4).naks = [] ∧ entryKind (quayed.txEntry 4 0) = 0 ∧
    entryKind 0x40000007 ≠ 0 ∧ linkOk badCell = false := by decide +kernel
/-- Training: a state goes on where it sees what it waits for, and fails with its cause where its time is up. -/
def seen : TrainView := { laser := true, peerLight := true, aligned := true, payload := List.replicate 256 0, delayPs := 500 }
theorem test_training : get (.linkTrainingAdvance 6 seen) ((run []).setReg (.quayStatus 6) 1) (fun t => t.quayState 6) = some 2 ∧
    get (.linkTrainingAdvance 6 seen) ((run []).setReg (.quayStatus 6) 4) (fun t => (t.quayState 6, (t.reg (.quayDelay 6)).toNat)) = some (5, 500) := by decide +kernel
theorem test_training_timeout : get (.trainingTimeout 6 false) ((run []).setReg (.quayStatus 6) 1) (fun t => (t.quayState 6, t.fld (.quayStatus 6) 7 4)) = some (6, 2) := by
  decide +kernel
theorem test_link_down : get (.linkDown 4) quayed (fun t => (t.quayState 4, t.fld (.quayStatus 4) 7 4, t.fld .detStatus 4 4)) = some (6, 9, 1) := by decide +kernel
theorem test_laser_loss : get (.laserLoss 1 59) quayed (fun t => (t.quayState 4, t.quayState 5, t.quayState 6, t.fld (.quayCause 6) 4 4)) = some (6, 6, 0, 1) ∧
    get (.laserLoss 1 60) quayed (fun t => t.quayState 4) = some 5 := by decide +kernel
/-- Quay 5 is in EXCHANGE; quay 4 has a cell of flow 7 to send, complete and issued. -/
theorem witness_send : quayed.quayState 5 = 3 ∧ 0 < quayed.slotCount ∧ (let q : Queued := { cell := storeCell, ready := 1000, issued := 1 }
    q.ready + 2000 ≤ quayed.slotPs 2 ∧ 2 < quayed.slotCount ∧ q.cell.kind ≠ 0x0A ∧ q.cell.kind ≠ 6 ∧ (flow7).ackCarrier = false ∧ quayed.run.stopFrom = none) := by decide +kernel
theorem witness_quays : quayed.trainCause 5 [] ≠ 0 ∧ quayed.quayState 5 = 3 ∧ quayed.quayState 6 = 0 ∧ quayed.armed 0x1A 1 = false := by decide +kernel

/-- The cell waits on quay 4; its flow 7 receives from chip 5, with a window of 0x200 bytes, and feeds berth 0 of core 3. -/
def arrived (c : Cell) : State :=
  let s := quayed
  { s with fab := { s.fab with quays := [(4, { Quay.reset with arrived := [{ cell := c, arrival := 1000, due := none }] })],
                               flows := [(7, { Flow.unused with role := 2, peerChip := 5, winSize := 0x200, proxy := 3, returnFlow := 8 }), (8, flow7)] } }
/-- A STORE into main memory stands there from its commit on; one into a pad, and a PUSH, wait for the next boundary. -/
theorem test_commit_store : get (.cellCommit 4) (arrived storeCell) (fun t => (t.mem, t.fab.landing.length, (t.flow 7).seq, (t.flow 7).ackDue)) =
    some ([(0x100, 1), (0x101, 2), (0x102, 3), (0x103, 4)], 0, 1, some 4000000) := by decide +kernel
def arrivedPad : State :=
  let s := arrived { storeCell with addr := padBase 3 + 8 }
  s.setFlow 7 { s.flow 7 with winBase := padBase 3 }
theorem test_commit_pad : get (.cellCommit 4) arrivedPad (fun t => (t.mem, t.fab.landing.map fun l => (l.addr, l.bytes), (t.flow 7).seq)) =
    some ([], [(padBase 3 + 8, [1, 2, 3, 4])], 1) := by decide +kernel
theorem test_land : (arrivedPad.commitFirst 4).land.byte (padBase 3 + 10) = 3 := by decide +kernel
theorem test_commit_push : get (.cellCommit 4) (arrived { storeCell with kind := 7, payload := [9, 0, 0, 0, 0, 0, 0, 0] })
    (fun t => (t.mem, t.fab.pushes.map fun p => (p.flow, p.value.getD 0 0))) = some ([], [(7, 9)]) := by decide +kernel
theorem test_commit_duplicate : get (.cellCommit 4) (arrived { storeCell with seq := 0 }) (fun t => (t.fab.landing.length, (t.flow 7).seq, t.fld .fabricCount 15 0)) = some (0, 0, 1) := by
  decide +kernel
theorem witness_commit : let s := arrived storeCell
    s.firstDue 4 = some { cell := storeCell, arrival := 1000, due := none } ∧ (∀ p < 4, s.firstDue p = none) ∧ s.fab.signals = [] ∧
      (s.flow 7).broken = false ∧ (s.flow 7).above = [] ∧ (s.flow 7).allows storeCell = true ∧ (s.flow 7).allows { storeCell with addr := 0x1FE } = false ∧
      sequenced 1 = true ∧ seqLe 0 0 = true ∧ s.sumWindow 0x100 = none ∧ s.badRanges 0x100 4 = [] ∧ (s.flow 7).berthEn = false := by decide +kernel
/-- A signal whose cover's cells have all committed. -/
def covered : State := let s := arrived storeCell
  { s with fab := { s.fab with signals := [{ id := 1, counter := 9, count := 2, cover := 7, covers := 0, flow := 7, seq := 0 }]
                               loads := [{ id := 3, flow := 7, src := 0x100, dst := 0x900, len := 4, ready := 1000 }] } }
theorem test_signal : get (.signalApply 1) covered (fun t => (Tab.get 0 t.signals 9, t.fab.signals.length)) = some (2, 0) := by decide +kernel
theorem test_load_response : get (.loadResponseReady 3) covered (fun t => ((t.flow 8).queue.map fun x => (x.cell.kind, x.cell.addr, x.cell.payload), t.fab.loads.length)) =
    some ([(3, 0x900, [0, 0, 0, 0])], 0) := by decide +kernel
theorem witness_load : covered.onDie.rowErrs = [] ∧ covered.lineAtRisk 1 = false ∧ covered.badRanges 0x100 4 = [] ∧ (∃ w ∈ covered.fab.signals, covered.signalDone w = true) := by
  decide +kernel

/-! ### Reduction (R297–R311) -/

/-- Channel 4 of FP32 cells with a leaf of 2 tiles (entry 1) on flow 7 and a root (entry 2) over local entries; it does not contribute. -/
def leaf : Node :=
  { channel := 4, lo := 0, level := 0, root := false, in0 := { remote := false, src := 0, backup := 0xFFFF, down := 0xFFFF, downB := 0xFFFF },
    in1 := { remote := false, src := 0, backup := 0xFFFF, down := 0xFFFF, downB := 0xFFFF }, shardFirst := 0, shardTiles := 1, outFlow := 7, upDown := 0xFFFF, deadline := 100 }
def node : Node :=
  { leaf with level := 1, outFlow := 7, in0 := { leaf.in0 with remote := true, src := 9 }, in1 := { leaf.in1 with remote := true, src := 11 } }
/-- An input of cell 0 of the node with the value 1.0, and one with 2.0. -/
def redIn (input : Nat) (v : Int) : RedCell :=
  { entry := 2, input := input, backup := false, phase := 0, cell := 0, values := [v], residue := residueOf [v], finite := true, srcChip := 5, doneAt := 0 }
def reducing (c : Channel) : State :=
  let s := sending []
  let s := s.setReg (.redChanState c.half 4) 2
  { s with red := { s.red with channels := [(4, c)], nodes := [(1, leaf), (2, node)], store := [redIn 0 0x3F800000, redIn 1 0x40000000]
                               runs := [(4, { ChanRun.idle with armAt := some 1000, lockOpen := true })] } }
def fp32 : Channel := { chan with contributes := false, nodeFirst := 1, nodeCount := 2 }
/-- The same with a backup of input 0. -/
def backed (c : Channel) : State :=
  { reducing c with red := { (reducing c).red with nodes := [(1, leaf), (2, { node with in0 := { node.in0 with backup := 10 } })] } }
/-- A channel arms where its lock has opened in a step that reduces (ACCUM_N 1), and counts in PENDING. -/
def arming : State := { (reducing fp32).setReg (.redChanState .west 4) 0 with red := { (reducing fp32).red with nodes := [(2, node)] } }
theorem test_arm : get (.channelArm 4) arming (fun t => (t.fld (.redChanState .west 4) 1 1, t.fld (.redStepStatus .west) 31 16, (t.chanRun 4).armAt)) =
    some (1, 1, some 4000) := by decide +kernel
theorem witness_arm : arming.channel 4 = some fp32 ∧ fp32.half = .west ∧ arming.stepNo % max 1 fp32.accumN + 1 = fp32.accumN ∧ (arming.chanRun 4).lockOpen = true ∧
    arming.fld (.redChanState .west 4) 2 2 = 0 ∧ (arming.chanNodes 4).map (fun e => e.1) = [2] ∧ 0 < node.count fp32 ∧ leaf.level = 0 ∧ leaf.outFlow ≠ 0xFFFF := by
  decide +kernel
/-- 1.0 + 2.0 = 3.0 as BF16 words of an inner node, complete 12 ns later. -/
theorem test_combine : get (.nodeCombine .west 2 0) (reducing fp32) (fun t => t.red.outputs.map fun o => (o.entry, o.doneAt, o.values.length)) = some [(2, 4012000, 1)] ∧
    get (.nodeCombine .west 2 0) (reducing fp32) (fun t => t.red.store.length) = some 0 := by decide +kernel
theorem test_output : get (.nodeOutputComplete .west 2 0) { reducing fp32 with red := { (reducing fp32).red with outputs := [redIn 0 7] } }
    (fun t => (t.red.outputs.length, kinds 7 t)) = some (0, [0x0B]) := by decide +kernel
theorem test_leaf_idle : get (.leafSumStart .west 1 0) (reducing fp32) (fun t => kinds 7 t) = some [] := by decide +kernel
theorem test_root_idle : get (.rootShardDone .west 2) (reducing fp32) (fun t => t.signals) = some [] := by decide +kernel
/-- The deadline of input 0: its primary has come (code 0). -/
theorem test_deadline : get (.backupDeadline .west 2 false 0) (backed fp32) (fun t => (t.chanRun 4).settled) = some [(4, 0, 0, 0)] := by decide +kernel
theorem witness_reduction : let s := reducing fp32
    s.node 2 = some node ∧ s.channel 4 = some fp32 ∧ s.fld (.redChanState .west 4) 1 1 = 1 ∧ (s.ready 4 fp32 2 node 0).isSome = true ∧
      (s.chanRun 4).armAt = some 1000 ∧ s.armed 0x10 0 = false ∧ s.armed 0x11 0 = false ∧ node.first fp32 = 0 ∧ ∃ x ∈ s.red.store, x.input = 0 ∧ x.backup = false := by
  decide +kernel
theorem test_reduce_commit : (match exec (.reduceCellCommit 4 []) quayed with | .fault .cellSize => true | _ => false) = true := by decide +kernel

/-! ### Pilot commands (R367–R385) -/

/-- READY with the link up, protocol 3 fixed and mailbox 1 enabled with 16 entries. -/
def hosted (d : DevState) : State :=
  let s := ((mod d).setReg (.mbCfg 1) 0x80000004).setReg (.mbRplBase 1) 0x10000
  { s with host := { s.host with proto := 3, linkUp := true } }
/-- A command of mailbox 1 with an inline payload, and one with an indirect one. -/
def cmd (payload : List Byte) : Desc := { desc payload.length payload with mb := 1 }
def cmdAt (payload : List Byte) : Desc := { descAt payload with mb := 1 }
/-- OPCODE, RESULT and STATE of the first reply of mailbox 1, and its first data bytes. -/
def replied (t : State) : List Byte × List Byte :=
  ([Tab.get 0 t.host.mem 0x10000, Tab.get 0 t.host.mem 0x10002, Tab.get 0 t.host.mem 0x10003, Tab.get 0 t.host.mem 0x10008], Tab.getMany 0 t.host.mem 0x10010 4)

theorem witness_takes : Takes (hosted .ready) (cmd []) ∧ Quiet (hosted .ready) ∧ (hosted .ready).host.proto ≠ 0 ∧ (cmd [2, 3]).badBits = false ∧
    (hosted .ready).dev.state.code = 4 ∧ (hosted .ready).host.phase.length = 4 ∧ Holds (cmdAt []) 80432 ∧ (hosted .ready).host.busy = none := by
  unfold Takes Quiet Holds
  refine ⟨⟨?_, ?_, ?_, ?_, ?_, ?_, ?_, ?_, ?_, fun r h => ?_⟩, ⟨?_, ?_, ?_⟩, ?_, ?_, ?_, ?_, fun _ => ?_, ?_⟩
  case refine_10 => exact absurd (show (hosted .ready).host.busy = some r from h) (by simp [hosted, mod, State.reset, HostIf.reset, State.setReg])
  all_goals decide +kernel

theorem test_hello : get (.hello (cmd [2, 3])) { hosted .ready with host := { (hosted .ready).host with proto := 0 } } (fun t => (t.host.proto, replied t)) =
    some (3, [1, 0, 0, 4], [3, 0, 0, 0]) := by decide +kernel
theorem test_hello_range : get (.hello (cmd [1, 1])) (hosted .ready) (fun t => (replied t).1) = some [1, 1, 1, 4] := by decide +kernel
/-- Row 1 of R376: no command but HELLO, IDENTIFY and STATUS before a version is fixed. -/
theorem test_no_protocol : get (.hold (cmd [0, 0, 0, 0, 0, 0, 0, 0])) { hosted .running with host := { (hosted .running).host with proto := 0 } } (fun t => (replied t).1) =
    some [0x23, 0x13, 0, 6] := by decide +kernel
theorem test_wrong_state : get (.hold (cmd [0, 0, 0, 0, 0, 0, 0, 0])) (hosted .ready) (fun t => (replied t).1) = some [0x23, 0x14, 0, 4] := by decide +kernel
theorem test_wrong_size : get (.hold (cmd [0])) (hosted .running) (fun t => (replied t).1) = some [0x23, 0x12, 0, 6] := by decide +kernel
theorem test_identify : get (.identify (cmd [])) (hosted .ready) (fun t => (replied t).1) = some [2, 0x16, 0, 4] := by decide +kernel
theorem test_status : get (.status (cmd [])) (hosted .ready) (fun t => (replied t).1) = some [3, 0x16, 0, 4] := by decide +kernel
theorem test_chart_read : get (.chartRead (cmd [4])) (hosted .ready) (fun t => (replied t).1) = some [4, 0x11, 0, 4] := by decide +kernel
/-- A chart image of zeros is outside the ranges of R396. -/
theorem test_chart_write : get (.chartWrite (cmdAt (List.replicate 576 0))) (hosted .ready) (fun t => (replied t).1) = some [5, 0x11, 0, 4] := by decide +kernel
theorem test_chart_select : get (.chartSelect (cmd [1])) (hosted .ready) (fun t => (t.dev.selecting.map fun x => x.1, t.host.busy.map fun r => r.opcode)) = some (some 1, some 6) := by
  decide +kernel
theorem test_tide_set : get (.tideSet (cmd [0, 0, 0, 0, 0, 0, 0, 0])) (hosted .ready) (fun t => (replied t).1) = some [0x10, 5, 1, 4] := by decide +kernel
theorem test_quay_train : get (.quayTrain (cmd [16, 0, 0, 0, 0, 0, 0, 0])) (hosted .ready) (fun t => (t.quayState 4, t.host.busy.map fun r => r.opcode)) = some (1, some 0x12) := by
  decide +kernel
theorem test_fabric_config : get (.fabricConfig (cmd [])) (hosted .ready) (fun t => (replied t).1) = some [0x11, 0x12, 0, 4] := by decide +kernel
theorem test_plan_load : get (.planLoad { cmdAt (List.replicate 24 0) with replyLen := 64 } { scatter := none, bytes := none }) (hosted .ready) (fun t => (replied t).1) =
    some [0x20, 1, 0, 4] := by decide +kernel
theorem test_plan_unload : get (.planUnload (cmd [])) { hosted .loaded with plan := some plan0 } (fun t => (t.plan, t.dev.state, (replied t).1)) =
    some (none, .ready, [0x21, 0, 0, 4]) := by decide +kernel
/-- A RUN with START_TIDE in the past of the next millisecond is refused (START_TIDE_EARLY). -/
theorem test_run : get (.run (cmd (List.replicate 16 0))) { hosted .loaded with plan := some plan0 } (fun t => (replied t).1) = some [0x22, 0x0B, 1, 5] := by decide +kernel
theorem test_hold : get (.hold (cmd (List.replicate 8 0))) (hosted .running) (fun t => (t.run.holdAt, t.host.busy.map fun r => r.opcode)) =
    some (some (4004, 0x0400), some 0x23) := by decide +kernel
theorem test_drain : get (.drain (cmd [])) (hosted .running) (fun t => (t.dev.state, t.run.stopFrom, t.run.drainFrom)) = some (.draining, some 4004, some 4000) := by
  decide +kernel
theorem test_recover_enter : get (.recoverEnter (cmd [])) (hosted .running) (fun t => (replied t).1) = some [0x25, 0x14, 0, 6] := by decide +kernel
theorem test_recover_exit : get (.recoverExit (cmd [])) (hosted .loaded) (fun t => (replied t).1) = some [0x26, 0x14, 0, 5] := by decide +kernel
theorem test_recover_copy : get (.recoverCopy (cmd (List.replicate 26 0))) (hosted .recovery) (fun t => (replied t).1) = some [0x27, 1, 0, 9] := by decide +kernel
theorem test_reset_plan : get (.resetPlan (cmd [1])) (hosted .ready) (fun t => (replied t).1) = some [7, 1, 0, 4] ∧
    get (.resetPlan (cmd [1])) { hosted .loaded with plan := some plan0 } (fun t => (t.dev.state, t.plan)) = some (.ready, none) := by decide +kernel
theorem test_reset_warm : get (.resetWarm (cmd [2])) (hosted .ready) (fun t => (t.dev.state, t.host.proto, t.tide.running)) = some (.verify, 0, true) := by decide +kernel
/-- The reply of a PLAN reset at 4001 ns: it takes effect at the boundary at 4004. -/
theorem test_reset_plan_due : get (.resetPlan (cmd [1])) { hosted .loaded with tide := { (hosted .loaded).tide with count := 4001 } }
    (fun t => (t.run.resetAt, t.dev.state, (replied t).1)) = some (some 4004, .loaded, [7, 0, 0, 5]) := by decide +kernel
theorem test_reset_cold : get (.resetCold (cmd [3])) { hosted .ready with mem := [(5, 1)] } (fun t => (t.dev.state, t.mem)) = some (.boot, []) := by decide +kernel
/-- ALLOC_CREATE of 0x1000 bytes of West memory, and of no bytes. -/
theorem test_alloc : get (.allocCreate (cmd (List.replicate 9 0 ++ [0x10] ++ List.replicate 6 0))) (hosted .ready) (fun t => t.dev.allocs.map fun e => e.2) =
    some [(0, 0x1000)] ∧ get (.allocCreate (cmd (List.replicate 16 0))) (hosted .ready) (fun t => (replied t).1) = some [0x30, 1, 0, 4] := by
  decide +kernel
theorem test_alloc_free : get (.allocFree (cmd [7, 0, 0, 0])) (hosted .ready) (fun t => (replied t).1) = some [0x31, 0x15, 1, 4] := by decide +kernel
theorem test_manifest_create : get (.manifestCreate (cmd [])) (hosted .ready) (fun t => (replied t).1) = some [0x32, 0x12, 0, 4] := by decide +kernel
theorem test_manifest_destroy : get (.manifestDestroy (cmd [0, 0, 0xFF, 0])) (hosted .ready) (fun t => (replied t).1) = some [0x33, 4, 6, 4] := by decide +kernel
theorem test_manifest_query : get (.manifestQuery { cmd [1, 0, 0, 0, 0, 0] with replyLen := 168, replyAddr := 0x20000 }) (hosted .ready) (fun t => (replied t).1) =
    some [0x34, 4, 6, 4] := by decide +kernel
/-- MEM_ERASE of package 20, every lane and bank. -/
theorem test_mem_erase : get (.memErase (cmd [20, 0xFF, 0xFF])) (hosted .ready) (fun t => (t.main.marks, (replied t).1)) =
    some ([(1, 1, 0x80140108)], [0x38, 0, 0, 4]) := by decide +kernel
theorem test_mem_retire : get (.memRetirePage (cmd [0, 0, 4, 0, 0, 0, 0, 0])) (hosted .ready) (fun t => t.main.retired) = some [1] := by decide +kernel
theorem test_mem_retire_list : get (.memRetireList (cmd [])) (hosted .ready) (fun t => (replied t).1) = some [0x3A, 0, 0, 4] := by decide +kernel
theorem test_log_set_ring : get (.logSetRing (cmd ([0, 0, 6, 0] ++ List.replicate 4 0 ++ [0, 0x10] ++ List.replicate 6 0))) (hosted .ready)
    (fun t => (t.log.logRing.addr, t.log.logRing.configured)) = some (0x1000, true) := by decide +kernel
theorem test_log_read_pins : get (.logReadPins (cmd ([1] ++ List.replicate 15 0))) (hosted .ready) (fun t => (replied t).1) = some [0x40, 0, 0, 4] := by decide +kernel
theorem test_log_clear : get (.logClear (cmd [1])) (hosted .ready) (fun t => (t.log.pins.length, t.log.ring.map fun r => r.cause)) = some (1, [0x040E]) := by decide +kernel
theorem test_trace_config : get (.traceConfig (cmd (List.replicate 8 0 ++ [6, 1] ++ List.replicate 30 0))) (hosted .ready) (fun t => (t.log.trace.sources, (replied t).1)) =
    some (1, [0x42, 0, 0, 4]) := by decide +kernel
theorem test_telemetry : get (.telemetry (cmd [])) (hosted .ready) (fun t => (replied t).1) = some [0x43, 0x16, 0, 4] := by decide +kernel
theorem test_inject : get (.inject (cmd [1, 0, 3, 0, 2, 0, 0, 0])) (hosted .ready) (fun t => t.log.armings) = some [(1, 3, 2)] := by decide +kernel
/-- An injection of a thermal trip of West acts at once (R433). -/
theorem test_inject_trip : get (.inject (cmd [0x1F, 0, 0, 0, 1, 0, 0, 0])) (hosted .ready) (fun t => (t.dev.tripW, t.log.armings, (replied t).1)) =
    some (true, [], [0x50, 0, 0, 4]) := by decide +kernel
theorem test_attest : get (.attest (cmd [])) (hosted .ready) (fun t => (replied t).1) = some [0x51, 0x12, 0, 4] := by decide +kernel
theorem test_debug_challenge : get (.debugChallenge (cmdAt [])) (hosted .ready) (fun t => t.sec.challenge.map fun c => c.length) = some (some 64) := by
  decide +kernel
theorem test_debug_unlock : get (.debugUnlock (cmd [])) (hosted .ready) (fun t => (replied t).1) = some [0x53, 0x12, 0, 4] := by decide +kernel
theorem test_rollback : get (.rollbackAdvance ⟨cmd [], none⟩) { hosted .ready with sec := { (hosted .ready).sec with keySlot := 3 } } (fun t => (replied t).1) =
      some [0x54, 0xC1, 1, 4] ∧
    get (.rollbackAdvance ⟨cmd [], none⟩) { hosted .ready with sec := { (hosted .ready).sec with secVersion := 3 } } (fun t => (t.sec.rollback, t.sec.status / 2 ^ 15 % 128)) =
      some (3, 3) ∧
    get (.rollbackAdvance ⟨cmd [], some 2⟩) { hosted .ready with sec := { (hosted .ready).sec with secVersion := 3 } } (fun t => (t.sec.rollback, t.dev.state)) =
      some (2, .off) := by
  decide +kernel

/-! ### Run control, long commands, registers (R362–R389, R490–R492) -/

/-- A plan with one entry at word 9 of core 3's context 7, to start at 4000. -/
def starting : State := { mod .running with plan := some { plan0 with entries := [(st.key, 9, [(2, 5)])] }, run := { RunCtl.reset with startAt := some 4000 } }
theorem test_plan_start : get .planStart starting (fun t => (at_ t, xOf 2 t, t.run.startAt)) = some ((.ready, 9, 0), 5, none) := by decide +kernel
theorem test_resume_start : get .resumeStart { mod .running with run := { RunCtl.reset with stopFrom := some 3000, resumeAt := some (4000, 400) } }
    (fun t => (t.run.stopFrom, t.run.resumeAt)) = some (none, none) := by decide +kernel
theorem test_host_hold : get .hostHold { mod .running with run := { RunCtl.reset with holdAt := some (4000, 0x0400) } } (fun t => (t.run.stopFrom, (t.reg .stopCause).toNat)) =
    some (some 4004, 0) := by decide +kernel
theorem test_enter_held : get .enterHeld { mod .running with run := { RunCtl.reset with stopFrom := some 4004 } } (fun t => t.dev.state) = some .held ∧
    get .enterHeld { mod .running with run := { RunCtl.reset with stopFrom := some 4004 }, ops := [flying] } (fun t => t.dev.state) = some .running := by decide +kernel
theorem witness_run : starting.now = 4000 ∧ (mod .running).tripped = false ∧ (starting.plan.map fun p => p.planId) = some 1 ∧ (mod .running).run.resumeAt = none := by decide +kernel
/-- The record of a running L command of mailbox 1. -/
def busy (opcode : Nat) (d : Desc) : Running := { opcode := opcode, mb := 1, tag := 9, desc := d, cut := false }
theorem test_chart_complete : get (.chartSelectComplete [] []) { hosted .ready with
      dev := { (hosted .ready).dev with selecting := some (1, cmd [1], 1) },
      host := { (hosted .ready).host with busy := some (busy 6 (cmd [1])) } }
    (fun t => (t.dev.chartNo, t.dev.selecting.isSome, t.host.busy.isSome, (replied t).1)) = some (1, false, false, [6, 0, 0, 4]) := by decide +kernel
theorem test_drain_complete : get .drainComplete { hosted .draining with
      plan := some plan0, run := { RunCtl.reset with stopFrom := some 4004, drainFrom := some 4000 },
      host := { (hosted .draining).host with busy := some (busy 0x24 (cmd [])) } }
    (fun t => (t.dev.state, (replied t).1)) = some (.loaded, [0x24, 0, 0, 5]) := by decide +kernel
theorem test_drain_abandoned : get .drainAbandoned { mod .draining with
      run := { RunCtl.reset with drainFrom := some 0 }, tide := { (mod .draining).tide with count := 10000000 },
      ops := [{ flying with engine := .fabric, remote := .ack 7 1 }, flying] }
    (fun t => t.ops.map fun o => o.engine) = some [.scalar] := by decide +kernel
/-- An armed channel that is abandoned is PENDING no more. -/
def abandoning : State :=
  let s := { mod .draining with run := { RunCtl.reset with drainFrom := some 0 }
                                tide := { (mod .draining).tide with count := 10000000 }
                                red := { (mod .draining).red with channels := [(4, chan)] } }
  (s.setReg (.redChanState .west 4) 2).setFld (.redStepStatus .west) 31 16 3
theorem test_drain_pending : get .drainAbandoned abandoning (fun t => (t.fld (.redChanState .west 4) 1 1, t.fld (.redStepStatus .west) 31 16)) = some (0, 2) := by
  decide +kernel
theorem test_recover_timeout : get .recoverTimeout { hosted .recovery with
      tide := { (hosted .recovery).tide with count := 10004000 },
      host := { (hosted .recovery).host with busy := some (busy 0x27 (cmd [])) },
      ops := [{ flying with strand := copyKey, engine := .fabric }] }
    (fun t => (t.ops.length, t.host.busy.isSome)) = some (0, false) := by decide +kernel
theorem test_request_left : ((({ hosted .recovery with ops := [{ flying with strand := copyKey }] } : State).requestLeft
      { kind := 2, flags := 0, len := 0, srcChip := 0, dstChip := 0, rxFlow := 0, planCycle := 0, seq := 0, addr := 0, arg := 0, payload := [] } 5000001).ops.map fun o => o.issue) = [5001] := by
  decide +kernel
theorem test_boot_rails : (let g := Governor.reset.move (reference 1).1; (g.vcore, g.vsram, g.sramNext, g.settled.vsram)) = (6600, 7500, some 7000, 7000) := by
  decide +kernel
theorem test_load_complete : get .planLoadComplete (hosted .ready) (fun t => t.dev.state) = some .ready := by decide +kernel

theorem test_mb_doorbell : get (.mbCmdDoorbell 1 17 []) (hosted .ready) (fun t => (t.mbStopped 1, t.fld (.mbStatus 1) 7 4)) = some (true, 1) ∧
    get (.mbCmdDoorbell 1 1 [some { opcode := 3, desc := cmd [], image := { scatter := none, bytes := none } }]) (hosted .ready) (fun t => (replied t).1) = some [3, 0x16, 0, 4] := by
  decide +kernel
theorem test_mb_reply_doorbell : get (.mbRplDoorbell 1 0) (hosted .ready) (fun t => (t.mbStopped 1, t.rplDb 1)) = some (false, 0) ∧
    get (.mbRplDoorbell 1 1) (hosted .ready) (fun t => t.mbStopped 1) = some true := by decide +kernel
theorem test_mb_enable : get (.mbEnable 0 0x80000005) (hosted .ready) (fun t => (t.mbEnabled 0, t.mbSize 0)) = some (true, 32) ∧
    get (.mbEnable 0 0x8000000D) (hosted .ready) (fun t => (t.mbStopped 0, t.fld (.mbStatus 0) 7 4)) = some (true, 4) := by decide +kernel
theorem test_mb_disable : get (.mbDisable 1 4) (hosted .ready) (fun t => t.mbEnabled 1) = some false := by decide +kernel
theorem witness_mailbox : (hosted .ready).linked = true ∧ (hosted .ready).mbEnabled 1 = true ∧ (hosted .ready).mbStopped 1 = false ∧ (hosted .ready).mbEnabled 0 = false ∧
    (hosted .ready).mbSize 1 = 16 ∧ (hosted .verify).serving = false ∧ (hosted .ready).serving = true := by decide +kernel

/-- WIN_BASE takes windows below 4,033 GiB; a ring's TAIL may not pass its HEAD. -/
theorem test_win_base : get (.winBaseWrite 4032) (hosted .ready) (fun t => (t.reg .winBase).toNat) = some 4032 ∧
    get (.winBaseWrite 4033) (hosted .ready) (fun t => (t.reg .winBase).toNat) = some 0 := by decide +kernel
theorem test_ring_tail : get (.ringTailWrite 0 1) (hosted .ready) (fun t => (t.reg (.ringTail 0)).toNat) = some 0 ∧
    get (.ringTailWrite 0 1) ((hosted .ready).setReg (.ringHead 0) 1) (fun t => (t.reg (.ringTail 0)).toNat) = some 1 := by decide +kernel
/-- STOP_CAUSE (offset 0x10110) is W1C. -/
theorem test_register_write : get (.registerWrite 0x10110 4 4) ((hosted .ready).setReg .stopCause 6) (fun t => (t.reg .stopCause).toNat) = some 2 := by decide +kernel
theorem test_rc_read : get (.rcRead 0x10110 4) ((hosted .ready).setReg .stopCause 6) (fun t => (t.host.lastRead, (t.reg .stopCause).toNat)) = some (6, 6) := by decide +kernel
/-- A count of 9, of which 5 had come by the preceding boundary: a read returns 5 and leaves 4, and what has come since also where the
field has saturated (R75, R492). -/
def counted : State := { (hosted .ready).setReg .fabricCount 9 with snap := [(Reg.fabricCount.offset, 5)], fresh := [(Reg.fabricCount.offset, 4)] }
theorem test_rc_count : get (.rcRead Reg.fabricCount.offset 8) counted (fun t => (t.host.lastRead, (t.reg .fabricCount).toNat, Tab.find? t.snap Reg.fabricCount.offset)) =
    some (5, 4, some 0) ∧
    get (.rcRead Reg.fabricCount.offset 8) { counted.setReg .fabricCount 0xFFFF with snap := [(Reg.fabricCount.offset, 0xFFFF)], fresh := [(Reg.fabricCount.offset, 3)] }
      (fun t => (t.host.lastRead, (t.reg .fabricCount).toNat)) = some (0xFFFF, 3) := by decide +kernel
/-- D3hot stops the function's other accesses; D0 brings them back (R361). -/
theorem test_d3hot : get (.registerWrite cfgPower 4 3) (hosted .ready) (fun t => (t.host.pci.d3hot, t.linked)) = some (true, false) ∧
    get (.registerWrite cfgPower 4 0) { hosted .ready with host := { (hosted .ready).host with pci := { (hosted .ready).host.pci with d3hot := true } } } (fun t => t.linked) =
      some true := by decide +kernel
/-- A W1C write between boundaries waits for the next; one at a boundary leaves a bit that the device has set since the last (R492). -/
theorem test_w1c_late : get (.summaryClear 0x1008 8 3) (({ hosted .ready with tide := { (hosted .ready).tide with count := 4001 } } : State).setReg (.grpCause 1) 7)
      (fun t => ((t.reg (.grpCause 1)).toNat, t.host.pendingRegs)) = some (7, [(0x1008, 8, 3)]) ∧
    get (.summaryClear 0x1008 8 3) { (hosted .ready).setReg (.grpCause 1) 7 with fresh := [((Reg.grpCause 1).offset, 1)] } (fun t => (t.reg (.grpCause 1)).toNat) =
      some 5 := by decide +kernel
theorem witness_rc : (regAccess Reg.fabricCount.offset 8).map (fun x => (x.1.offset, x.2)) = some (Reg.fabricCount.offset, ~~~0#64) ∧
    counted.servedNow Reg.fabricCount.offset = true ∧ (match counted.blockSide Reg.fabricCount.offset with | .served => true | _ => false) = true ∧
    (regAccess 0xFFFFF8 8).isNone = true := by decide +kernel
theorem test_summary_clear : get (.summaryClear 0x1008 8 3) ((hosted .ready).setReg (.grpCause 1) 7) (fun t => (t.reg (.grpCause 1)).toNat) = some 4 := by decide +kernel
theorem witness_registers : let s := hosted .ready
    s.atBoundary = true ∧ s.servedNow 0x10118 = true ∧ (match s.blockSide 0x10118 with | .served => true | _ => false) = true ∧
      (regAccess 0x10118 8).map (fun x => (x.1.offset, x.2)) = some (0x10118, ~~~0#64) ∧ s.writeBarred .stopTide = false ∧ (tideAccess 0x10118 8).isNone = true := by
  decide +kernel
theorem witness_tree : (hosted .ready).holdoffOver = true ∧ treeReg 0x1008 = true ∧ treeReg 0x10118 = false := by decide +kernel
/-- An enabled cause of the harbourmaster makes one message due. -/
def alarmed : State := { hosted .ready with host := { (hosted .ready).host with msgDue := true } }
theorem test_msix : get .msixHoldoffExpiry alarmed (fun t => (t.host.msgDue, (t.reg .msixPba).toNat)) = some (false, 1) := by decide +kernel
theorem test_interrupt : get .interruptEvaluate (hosted .ready) (fun t => t.host.condition) = some false := by decide +kernel

theorem test_bar2 : get (.bar2Request (.read 0x100 4)) { hosted .ready with mem := [(0x101, 7)] } (fun t => t.host.readData) = some [0, 7, 0, 0] ∧
    get (.bar2Request (.write 0x100 [some 5, none])) { hosted .ready with mem := [(0x101, 7)] } (fun t => t.mem) = some [(0x100, 5), (0x101, 7)] := by decide +kernel
/-- A service write to West memory waits at a tide: 4159 ns lie in slot 95 of frame 25, 4157 ns in slot 94, 4000 ns in slot 0. -/
def queuing (n : Nat) : State :=
  { hosted .running with tide := { (hosted .running).tide with count := n }
                         host := { (hosted .running).host with services := [(.write 0 [some 3], 0x100)] } }
theorem test_service_slot : get (.bar2Request (.read 0 4)) (hosted .running) (fun t => t.host.services) = some [(.read 0 4, 0)] ∧
    get .serviceSlot (queuing 4159) (fun t => (t.mem, t.host.services.length)) = some ([(0x100, 3)], 0) ∧
    get .serviceSlot (queuing 4157) (fun t => (t.mem, t.host.services.length)) = some ([], 1) ∧
    get .serviceSlot (queuing 4000) (fun t => (t.mem, t.host.services.length)) = some ([], 1) := by decide +kernel
theorem witness_service_slot : (queuing 4159).host.services = [(.write 0 [some 3], 0x100)] ∧ (queuing 4159).region 0x100 = .main .west ∧
    (queuing 4159).slotNow % 96 = 95 ∧ (∀ l ∈ accessLanes (.write 0 [some 3]) 0x100, (queuing 4159).laneServes .west l = true) ∧ (queuing 4000).slotNow % 96 ≠ 95 := by
  decide +kernel
/-- Of 8 bytes from 4 below the register range on, the first 4 are unmapped; the others are the register there. -/
theorem test_bar2_edge : get (.bar2Request (.read 0x3FFFFFFC 8)) ((hosted .ready).setReg .winBase 3071)
    (fun t => (t.host.readData.take 4, t.host.readData.length, t.log.open_.map fun r => r.cause)) = some ([0, 0, 0, 0], 8, [0x0409]) := by decide +kernel
theorem witness_service : (hosted .ready).region 0x100 ≠ .regs ∧ (hosted .ready).dev.everReady = true ∧ (hosted .ready).badRanges 0x100 4 = [] ∧
    (hosted .ready).mapped 0x100 = .ok ∧ (hosted .ready).sumWindow 0x100 = none ∧ (hosted .ready).region 0x30000000000 = .regs ∧ (mod .off).linked = false := by decide +kernel

/-! ### Records (R437–R449) -/

/-- A record of cause 0x0405 that has been open since the tide 0, and a configured log ring. -/
def logging : State :=
  let s := { hosted .ready with tide := { (hosted .ready).tide with count := 100000 } }
  s.raise (plainEvent 0x0405 srcHm [])
theorem test_window_close : get (.logWindowClose 0x0405 0x8000 0) { logging with tide := { logging.tide with count := 200000 } }
    (fun t => (t.log.open_.length, t.log.ring.map fun r => (r.cause, r.seq), t.log.pins.length)) = some (0, [(0x0405, 0)], 1) := by decide +kernel
theorem test_alarm_emit : get .alarmEmit (hosted .ready) (fun t => t.log.alarmSeq) = some 0 := by decide +kernel
theorem test_mirror : get .logMirrorWrite (hosted .ready) (fun t => t.log.mirrored) = some 0 := by decide +kernel
theorem test_trace : get (.traceWrite 3) (hosted .ready) (fun t => (t.reg (.ringHead 2)).toNat) = some 0 := by decide +kernel
/-- A ring at 0x3000, an alarm, a closed record and a trace record: each path may write. -/
def flowing : State :=
  let s := { hosted .ready with tide := { (hosted .ready).tide with count := 1000000000 } }
  let r : HostRing := { configured := true, addr := 0x3000, sizeLog2 := 6, watermark := 1, credit := 0, creditAt := 0 }
  { s with log := { s.log with alarmRing := r, logRing := r } }
theorem witness_records : logging.log.open_.length = 1 ∧ flowing.ringRoom 1 flowing.log.alarmRing = true ∧ flowing.ringRoom 0 flowing.log.logRing = true := by decide +kernel

/-! ### Bring-up, power and pins (R391–R423) -/

theorem test_boot : get .bootEntry { State.reset with dev := { Device.reset with pins := 1 } } (fun t => (t.dev.state, t.dev.chartNo, t.dev.fallback)) = some (.boot, 1, false) := by
  decide +kernel
theorem test_self_test : get (.coreSelfTestDone [5]) (mod .boot) (fun t => (t.dev.testDone, t.dev.testBad)) = some (true, [5]) := by decide +kernel
theorem test_training_done : get (.memoryTrainingDone [7]) (mod .boot) (fun t => (t.dev.memDone, t.main.dead, t.dev.state)) = some (true, [7], .boot) := by decide +kernel
theorem test_boot_done : get .bootDone { hosted .boot with dev := { (hosted .boot).dev with testDone := true, memDone := true } } (fun t => t.dev.state) = some .verify ∧
    get .bootDone (mod .boot) (fun t => t.dev.state) = some .boot := by decide +kernel
theorem test_verify_idle : get .verifyDone (mod .boot) (fun t => t.dev.state) = some .boot ∧
    get .powerLoss (mod .verify) (fun t => (t.dev.state, t.sec.slotA.isSome)) = some (.off, true) := by decide +kernel
theorem test_gesso_idle : get .gessoDone (mod .ready) (fun t => t.dev.state) = some .ready := by decide +kernel
theorem witness_bring_up : (mod .boot).tripped = false ∧ ((mod .boot).chartAt 1).valid = true ∧ (mod .verify).dev.warm = false ∧ State.reset.dev.state = .off ∧
    ((mod .verify).slot false).isSome = true := by decide +kernel
theorem test_flr : get .functionLevelReset (hosted .ready) (fun t => (t.mbEnabled 1, t.host.proto, t.dev.state)) = some (false, 0, .ready) := by decide +kernel
theorem test_perst : get .perstAssert (hosted .ready) (fun t => (t.linked, t.dev.perstLow)) = some (false, true) ∧
    get .perstRelease (mod .off) (fun t => t.dev.perstLow) = some false := by decide +kernel
theorem test_link_up : get .pcieLinkUp (mod .ready) (fun t => t.host.linkUp) = some true := by decide +kernel
theorem test_power_loss : get .powerLoss { hosted .running with mem := [(5, 1)] } (fun t => (t.dev.state, t.mem, t.dev.everReady)) = some (.off, [], false) := by decide +kernel
theorem test_rail_lost : get (.railLost 1) (mod .running) (fun t => (t.dev.state, t.dev.fault)) = some (.fault, 6) := by decide +kernel
/-- Quays go down; one that the chart does not enable says DISABLED (R251, R404). -/
theorem test_dark : (let c : Chart := { Chart.shipped0 with quayEnable := 2 }
    get (.railLost 1) ({ mod .running with dev := { (mod .running).dev with chart := c } }.setReg (.quayStatus 1) 5)
      (fun t => (t.reg (.quayStatus 0), t.reg (.quayStatus 1)))) = some (0x10, 0) := by decide +kernel
theorem test_rail_glitch : get (.railGlitch 1) (mod .ready) (fun t => t.log.alarms.map fun a => a.cause) = some [0x0403] := by decide +kernel
theorem test_watchdog : get (.hmWatchdog false) (mod .ready) (fun t => (t.dev.state, t.dev.fault, t.dev.faultFrom)) = some (.fault, 7, .ready) := by decide +kernel
theorem test_thermtrip : get (.thermtrip .west) { run [] with ops := [flying] } (fun t => (t.tripped, t.dev.state, t.ops.length)) = some (true, .running, 0) := by decide +kernel
theorem test_hold_pin : get (.holdPin ⟨true, 2⟩) (mod .running) (fun t => (t.run.holdAt, t.dev.holdLow)) = some (some (4004, 0x0401), true) := by decide +kernel
/-- The port answers at its static address 0x4C over I²C until it has a dynamic one, then at that one alone; it is off before its first refresh. -/
def ported : State := { mod .ready with i3c := { (mod .ready).i3c with on := true } }
theorem test_i3c : get (.i3cTransfer (.i2cRead 0x4C 2)) ported (fun t => t.i3c.out.length) = some 2 ∧ get (.i3cTransfer (.i2cRead 9 2)) ported (fun t => t.i3c.out) = some [] ∧
    get (.i3cTransfer (.i3cRead 9 2)) ported (fun t => t.i3c.out) = some [] ∧ get (.i3cTransfer (.entdaa 9)) ported (fun t => t.i3c.address) = some (some 9) ∧
    get (.i3cTransfer (.i2cRead 0x4C 2)) (mod .ready) (fun t => t.i3c.out) = some [] := by decide +kernel
/-- The hottest optical engine, 61 °C, stands in byte 0x1B. -/
theorem test_i3c_refresh : get .i3cRefresh (mod .off) (fun t => t.i3c.image) = some (mod .off).i3c.image ∧
    get .i3cRefresh { mod .ready with env := (mod .ready).env.readEngines .west [40, 61] } (fun t => (t.i3c.on, t.i3c.image.getD 0x1B 0)) = some (true, 61) := by decide +kernel

/-! ### The whole machine -/

/-- The front command runs on the queue's rest; an empty queue idles. -/
theorem test_step : (match step { run [(1, 7), (3, 8)] with pending := [.add st (word 2 1 3 0 5)] } with | .next t => (xOf 2 t, t.pending.length) | _ => (0, 1)) = (20, 0) := by
  decide +kernel
theorem test_idle : (match step State.reset with | .next t => decide (t = State.reset) | _ => false) = true := by decide +kernel
/-- A well-formed instruction has words, and they decode to it. -/
theorem witness_round_trip : (Instr.add st (word 2 1 3 0 5)).wf = true ∧ strandOf (.add st (word 2 1 3 0 5)) = some st := by decide +kernel
/-- Memory in its canonical form before a store, and after it. -/
theorem witness_memory : Memory.wf (run []).mem = true ∧ Memory.wf ((run []).store 8 [1, 0, 2]).mem = true ∧ Memory.wf State.reset.mem = true := by decide +kernel

end Sys2Proof.Tests
end

section
/-! Stroke boundaries (R33) and visibility boundaries (R35): both round up to a multiple of the stroke period, so each is a use of the adjunction between
`ceilDiv` and multiplication. -/

namespace Sys2Proof.Machine

variable {a b c : Nat}

/-- The adjunction of rounding up with multiplication: the least number of `b`s that covers `a`. -/
theorem ceilDiv_le_iff (hb : 0 < b) : ceilDiv a b ≤ c ↔ a ≤ b * c := by
  rw [ceilDiv, Nat.div_le_iff_le_mul_add_pred hb]
  omega

theorem le_mul_ceilDiv (hb : 0 < b) : a ≤ b * ceilDiv a b :=
  (ceilDiv_le_iff hb).1 (Nat.le_refl _)

theorem mul_ceilDiv_lt (hb : 0 < b) : b * ceilDiv a b < a + b := by
  have hdiv : b * ((a + b - 1) / b) ≤ a + b - 1 := Nat.mul_div_le (a + b - 1) b
  unfold ceilDiv
  omega

theorem ceilDiv_mul_self (hb : 0 < b) : ceilDiv (c * b) b = c :=
  Nat.le_antisymm ((ceilDiv_le_iff hb).2 (Nat.mul_comm c b ▸ Nat.le_refl _))
    (Nat.le_of_mul_le_mul_left (Nat.mul_comm b c ▸ le_mul_ceilDiv hb) hb)

theorem State.boundaryAt_eq_mul (s : State) (t : Nat) : ∃ k, s.boundaryAt t = k * s.period :=
  ⟨ceilDiv t s.period, rfl⟩

theorem State.le_boundaryAt (s : State) (t : Nat) (hp : 0 < s.period) : t ≤ s.boundaryAt t := by
  rw [State.boundaryAt, Nat.mul_comm]
  exact le_mul_ceilDiv hp

theorem State.boundaryAt_lt (s : State) (t : Nat) (hp : 0 < s.period) : s.boundaryAt t < t + s.period := by
  rw [State.boundaryAt, Nat.mul_comm]
  exact mul_ceilDiv_lt hp

/-- The counts that are boundaries are the fixed points of rounding up. -/
theorem State.boundaryAt_eq_self_iff (s : State) (t : Nat) (hp : 0 < s.period) :
    s.boundaryAt t = t ↔ ∃ k, t = k * s.period := by
  constructor
  · intro h
    exact ⟨ceilDiv t s.period, h.symm⟩
  · rintro ⟨k, rfl⟩
    rw [State.boundaryAt, ceilDiv_mul_self hp]

/-- R33: an instant with a nonzero fraction lies strictly after its count, so the boundary at or after it is never that count. -/
theorem State.boundary_eq_now_iff (s : State) (hp : 0 < s.period) :
    s.boundary = s.now ↔ (∃ k, s.now = k * s.period) ∧ s.tide.frac = 0 := by
  by_cases hf : s.tide.frac = 0
  · simpa [State.boundary, hf] using s.boundaryAt_eq_self_iff s.now hp
  · have hafter : s.now + 1 ≤ s.boundaryAt (s.now + 1) := s.le_boundaryAt (s.now + 1) hp
    simp only [State.boundary, hf, if_false, and_false, iff_false]
    omega

theorem State.atBoundary_iff (s : State) (hrun : s.tide.running = true) (hp : 0 < s.period) :
    s.atBoundary = true ↔ (∃ k, s.now = k * s.period) ∧ s.tide.frac = 0 := by
  rw [← s.boundary_eq_now_iff hp, State.atBoundary, hrun, Bool.true_and, decide_eq_true_eq]

/-- R33: every chip with the same stroke period has the same boundaries. -/
theorem State.atBoundary_congr (s t : State) (hrun : s.tide.running = t.tide.running) (hcount : s.tide.count = t.tide.count)
    (hfrac : s.tide.frac = t.tide.frac) (hp : s.period = t.period) : s.atBoundary = t.atBoundary := by
  have hboundary : s.boundary = t.boundary := by
    rw [State.boundary, State.boundary, State.boundaryAt, State.boundaryAt, State.now, State.now, hcount, hfrac, hp]
  rw [State.atBoundary, State.atBoundary, State.now, State.now, hrun, hboundary, hcount]

/-- R35: the visibility boundary is the least whole number of strokes after the start that covers the rated duration. -/
theorem State.visibleAt_least (s : State) (start ps : Nat) (hp : 0 < s.period) :
    ∃ k, s.visibleAt start ps = start + s.period * k ∧ ps ≤ 1000 * s.period * k ∧ ∀ j, ps ≤ 1000 * s.period * j → k ≤ j := by
  have hps : 0 < 1000 * s.period := Nat.mul_pos (by decide) hp
  exact ⟨ceilDiv ps (1000 * s.period), rfl, le_mul_ceilDiv hps, fun _ => (ceilDiv_le_iff hps).2⟩

/-- Settles O6: rounding up to the stroke period is adjoint to multiplication by it, and an instant with a fraction rounds up from the next count. -/
theorem visibilityBoundaries : Obligations.VisibilityBoundaries := by
  refine ⟨State.visibleAt_least, State.atBoundary_iff, State.atBoundary_congr, fun s hp => ?_⟩
  exact ⟨s.boundaryAt_eq_mul _, s.le_boundaryAt _ hp, s.boundaryAt_lt _ hp⟩

end Sys2Proof.Machine
end

section
/-! The scalar instructions and the branches (R147–R150, R136, R139): what a row of each shape leaves, said once for every instruction of the shape. -/

namespace Sys2Proof.Machine

open Sys2Proof Sys2Proof.Safety

variable {s : State} {st : StrandRef} {w : Word0} {reads : List Nat} {i : Instr}

/-- R147: xC + IMM is formed modulo 2^64, which leaves its remainder by 64. -/
theorem shiftBy_eq (w : Word0) (c : W64) : shiftBy w c = (c.toNat + w.imm.toNat) % 64 := by
  have himm : w.zimm.toNat = w.imm.toNat := by
    simp only [Word0.zimm, BitVec.truncate_eq_setWidth, BitVec.toNat_setWidth]
    omega
  rw [shiftBy, BitVec.toNat_add, himm]
  omega

/-- The row of a scalar instruction whose operands may be read. -/
theorem exec_scalarOp {val : W64 → W64 → W64} {v : W64} (hready : Ready s st) (hread : CanRead s st reads) (htag : TagRoom s st w)
    (hrow : exec i s = runRow st (scalarOp w reads val) s) (hval : val ((s.strand st.key).x w.b) ((s.strand st.key).x w.c) = v) :
    exec i s = .next (WritesReg s st w.a v 1) := by
  rw [hrow, runRow_of_ready hready, scalarOp_of_ready val hread htag, hval]

theorem exec_li64 (w1 : W64) (hready : Ready s st) (htag : TagRoom s st w) :
    exec (.li64 st w w1) s = .next (WritesReg s st w.a w1 2) := by
  have hrow : exec (.li64 st w w1) s = runRow st (fxLi64 w w1) s := rfl
  rw [hrow, runRow_of_ready hready, fxLi64, if_neg (by simp [tagFull_of_room htag]), State.goOn, WritesReg]

/-- SYSRD of a selector of R150. -/
theorem exec_sysrd_of_some {v : W64} (hready : Ready s st) (htag : TagRoom s st w) (hv : s.sysValue st.key (w.f 3 0) = some v) :
    exec (.sysrd st w) s = .next (WritesReg s st w.a v 1) := by
  have hrow : exec (.sysrd st w) s = runRow st (fxSysrd w) s := rfl
  rw [hrow, runRow_of_ready hready, fxSysrd, hv]
  simp only [tagFull_of_room htag, Bool.false_eq_true, if_false, State.goOn, WritesReg]

/-- SYSRD of a reserved selector (R146). -/
theorem exec_sysrd_of_none (hready : Ready s st) (hv : s.sysValue st.key (w.f 3 0) = none) :
    exec (.sysrd st w) s = .next (s.strandFault st.key (s.strand st.key).pc.toNat 0x01 []) := by
  have hrow : exec (.sysrd st w) s = runRow st (fxSysrd w) s := rfl
  rw [hrow, runRow_of_ready hready, fxSysrd, hv, State.faultIssue]

/-- The selectors above 5 are reserved (R150). -/
theorem State.sysValue_reserved (s : State) (key : Nat) {sel : Nat} (h : 5 < sel) : s.sysValue key sel = none := by
  unfold State.sysValue
  split <;> first | omega | rfl

/-- A taken branch: its group ends at the target, where an instruction begins there (R136, R139). -/
def branchTaken (s : State) (st : StrandRef) (w : Word0) : State :=
  if s.codeMark st.core.val (w.f 14 0) then s.setStrand st.key { (s.strand st.key).past 1 with pc := BitVec.ofNat 15 (w.f 14 0) }
  else s.strandFault st.key (s.strand st.key).pc.toNat 0x02 []

/-- The row of a branch whose operands may be read. -/
theorem exec_branchOp {cond : W64 → W64 → Bool} {taken : Prop} [Decidable taken] (hready : Ready s st) (hread : CanRead s st reads)
    (htag : TagRoom s st w) (hrow : exec i s = runRow st (branchOp w reads cond) s)
    (hcond : cond ((s.strand st.key).x w.b) ((s.strand st.key).x w.c) = true ↔ taken) :
    exec i s = .next (if taken then branchTaken s st w else Passes s st) := by
  rw [hrow, runRow_of_ready hready, branchOp]
  simp only [blocked_of_canRead hread, tagFull_of_room htag, Bool.or_self, Bool.false_eq_true, if_false, StrandRef.coreOf_key, hcond]
  by_cases htaken : taken
  · rw [if_pos htaken, if_pos htaken, branchTaken]
    split <;> rfl
  · rw [if_neg htaken, if_neg htaken, State.goOn, Passes]

/-- Settles O9: each scalar row is one shape with its own value, each branch row one shape with its own condition. -/
theorem scalarAndBranchResults : Obligations.ScalarAndBranchResults := by
  unfold Obligations.ScalarAndBranchResults
  refine ⟨fun s st w hready hread htag => ?_, fun s st w w1 hready htag => ?_, fun s st w hready htag => ?_⟩
  · refine ⟨?add, ?sub, ?and, ?or, ?xor, ?shl, ?shr, ?sra, ?mul, ?mins, ?maxs, ?slt, ?sltu⟩
    case shl | shr | sra => exact exec_scalarOp hready hread htag rfl (by simp only [shiftBy_eq])
    case mul => exact exec_scalarOp hready hread htag rfl (by rw [BitVec.ofNat_mul, BitVec.ofNat_toNat, BitVec.ofNat_toNat, BitVec.setWidth_eq, BitVec.setWidth_eq])
    case mins | maxs | slt => exact exec_scalarOp hready hread htag rfl (by simp only [BitVec.slt_iff_toInt_lt])
    case sltu => exact exec_scalarOp hready hread htag rfl (by simp only [BitVec.ult_iff_toNat_lt])
    all_goals exact exec_scalarOp hready hread htag rfl rfl
  · refine ⟨exec_li64 w1 hready htag, exec_scalarOp hready (List.forall_mem_nil _) htag rfl rfl, fun h => ?_, fun h => ?_, fun h => ?_, fun h => ?_,
      fun h => ?_, fun h => ?_, fun h => exec_sysrd_of_none hready (s.sysValue_reserved _ h)⟩
    all_goals
      refine exec_sysrd_of_some hready htag ?_
      simp only [h, State.sysValue, StrandRef.coreOf_key, StrandRef.ctxOf_key]
  · refine ⟨?jmp, fun hread => ?beqz, fun hread => ?bnez, fun hread => ?blt⟩
    case jmp => exact exec_branchOp (taken := True) hready (List.forall_mem_nil _) htag rfl (iff_of_true rfl trivial)
    case beqz => exact exec_branchOp hready hread htag rfl beq_iff_eq
    case bnez =>
      have hrow := exec_branchOp (i := .bnez st w) (taken := (s.strand st.key).x w.b ≠ 0) hready hread htag rfl bne_iff_ne
      rwa [ite_not] at hrow
    case blt => exact exec_branchOp hready hread htag rfl BitVec.slt_iff_toInt_lt

end Sys2Proof.Machine
end

section
/-! What leaves a core's BERTH_TABLE_BASE alone (R172): the registers that counting, recording, raising and tracing write lie apart from it. -/

namespace Sys2Proof.Machine

open Sys2Proof

variable {s t : State} {core o : Nat}

/-- No core's BERTH_TABLE_BASE lies at the offset. -/
def OffBerthTables (o : Nat) : Prop := ∀ core : Fin 128, (Reg.berthTableBase core).offset ≠ o

/-- The registers of the cores begin at 0x100000. -/
theorem offBerthTables_of_lt (h : o < 0x100000) : OffBerthTables o := by
  intro core
  simp only [Reg.offset]
  omega

theorem offBerthTables_padHome (c : Nat) : OffBerthTables (padHome c).1.offset ∧ OffBerthTables (padHome c).2.1.offset := by
  constructor <;> intro core <;> simp only [padHome, Reg.offset] <;> omega

theorem offBerthTables_sliceHome (sl : Nat) : OffBerthTables (sliceHome sl).1.offset ∧ OffBerthTables (sliceHome sl).2.1.offset := by
  constructor <;> intro core <;> simp only [sliceHome, Reg.offset] <;> omega

/-- A code word's cause and count registers are those of a pad or of a slice (R216). -/
theorem State.rowHome_cases {a : Nat} {home : Reg × Reg × Nat × Nat} (h : s.rowHome a = some home) :
    (∃ c, home = padHome c) ∨ ∃ sl, home = sliceHome sl := by
  unfold State.rowHome at h
  split at h
  · exact .inl ⟨_, (Option.some.inj h).symm⟩
  · exact .inr ⟨_, (Option.some.inj h).symm⟩
  · split at h
    · exact .inl ⟨_, (Option.some.inj h).symm⟩
    · split at h
      · exact .inl ⟨_, (Option.some.inj h).symm⟩
      · split at h
        · exact .inr ⟨_, (Option.some.inj h).symm⟩
        · exact nomatch h

theorem State.rowHome_off {a : Nat} {home : Reg × Reg × Nat × Nat} (h : s.rowHome a = some home) :
    OffBerthTables home.1.offset ∧ OffBerthTables home.2.1.offset := by
  rcases State.rowHome_cases h with ⟨c, rfl⟩ | ⟨sl, rfl⟩
  · exact offBerthTables_padHome c
  · exact offBerthTables_sliceHome sl

theorem State.berthTable_congr (h : t.regs = s.regs) (core : Nat) : t.berthTable core = s.berthTable core := by
  simp only [State.berthTable, State.fld, State.reg, h]

theorem State.berthTable_setRegAt (s : State) (v : W64) (h : OffBerthTables o) : (s.setRegAt o v).berthTable core = s.berthTable core := by
  simp only [State.berthTable, State.fld, State.reg, State.setRegAt, Tab.find?_set_other _ _ _ (h _)]

theorem State.berthTable_setBitAt (s : State) (b : Nat) (h : OffBerthTables o) : (s.setBitAt o b).berthTable core = s.berthTable core :=
  s.berthTable_setRegAt _ h

theorem State.berthTable_countAt (s : State) (hi lo n : Nat) (h : OffBerthTables o) :
    (s.countAt o hi lo n).berthTable core = s.berthTable core :=
  s.berthTable_setRegAt _ h

/-- The count of records lost from the logbook ring is no register of a core (R442). -/
theorem State.berthTable_countLost (s : State) (n : Nat) : (s.count (.ringLost 0) 63 0 n).berthTable core = s.berthTable core :=
  s.berthTable_countAt _ _ _ (offBerthTables_of_lt (by decide))

theorem State.berthTable_logEnter (s : State) (r : LogRec) : (s.logEnter r).berthTable core = s.berthTable core := by
  unfold State.logEnter
  extract_lets _ _ _ _ _ _
  split
  · split
    · exact State.berthTable_countLost _ _
    · rfl
  · rfl

theorem State.berthTable_logEnter_foldl (rs : List LogRec) (s : State) : (rs.foldl State.logEnter s).berthTable core = s.berthTable core := by
  induction rs generalizing s with
  | nil => rfl
  | cons r rs ih => rw [List.foldl_cons, ih, s.berthTable_logEnter]

theorem State.berthTable_logJoin (s : State) (e : Event) : (s.logJoin e).berthTable core = s.berthTable core := by
  unfold State.logJoin
  split
  · rfl
  · split
    · rfl
    · exact s.berthTable_countLost _

theorem State.berthTable_logOpen (s : State) (e : Event) : (s.logOpen e).berthTable core = s.berthTable core := by
  rw [State.logOpen, State.berthTable_logJoin]
  exact State.berthTable_logEnter_foldl _ _

/-- Raising an occurrence whose cause bit lies apart (R436). -/
theorem State.berthTable_raise (s : State) {e : Event} (h : ∀ x ∈ e.bit, OffBerthTables x.1) :
    (s.raise e).berthTable core = s.berthTable core := by
  have hlog (u : State) : (if e.alarm then (u.logOpen e).alarmOpen e else u.logOpen e).berthTable core = u.berthTable core := by
    split
    · rw [State.berthTable_congr (State.alarmOpen_regs _ _), u.berthTable_logOpen]
    · exact u.berthTable_logOpen _
  unfold State.raise
  cases hbit : e.bit with
  | none => exact hlog s
  | some x => exact (hlog _).trans (s.berthTable_setBitAt _ (h x hbit))

theorem State.berthTable_det (s : State) (b : Nat) : (s.det b).berthTable core = s.berthTable core := by
  unfold State.det
  split
  · exact s.berthTable_setBitAt _ (offBerthTables_of_lt (by decide))
  · rfl

/-- A dropped trace record counts in its source's drops and sets a bit of HM_CAUSE (R447). -/
theorem State.berthTable_trace (s : State) (src idx inst : Nat) (items : List Nat) (h : src < 8) :
    (s.trace src idx inst items).berthTable core = s.berthTable core := by
  have hdrop (b : TraceBuf) :
      (((s.setTraceBuf src b).countAt (0x3080 + 8 * src) 63 0 1).setBitAt Reg.hmCause.offset 12).berthTable core = s.berthTable core := by
    rw [State.berthTable_setBitAt _ _ (offBerthTables_of_lt (by decide)), State.berthTable_countAt _ _ _ _ (offBerthTables_of_lt (by omega))]
    rfl
  unfold State.trace
  dsimp only
  split
  · split
    · split
      · rfl
      · exact hdrop _
    · split
      · rfl
      · exact hdrop _
  · rfl

theorem State.berthTable_traceCore (s : State) (src idx core' : Nat) (items : List Nat) (h : src < 8) :
    (s.traceCore src idx core' items).berthTable core = s.berthTable core := by
  unfold State.traceCore
  split
  · exact s.berthTable_trace _ _ _ _ h
  · rfl

theorem State.berthTable_traceMove (s : State) (idx core' : Nat) (items : List Nat) :
    (s.traceMove idx core' items).berthTable core = s.berthTable core := by
  unfold State.traceMove
  split
  · rfl
  · exact s.berthTable_traceCore _ _ _ _ (by decide)

theorem State.berthTable_launch (s : State) (key : Nat) (l : Launch) : (s.launch key l).s.berthTable core = s.berthTable core := by
  unfold State.launch
  dsimp only [State.endGroup]
  rw [State.berthTable_congr (State.setStrand_regs _ _ _), State.berthTable_traceMove, State.berthTable_traceCore _ _ _ _ _ (by decide)]
  repeat' split
  all_goals rfl

end Sys2Proof.Machine
end

section
/-! Where the berths of a core lie and which bytes exist, and that the decoders and the writes of code words keep both (R156, R172, R199, R215, R216). -/

namespace Sys2Proof.Machine

open Sys2Proof

variable {s t u : State} {core n a : Nat}

/-- `t` has the strands, the operations in flight, the device, the main memory and the tide of `s`, and its berth tables in the same place: the two states
differ in memory, marks, records and other registers at most. -/
structure SameSite (s t : State) : Prop where
  strands : t.strands = s.strands
  ops     : t.ops = s.ops
  dev     : t.dev = s.dev
  main    : t.main = s.main
  tide    : t.tide = s.tide
  table   : ∀ core, t.berthTable core = s.berthTable core

theorem SameSite.refl (s : State) : SameSite s s := ⟨rfl, rfl, rfl, rfl, rfl, State.berthTable_congr rfl⟩

theorem SameSite.trans (h : SameSite s t) (k : SameSite t u) : SameSite s u :=
  ⟨k.strands.trans h.strands, k.ops.trans h.ops, k.dev.trans h.dev, k.main.trans h.main, k.tide.trans h.tide,
    fun core => (k.table core).trans (h.table core)⟩

theorem SameSite.foldl {β : Type} (f : State → β → State) (h : ∀ s b, SameSite s (f s b)) (l : List β) (s : State) : SameSite s (l.foldl f s) := by
  induction l generalizing s with
  | nil => exact SameSite.refl s
  | cons b l ih => exact (h s b).trans (ih _)

theorem SameSite.region (h : SameSite s t) (a : Nat) : t.region a = s.region a := by
  unfold State.region State.coreExists State.perHalf
  rw [h.dev]

theorem SameSite.mapped (h : SameSite s t) (a : Nat) : t.mapped a = s.mapped a := by
  unfold State.mapped State.halfOn State.sliceOn State.coreHalf State.perHalf
  rw [h.region, h.dev, h.main]

theorem SameSite.berthAddr (h : SameSite s t) (core n : Nat) : t.berthAddr core n = s.berthAddr core n := by
  rw [State.berthAddr, State.berthAddr, h.table]

theorem SameSite.boundary (h : SameSite s t) : t.boundary = s.boundary := by
  simp only [State.boundary, State.boundaryAt, State.period, State.now, h.tide, h.dev]

theorem SameSite.visibleAt (h : SameSite s t) (start ps : Nat) : t.visibleAt start ps = s.visibleAt start ps := by
  simp only [State.visibleAt, State.period, h.dev]

theorem SameSite.stepsPs (h : SameSite s t) (steps : Nat) : t.stepsPs steps = s.stepsPs steps := by
  simp only [State.stepsPs, State.stepPs, h.dev]

/-! ### Decoders (R216) -/

theorem SameSite.count (s : State) (r : Reg) (hi lo k : Nat) (h : OffBerthTables r.offset) : SameSite s (s.count r hi lo k) :=
  ⟨rfl, rfl, rfl, rfl, rfl, fun _ => s.berthTable_countAt _ _ _ h⟩

theorem SameSite.det (s : State) (b : Nat) : SameSite s (s.det b) :=
  ⟨by simp, by simp, by simp, by simp, by simp, fun _ => s.berthTable_det b⟩

theorem SameSite.raise (s : State) {e : Event} (h : ∀ x ∈ e.bit, OffBerthTables x.1) : SameSite s (s.raise e) :=
  ⟨by simp, by simp, by simp, by simp, by simp, fun _ => s.berthTable_raise h⟩

theorem SameSite.withMem (s : State) (m : List Host.Cell) : SameSite s { s with mem := m } := ⟨rfl, rfl, rfl, rfl, rfl, State.berthTable_congr rfl⟩

/-- Poison marks, the errors of code words and the totals have no part in where berths lie. -/
theorem SameSite.withMarks (s : State) (p : List Nat) (d : OnDie) (c : Totals) : SameSite s { s with poison := p, onDie := d, totals := c } :=
  ⟨rfl, rfl, rfl, rfl, rfl, State.berthTable_congr rfl⟩

theorem SameSite.flipBit (s : State) (unit bit : Nat) : SameSite s (s.flipBit unit bit) := by
  unfold State.flipBit
  dsimp only
  split
  · exact ⟨rfl, rfl, rfl, rfl, rfl, State.berthTable_congr rfl⟩
  · split
    · exact ⟨rfl, rfl, rfl, rfl, rfl, State.berthTable_congr rfl⟩
    · exact SameSite.withMem s _

theorem SameSite.senseUnit (s : State) (unit : Nat) : SameSite s (s.senseUnit unit) := by
  unfold State.senseUnit
  split
  · exact SameSite.refl s
  · exact SameSite.refl s
  · rename_i hhome
    obtain ⟨hcause, hcnt⟩ := State.rowHome_off hhome
    refine SameSite.trans ?_ (SameSite.raise _ ?_)
    · exact (SameSite.count s _ 63 48 1 hcnt).trans (SameSite.withMarks _ _ _ _)
    · rintro x ⟨⟩
      exact hcause
  · rename_i hhome
    obtain ⟨hcause, hcnt⟩ := State.rowHome_off hhome
    refine SameSite.trans ?_ (SameSite.raise _ ?_)
    · refine SameSite.trans (SameSite.trans (SameSite.trans ?_ (SameSite.withMarks _ _ _ _)) (SameSite.count _ _ 47 32 1 hcnt)) (SameSite.det _ 4)
      refine SameSite.foldl _ (fun s b => ?_) _ s
      split
      · exact SameSite.flipBit s unit b
      · exact SameSite.refl s
    · rintro x ⟨⟩
      exact hcause

theorem SameSite.sense (s : State) (a n : Nat) : SameSite s (s.sense a n) :=
  SameSite.foldl _ (fun s (e : Nat × List Nat) => SameSite.senseUnit s e.1) _ s

/-! ### Writes (R199, R215) -/

theorem SameSite.encodeWords (s : State) (a n : Nat) : SameSite s (s.encodeWords a n) := ⟨rfl, rfl, rfl, rfl, rfl, State.berthTable_congr rfl⟩

theorem SameSite.mergeWords (s : State) (a n : Nat) : SameSite s (s.mergeWords a n) :=
  (SameSite.foldl _ (fun s (e : Nat × List Nat) => SameSite.senseUnit s e.1) _ s).trans (SameSite.encodeWords _ a n)

theorem SameSite.store (s : State) (a : Nat) (bs : List Byte) : SameSite s (s.store a bs) := ⟨rfl, rfl, rfl, rfl, rfl, State.berthTable_congr rfl⟩

theorem SameSite.cleanUnits (s : State) (a n : Nat) : SameSite s (s.cleanUnits a n) := ⟨rfl, rfl, rfl, rfl, rfl, State.berthTable_congr rfl⟩

/-- An injection marks a code word; it stores no byte (R432). -/
theorem State.injectRow_spec (s : State) (a : Nat) :
    SameSite s (s.injectRow a) ∧ (s.injectRow a).mem = s.mem ∧ (s.injectRow a).run = s.run := by
  unfold State.injectRow
  dsimp only
  repeat' split
  all_goals exact ⟨⟨rfl, rfl, rfl, rfl, rfl, State.berthTable_congr rfl⟩, rfl, rfl⟩

/-- A pad holds no line of main memory. -/
theorem linesOf_eq_nil (n : Nat) (h : 0x10000000000 ≤ a) : linesOf a n = [] := if_neg (by omega)

/-- Bytes that all exist are written as they are stored (R21). -/
theorem State.writeBytes_eq_store (bs : List Byte) (s : State) (a : Nat) (h : ∀ i < bs.length, s.mapped (a + i) = .ok) :
    s.writeBytes a bs = s.store a bs := by
  induction bs generalizing s a with
  | nil => rfl
  | cons b bs ih =>
    have hfirst : s.writeByte a b = s.store a [b] := if_pos (h 0 (Nat.succ_pos _))
    rw [State.writeBytes, hfirst, ih]
    · rfl
    · intro i hi
      rw [(SameSite.store s a [b]).mapped, show a + 1 + i = a + (i + 1) by omega]
      exact h (i + 1) (Nat.succ_lt_succ hi)

/-- Bytes merged into code words just read stand in memory as they are stored (R215). -/
theorem State.rewrite_spec (s : State) (a : Nat) (bs : List Byte) (ha : 0x10000000000 ≤ a) (h : ∀ i < bs.length, s.mapped (a + i) = .ok) :
    SameSite s (s.rewrite a bs) ∧ (s.rewrite a bs).mem = (s.store a bs).mem ∧ (s.rewrite a bs).run = s.run := by
  cases bs with
  | nil => exact ⟨SameSite.refl s, rfl, rfl⟩
  | cons b bs =>
    have henc := SameSite.encodeWords s a (b :: bs).length
    have hwrite := State.writeBytes_eq_store (b :: bs) (s.encodeWords a (b :: bs).length) a (fun i hi => (henc.mapped _).trans (h i hi))
    obtain ⟨hsite, hmem, hrun⟩ := ((((s.encodeWords a (b :: bs).length).store a (b :: bs)).cleanUnits a (b :: bs).length)).injectRow_spec a
    simp only [State.rewrite, linesOf_eq_nil _ ha, List.foldl_nil, hwrite]
    exact ⟨((henc.trans (SameSite.store ..)).trans (SameSite.cleanUnits ..)).trans hsite, hmem, hrun⟩

/-- A run of values reads back as it was stored. -/
theorem Tab.getMany_setMany {α : Type} [DecidableEq α] (d : α) (vs : List α) (m : Tab α) (k : Nat) :
    Tab.getMany d (Tab.setMany d m k vs) k vs.length = vs := by
  induction vs generalizing m k with
  | nil => rfl
  | cons v vs ih =>
    rw [List.length_cons, Tab.getMany, Tab.setMany, ih, Tab.get_setMany_other _ _ _ _ _ (.inl (Nat.lt_succ_self k)), Tab.get_set_same]

theorem State.bytes_store (s : State) (a : Nat) (bs : List Byte) : (s.store a bs).bytes a bs.length = bs :=
  Tab.getMany_setMany Memory.unlisted bs s.mem a

theorem State.bytes_congr (h : t.mem = s.mem) (a n : Nat) : t.bytes a n = s.bytes a n := by
  rw [State.bytes, State.bytes, h]

/-- The bytes of a unit's store stand in memory (R21, R215). -/
theorem State.bytes_memWriteFrom (s : State) (source core a : Nat) (bs : List Byte) (ha : 0x10000000000 ≤ a)
    (h : ∀ i < bs.length, s.mapped (a + i) = .ok) : (s.memWriteFrom source core a bs).bytes a bs.length = bs := by
  cases bs with
  | nil => rfl
  | cons b bs =>
    have hlines : s.storeLines source core a (b :: bs).length = s := by
      rw [State.storeLines, linesOf_eq_nil _ ha]
      split <;> rfl
    have hwrite := State.writeBytes_eq_store (b :: bs) (s.mergeWords a (b :: bs).length) a
      (fun i hi => ((SameSite.mergeWords s a _).mapped _).trans (h i hi))
    simp only [State.memWriteFrom, hlines, hwrite]
    rw [State.bytes_congr (State.injectRow_spec _ a).2.1]
    exact State.bytes_store _ a (b :: bs)

end Sys2Proof.Machine
end

section
/-! Berth descriptors (R156, R157): their fields, and what storing one leaves. -/

namespace Sys2Proof.Machine

open Sys2Proof

variable {s t : State} {core n : Nat}

/-! ### Fields of a descriptor -/

/-- DEPTH, BASE, REMOTE_OK and BROKEN of two descriptors agree. -/
def SameRing (d d' : Nat) : Prop :=
  berthDepth d' = berthDepth d ∧ berthBase d' = berthBase d ∧ berthRemoteOk d' = berthRemoteOk d ∧ berthBroken d' = berthBroken d

/-- The counts lie in the upper half of a descriptor, the other fields in the lower. -/
theorem sameRing_withBits (d hi lo x : Nat) (hlo : 64 ≤ lo) (h : lo ≤ hi + 1) : SameRing d (withBits d hi lo x) := by
  have hbit (i : Nat) (hi' : i < lo) : bitOf (withBits d hi lo x) i = bitOf d i := by
    rw [bitOf_eq_testBit, bitOf_eq_testBit, testBit_withBits _ _ _ _ _ h, if_neg (by omega)]
  exact ⟨bitsOf_withBits_other _ _ _ _ _ _ h (by omega), bitsOf_withBits_other _ _ _ _ _ _ h (by omega), hbit 49 (by omega), hbit 48 (by omega)⟩

theorem berthPushed_lt (d : Nat) : berthPushed d < 2 ^ 32 := Nat.mod_lt _ (by decide)

theorem berthPopped_lt (d : Nat) : berthPopped d < 2 ^ 32 := Nat.mod_lt _ (by decide)

theorem berthDepth_lt (d : Nat) : berthDepth d < 2 ^ 13 := Nat.mod_lt _ (by decide)

/-- R157: the occupancy as a difference of counts. -/
theorem berthOcc_eq (d : Nat) : ((berthOcc d : Nat) : Int) = ((berthPushed d : Int) - (berthPopped d : Int)) % 2 ^ 32 := by
  have hpushed := berthPushed_lt d
  have hpopped := berthPopped_lt d
  unfold berthOcc
  omega

/-- A descriptor after one more push (R157). -/
def countPush (d : Nat) : Nat := withBits d 127 96 ((berthPushed d + 1) % 2 ^ 32)

/-- A descriptor after one more pop (R157). -/
def countPop (d : Nat) : Nat := withBits d 95 64 ((berthPopped d + 1) % 2 ^ 32)

theorem sameRing_countPush (d : Nat) : SameRing d (countPush d) := sameRing_withBits _ _ _ _ (by decide) (by decide)

theorem sameRing_countPop (d : Nat) : SameRing d (countPop d) := sameRing_withBits _ _ _ _ (by decide) (by decide)

theorem berthPushed_countPush (d : Nat) : berthPushed (countPush d) = (berthPushed d + 1) % 2 ^ 32 :=
  (bitsOf_withBits_same _ _ _ _ (by decide)).trans (Nat.mod_mod _ _)

theorem berthPopped_countPush (d : Nat) : berthPopped (countPush d) = berthPopped d :=
  bitsOf_withBits_other _ _ _ _ _ _ (by decide) (by decide)

theorem berthPopped_countPop (d : Nat) : berthPopped (countPop d) = (berthPopped d + 1) % 2 ^ 32 :=
  (bitsOf_withBits_same _ _ _ _ (by decide)).trans (Nat.mod_mod _ _)

theorem berthPushed_countPop (d : Nat) : berthPushed (countPop d) = berthPushed d :=
  bitsOf_withBits_other _ _ _ _ _ _ (by decide) (by decide)

theorem countPush_lt {d : Nat} (h : d < 2 ^ 128) : countPush d < 2 ^ 128 := withBits_lt _ _ _ _ _ (by decide) (by decide) h

theorem countPop_lt {d : Nat} (h : d < 2 ^ 128) : countPop d < 2 ^ 128 := withBits_lt _ _ _ _ _ (by decide) (by decide) h

/-- R157: below the full depth a push raises the occupancy by one. -/
theorem berthOcc_countPush (d : Nat) (h : berthOcc d < berthDepth d) : berthOcc (countPush d) = berthOcc d + 1 := by
  have hpushed := berthPushed_lt d
  have hpopped := berthPopped_lt d
  have hdepth := berthDepth_lt d
  unfold berthOcc at h ⊢
  rw [berthPushed_countPush, berthPopped_countPush]
  omega

/-! ### A descriptor in memory -/

theorem State.berth_lt (s : State) (core n : Nat) : s.berth core n < 2 ^ 128 := by
  have hlt := leNat_lt (s.bytes (s.berthAddr core n) 16)
  rwa [State.bytes, Tab.getMany_length] at hlt

theorem State.berth_congr (hmem : t.mem = s.mem) (htable : t.berthTable core = s.berthTable core) (n : Nat) :
    t.berth core n = s.berth core n := by
  rw [State.berth, State.berth, State.berthAddr, htable, State.bytes_congr hmem]
  rfl

theorem State.byte_congr (hmem : t.mem = s.mem) (a : Nat) : t.byte a = s.byte a := by
  rw [State.byte, State.byte, hmem]

/-- The berth tables lie in the pads (R172), beyond main memory. -/
theorem State.berthAddr_ge (s : State) (core n : Nat) : 0x10000000000 ≤ s.berthAddr core n := by
  unfold State.berthAddr padBase
  omega

/-- A descriptor stored where its bytes exist reads back, and no other byte changes. -/
theorem State.setBerth_spec (s : State) (core n d : Nat) (hd : d < 2 ^ 128) (h : ∀ i < 16, s.mapped (s.berthAddr core n + i) = .ok) :
    SameSite s (s.setBerth core n d) ∧ (s.setBerth core n d).run = s.run ∧ (s.setBerth core n d).berth core n = d ∧
      ∀ a, (a < s.berthAddr core n ∨ s.berthAddr core n + 16 ≤ a) → (s.setBerth core n d).byte a = s.byte a := by
  have hlen : (leBytes 16 d).length = 16 := leBytes_length 16 d
  obtain ⟨hsite, hmem, hrun⟩ : SameSite s (s.setBerth core n d) ∧ (s.setBerth core n d).mem = (s.store (s.berthAddr core n) (leBytes 16 d)).mem ∧
      (s.setBerth core n d).run = s.run :=
    s.rewrite_spec (s.berthAddr core n) (leBytes 16 d) (s.berthAddr_ge core n) (fun i hi => h i (by omega))
  refine ⟨hsite, hrun, ?_, fun a ha => ?_⟩
  · have hstored := s.bytes_store (s.berthAddr core n) (leBytes 16 d)
    rw [hlen] at hstored
    rw [State.berth, hsite.berthAddr, State.bytes_congr hmem, hstored, leNat_leBytes, Nat.mod_eq_of_lt (by simpa using hd)]
  · rw [State.byte_congr hmem]
    exact State.byte_store_other _ _ _ _ (by omega)

/-- R157: the oldest entry of a berth is visible where the berth is not empty and no push of that slot is in flight. -/
theorem State.berthHead_iff (s : State) (core n d : Nat) : s.berthHead core n d = true ↔
    berthOcc d ≠ 0 ∧ ∀ o ∈ s.ops, ∀ v, Effect.berthEntry (4096 * core + n) (berthEntry core d (berthPopped d)) v ∉ o.effects := by
  unfold State.berthHead
  simp only [Bool.and_eq_true, decide_eq_true_eq, Bool.not_eq_true', List.any_eq_false]
  refine and_congr_right fun _ => forall₂_congr fun o _ => ?_
  constructor
  · intro hnone v hv
    exact hnone (List.any_eq_true.2 ⟨_, hv, by simp⟩)
  · intro hnone hany
    obtain ⟨e, he, hwrites⟩ := List.any_eq_true.1 hany
    split at hwrites
    · obtain ⟨rfl, rfl⟩ : _ ∧ _ := by simpa using hwrites
      exact hnone _ he
    · exact absurd hwrites Bool.false_ne_true

end Sys2Proof.Machine
end

section
/-! BPUSH and BPOP (R157, R159): what each does with a berth whose descriptor exists, and the occupancy. -/

namespace Sys2Proof.Machine

open Sys2Proof Sys2Proof.Safety

variable {s u x : State} {st : StrandRef} {w : Word0}

/-! ### An operation that leaves behind a stored descriptor -/

theorem SameSite.bookIssue (s : State) (core ctx : Nat) (e : Engine) (reads writes : List (Nat × Nat)) :
    SameSite s (s.bookIssue core ctx e reads writes) :=
  ⟨rfl, rfl, rfl, rfl, rfl, State.berthTable_congr rfl⟩

theorem SameSite.popFlows (s : State) (core n : Nat) : SameSite s (s.popFlows core n) := ⟨rfl, rfl, rfl, rfl, rfl, State.berthTable_congr rfl⟩

/-- `t` holds the descriptor `d` at berth `n` of a core, and one operation more than `s` in flight, which is visible 2 steps on (R34, R35). Beside the descriptor
its bytes, and the control of the run, are those of `u`. -/
structure BerthIssue (s u t : State) (core n d : Nat) (o : InFlight) : Prop where
  berth : t.berth core n = d
  bytes : ∀ a, (a < s.berthAddr core n ∨ s.berthAddr core n + 16 ≤ a) → t.byte a = u.byte a
  run   : t.run = u.run
  ops   : t.ops = s.ops ++ [o]
  vis   : o.vis = s.visibleAt s.boundary (2 * s.stepPs)

theorem BerthIssue.congr {u' t : State} {core n d : Nat} {o : InFlight} (h : BerthIssue s u t core n d o) (hmem : u.mem = u'.mem)
    (hrun : u.run = u'.run) : BerthIssue s u' t core n d o :=
  ⟨h.berth, fun a ha => (h.bytes a ha).trans (State.byte_congr hmem a), h.run.trans hrun, h.ops, h.vis⟩

/-- An operation of 2 steps launched once `u` has its descriptor stored, whatever was booked or counted in between. -/
theorem berthIssue_of_setBerth {core n d : Nat} (hu : SameSite s u) (hd : d < 2 ^ 128) (hmapped : ∀ i < 16, s.mapped (s.berthAddr core n + i) = .ok)
    (hx : SameSite (u.setBerth core n d) x) (hmem : x.mem = (u.setBerth core n d).mem) (hrun : x.run = (u.setBerth core n d).run)
    (l : Launch) (hvis : l.vis = x.visibleAt x.boundary (x.stepsPs 2)) (key : Nat) :
    BerthIssue s u (x.launch key l).s core n d (x.launched key l) := by
  obtain ⟨hset, hsetRun, hberth, hbytes⟩ := u.setBerth_spec core n d hd (by simpa only [hu.mapped, hu.berthAddr] using hmapped)
  have hsite := (hu.trans hset).trans hx
  have hlaunch : (x.launch key l).s.mem = (u.setBerth core n d).mem := (State.launch_mem x key l).trans hmem
  refine ⟨?_, fun a ha => ?_, (State.launch_run x key l).trans (hrun.trans hsetRun), ?_, ?_⟩
  · exact (State.berth_congr hlaunch ((x.berthTable_launch key l).trans (hx.table core)) n).trans hberth
  · exact (State.byte_congr hlaunch a).trans (hbytes a (by rwa [hu.berthAddr]))
  · rw [x.launch_ops key l, hsite.ops]
  · exact hvis.trans (by rw [hsite.visibleAt, hsite.boundary, hsite.stepsPs, State.stepsPs])

/-! ### The two instructions -/

/-- A row of class Q whose operands may be read, on a berth number of the table whose DEPTH is not zero, goes on with the berth's descriptor (R155, R156). -/
theorem exec_berthRow {i : Instr} {reads : List Nat} {n : Nat} {f : Nat → State → Issued} {k : State → Nat → List Effect → Issued} (hready : Ready s st)
    (hread : CanRead s st reads) (hn : n < 4096) (hno : berthNo w (s.strand st.key) = n) (hu : s.sense (s.berthAddr st.core.val n) 16 = u)
    (hdepth : berthDepth (u.berth st.core.val n) ≠ 0) (hrow : exec i s = runRow st f s)
    (hf : f st.key s = if (s.strand st.key).blocked reads then s.holdHere st.key else withBerth st.key (berthNo w (s.strand st.key)) s k) :
    ∃ poison, exec i s = .next (k u (u.berth st.core.val n) poison).s := by
  subst hno hu
  rw [hrow, runRow_of_ready hready, hf, if_neg (by simp [blocked_of_canRead hread]), withBerth, if_neg (by omega)]
  simp only [StrandRef.coreOf_key]
  rw [if_neg hdepth]
  exact ⟨_, rfl⟩

theorem State.waitHere_status (s : State) (key sched : Nat) : ((s.waitHere key sched).s.strand key).status = .waiting := by
  unfold State.waitHere State.waitUntil
  dsimp only
  split
  · split
    · rw [State.strand_setStrand_same]
    · rw [State.strand_setStrand_same]
  · rw [State.strand_setStrand_same]

/-- A state with one more pop of a berth noted at the present boundary (R159). -/
def State.notePop (s : State) (core n : Nat) : State :=
  { s with run := { s.run with pops := Tab.set 0 s.run.pops (4096 * core + n) (s.popsNow core n + 1) } }

theorem SameSite.notePop (s : State) (core n : Nat) : SameSite s (s.notePop core n) := ⟨rfl, rfl, rfl, rfl, rfl, State.berthTable_congr rfl⟩

theorem State.popsNow_notePop (s : State) (core n : Nat) : (s.notePop core n).popsNow core n = s.popsNow core n + 1 := by
  rw [State.popsNow, State.notePop, Tab.get_set_same]

theorem State.popsNow_congr {t : State} (h : t.run = s.run) (core n : Nat) : t.popsNow core n = s.popsNow core n := by
  rw [State.popsNow, State.popsNow, h]

/-- What a pop leaves: it is noted and booked, then the descriptor is stored with its count. -/
theorem State.popBerth_eq (s : State) (st : StrandRef) (n d : Nat) : s.popBerth st.key n d =
    (BitVec.ofNat 64 (leNat (s.bytes (berthEntry st.core.val d (berthPopped d)) 8)),
      ((((s.notePop st.core.val n).bookIssue st.core.val (ctxOf st.key) .berth
        [(s.berthAddr st.core.val n, 16), (berthEntry st.core.val d (berthPopped d), 8)] [(s.berthAddr st.core.val n, 16)]).setBerth st.core.val n
          (countPop d)).popFlows st.core.val n)) := by
  rw [State.popBerth, StrandRef.coreOf_key]
  rfl

section
variable {n : Nat} (hready : Ready s st) (hread : CanRead s st [w.b, w.c]) (htag : TagRoom s st w) (hn : n < 4096)
  (hno : berthNo w (s.strand st.key) = n) (hu : s.sense (s.berthAddr st.core.val n) 16 = u) (hdepth : berthDepth (u.berth st.core.val n) ≠ 0)
include hready hread htag hn hno hu hdepth

/-- R157, R159: on a berth that is full, or in which only pops of this boundary have made room, BPUSH waits. -/
theorem exec_bpush_of_full
    (hfull : berthDepth (u.berth st.core.val n) ≤ berthOcc (u.berth st.core.val n) + u.popsNow st.core.val n) :
    exec (.bpush st w) s = .next (u.waitHere st.key w.sched).s := by
  obtain ⟨poison, hexec⟩ := exec_berthRow (f := berthPush 0x50 w) hready hread hn hno hu hdepth (i := .bpush st w) rfl rfl
  simp only [tagFull_of_room htag, Bool.false_eq_true, if_false, StrandRef.coreOf_key, hno] at hexec
  rwa [if_pos hfull] at hexec

/-- R157: with room BPUSH counts PUSHED, and its entry is the effect of its visibility boundary. -/
theorem exec_bpush_of_room (hmapped : ∀ i < 16, s.mapped (s.berthAddr st.core.val n + i) = .ok)
    (hroom : berthOcc (u.berth st.core.val n) + u.popsNow st.core.val n < berthDepth (u.berth st.core.val n)) :
    ∃ t o poison, exec (.bpush st w) s = .next t ∧ BerthIssue s u t st.core.val n (countPush (u.berth st.core.val n)) o ∧
      o.effects = .berthEntry (4096 * st.core.val + n) (berthEntry st.core.val (u.berth st.core.val n) (berthPushed (u.berth st.core.val n)))
        ((s.strand st.key).x w.c) :: poison := by
  obtain ⟨poison, hexec⟩ := exec_berthRow (f := berthPush 0x50 w) hready hread hn hno hu hdepth (i := .bpush st w) rfl rfl
  simp only [tagFull_of_room htag, Bool.false_eq_true, if_false, StrandRef.coreOf_key, hno] at hexec
  rw [if_neg (by omega)] at hexec
  exact ⟨_, _, poison, hexec,
    berthIssue_of_setBerth (hu ▸ SameSite.sense ..) (countPush_lt (u.berth_lt ..)) hmapped (SameSite.bookIssue ..) rfl rfl _ rfl _, rfl⟩

/-- R157: BPOP of a berth with a visible entry counts POPPED, in the descriptor and among the pops of the boundary, and takes the entry. -/
theorem exec_bpop_of_head {v : State} (hmapped : ∀ i < 16, s.mapped (s.berthAddr st.core.val n + i) = .ok)
    (hbroken : berthBroken (u.berth st.core.val n) = false) (hhead : u.berthHead st.core.val n (u.berth st.core.val n) = true)
    (hv : u.sense (berthEntry st.core.val (u.berth st.core.val n) (berthPopped (u.berth st.core.val n))) 8 = v) :
    ∃ t o poison, exec (.bpop st w) s = .next t ∧
      BerthIssue s (v.notePop st.core.val n) t st.core.val n (countPop (u.berth st.core.val n)) o ∧
      o.effects = .reg st.key w.a (BitVec.ofNat 64 (leNat (v.bytes
        (berthEntry st.core.val (u.berth st.core.val n) (berthPopped (u.berth st.core.val n))) 8))) :: poison := by
  have hread' : CanRead s st [w.b] := fun r hr => hread r (List.mem_cons.2 (.inl (List.mem_singleton.1 hr)))
  obtain ⟨poison, hexec⟩ := exec_berthRow (f := berthPop 0x51 w) hready hread' hn hno hu hdepth (i := .bpop st w) rfl rfl
  simp only [tagFull_of_room htag, hbroken, hhead, Bool.not_true, Bool.false_eq_true, if_false, State.senseEntry, State.popBerth_eq,
    StrandRef.coreOf_key, hno, hv] at hexec
  have hsite : SameSite s v := (hu ▸ SameSite.sense ..).trans (hv ▸ SameSite.sense ..)
  have hnoted := hsite.trans (SameSite.notePop v st.core.val n)
  exact ⟨_, _, _, hexec, (berthIssue_of_setBerth (hnoted.trans (SameSite.bookIssue ..)) (countPop_lt (u.berth_lt ..)) hmapped (SameSite.popFlows ..) rfl rfl _
    rfl _).congr rfl rfl, rfl⟩

end

/-- Settles O13: the counts by their bit fields, the entry by the bytes of its store, each instruction by what it launches behind the stored descriptor. -/
theorem berthOccupancy : Obligations.BerthOccupancy := by
  unfold Obligations.BerthOccupancy
  refine ⟨berthOcc_eq, fun _ _ _ => rfl, State.berthHead_iff, fun o s k a v ha hmapped => ?entry, fun s st w hready hread htag => ?issue⟩
  case entry =>
    have hbytes := s.bytes_memWriteFrom 1 o.core a (leBytes 8 v.toNat) (by omega) (fun i hi => hmapped i (by simpa using hi))
    rwa [leBytes_length] at hbytes
  case issue =>
    intro core n u d v same others hn hmapped hdepth
    refine ⟨fun hroom => ?room, fun hfull => ?full, fun hbroken hhead => ?head⟩
    case room =>
      obtain ⟨t, o, poison, hexec, hissue, heffects⟩ := exec_bpush_of_room hready hread htag hn rfl rfl hdepth hmapped hroom
      have hring : SameRing d (t.berth core n) := hissue.berth ▸ sameRing_countPush d
      refine ⟨t, o, poison, hexec, ?_, ?_, hring, hissue.bytes, hissue.ops, hissue.vis, heffects⟩
      · rw [hissue.berth]
        exact berthOcc_countPush d (by omega)
      · rw [hissue.berth]
        exact berthPopped_countPush d
    case full =>
      exact ⟨_, exec_bpush_of_full hready hread htag hn rfl rfl hdepth hfull, State.waitHere_status .., State.waitHere_mem ..,
        (State.waitHere_ops ..).trans (SameSite.sense ..).ops⟩
    case head =>
      obtain ⟨t, o, poison, hexec, hissue, heffects⟩ := exec_bpop_of_head hready hread htag hn rfl rfl hdepth hmapped hbroken hhead rfl
      have hring : SameRing d (t.berth core n) := hissue.berth ▸ sameRing_countPop d
      have hpops : t.popsNow core n = v.popsNow core n + 1 := (State.popsNow_congr hissue.run core n).trans (v.popsNow_notePop core n)
      refine ⟨t, o, poison, hexec, ?_, ?_, hring, hpops, hissue.bytes, hissue.ops, heffects⟩
      · rw [hissue.berth]
        exact berthPopped_countPop d
      · rw [hissue.berth]
        exact berthPushed_countPop d

end Sys2Proof.Machine
end

section
/-! A register that no occurrence names keeps its value while one is raised (R436), and what a strand's fault at issue leaves (R153). -/

namespace Sys2Proof.Machine

open Sys2Proof

/-! ### Registers apart from what is raised -/

theorem State.reg_congr {s t : State} (h : t.regs = s.regs) (r : Reg) : t.reg r = s.reg r := by
  rw [State.reg, State.reg, h]

theorem State.reg_setRegAt_other (s : State) {r : Reg} {o : Nat} (v : W64) (h : r.offset ≠ o) : (s.setRegAt o v).reg r = s.reg r := by
  simp only [State.reg, State.setRegAt, Tab.find?_set_other _ _ _ h]

theorem State.reg_countAt_other (s : State) {r : Reg} {o : Nat} (hi lo n : Nat) (h : r.offset ≠ o) : (s.countAt o hi lo n).reg r = s.reg r :=
  s.reg_setRegAt_other _ h

section
variable {r : Reg} (hr : r.offset ≠ (Reg.ringLost 0).offset)
include hr

theorem State.reg_countLost (s : State) (n : Nat) : (s.count (.ringLost 0) 63 0 n).reg r = s.reg r :=
  s.reg_countAt_other _ _ _ hr

/-- The one register in which logging counts is LOST of the logbook ring (R442). -/
theorem State.reg_logEnter (s : State) (x : LogRec) : (s.logEnter x).reg r = s.reg r := by
  unfold State.logEnter
  extract_lets _ _ _ _ _ _
  split
  · split
    · exact State.reg_countLost hr _ _
    · rfl
  · rfl

theorem State.reg_logEnter_foldl (xs : List LogRec) (s : State) : (xs.foldl State.logEnter s).reg r = s.reg r := by
  induction xs generalizing s with
  | nil => rfl
  | cons x xs ih => rw [List.foldl_cons, ih, s.reg_logEnter hr]

theorem State.reg_logJoin (s : State) (e : Event) : (s.logJoin e).reg r = s.reg r := by
  unfold State.logJoin
  split
  · rfl
  · split
    · rfl
    · exact State.reg_countLost hr _ _

theorem State.reg_logOpen (s : State) (e : Event) : (s.logOpen e).reg r = s.reg r :=
  (State.reg_logJoin hr _ e).trans (State.reg_logEnter_foldl hr _ _)

/-- Beside LOST, raising an occurrence changes its own cause register at most. -/
theorem State.reg_raise (s : State) {e : Event} {o b : Nat} (he : e.bit = some (o, b)) : (s.raise e).reg r = (s.setBitAt o b).reg r := by
  unfold State.raise
  rw [he]
  dsimp only
  split
  · rw [State.reg_congr (State.alarmOpen_regs _ _), State.reg_logOpen hr]
  · exact State.reg_logOpen hr _ e

theorem State.reg_raise_other (s : State) {e : Event} {o b : Nat} (he : e.bit = some (o, b)) (h : r.offset ≠ o) : (s.raise e).reg r = s.reg r :=
  (State.reg_raise hr s he).trans (s.reg_setRegAt_other _ h)

/-- R436: raising an occurrence sets its cause bit. -/
theorem State.fld_raise_bit (s : State) {e : Event} {b : Nat} (hb : b < 64) (he : e.bit = some (r.offset, b)) (hreset : r.reset = 0) :
    (s.raise e).fld r b b = 1 := by
  have hset : (s.setBitAt r.offset b).reg r = withField (s.regAt r.offset) b b 1 := by
    rw [State.reg, hreset]
    exact Tab.find?_set_same _ _ _ _
  rw [State.fld, State.reg_raise hr s he, hset, fieldOf_withField_same _ _ _ _ (by omega) hb, Nat.add_sub_cancel_left]
  rfl

end

/-! ### A strand's fault -/

/-- R153: what a fault leaves of its strand. -/
def Strand.faulted (st : Strand) (pc code : Nat) : Strand :=
  { st with status := .faulted, pc := BitVec.ofNat 15 pc, fault := BitVec.ofNat 8 code, wait := none }

theorem State.strandFault_strands (s : State) (key pc code : Nat) (items : List Nat) :
    (s.strandFault key pc code items).strands = (s.setStrand key ((s.strand key).faulted pc code)).strands := by
  unfold State.strandFault
  dsimp only
  repeat' split
  all_goals
    simp only [State.det_strands, State.setFld_strands, State.raise_strands, State.setReg_strands]
    rfl

theorem State.strandFault_strand_same (s : State) (key pc code : Nat) (items : List Nat) :
    (s.strandFault key pc code items).strand key = (s.strand key).faulted pc code := by
  rw [State.strand, s.strandFault_strands]
  exact s.strand_setStrand_same _ _

theorem State.strandFault_strand_other (s : State) {key k : Nat} (pc code : Nat) (items : List Nat) (h : k ≠ key) :
    (s.strandFault key pc code items).strand k = s.strand k := by
  rw [State.strand, s.strandFault_strands]
  exact s.strand_setStrand_other _ _ _ h

/-- R153, R320: a fault other than DATA_POISON records itself in its core's SEQ_FAULT and SEQ_CAUSE, and in no register beside. -/
theorem State.strandFault_reg (s : State) (key pc : Nat) {code : Nat} (items : List Nat) {r : Reg} (hcode : code ≠ 0x16)
    (hr : r.offset ≠ (Reg.ringLost 0).offset) (hfault : r.offset ≠ (Reg.seqFault (coreFin key)).offset)
    (hcause : r.offset ≠ (Reg.seqCause (coreFin key)).offset) : (s.strandFault key pc code items).reg r = s.reg r := by
  unfold State.strandFault
  dsimp only
  rw [if_neg hcode, State.reg_raise_other hr _ rfl hcause]
  split
  · exact State.reg_setReg_other _ _ _ _ hfault
  · rfl

end Sys2Proof.Machine
end

section
/-! UPD, MEVO and RMERGE (R319, R329, R334, R343): each row is the shared update operation with its own fields, or a fault outside COMMITTING. -/

namespace Sys2Proof.Machine

open Sys2Proof Sys2Proof.Safety

variable {s : State} {st : StrandRef} {w : Word0} {w1 w2 : W64}

/-! ### Outside COMMITTING -/

theorem State.strand_raise (s : State) (e : Event) (k : Nat) : (s.raise e).strand k = s.strand k := by
  rw [State.strand, State.raise_strands, State.strand]

/-- R349: a COMMIT_NOT_OPEN fault raises the bit of COMMIT_CAUSE, then faults the strand. -/
theorem State.faultOp_commitNotOpen (s : State) (key : Nat) : ∃ e : Event, e.bit = some (Reg.commitCause.offset, 3) ∧
    (s.faultOp key 0x1A 0 []).s = (s.raise e).strandFault key ((s.raise e).strand key).pc.toNat 0x1A [] :=
  ⟨causeEvent 11 .commitCause 3 (srcCore (coreOf key)) [ctxOf key, (s.strand key).pc.toNat], rfl, rfl⟩

/-- R319: an instruction that faults with COMMIT_NOT_OPEN faults its strand where it stands, records the cause, and does nothing. -/
theorem exec_commitNotOpen {c : Instr} (hexec : exec c s = .next (s.faultOp st.key 0x1A 0 []).s) :
    ∃ t, exec c s = .next t ∧ (t.strand st.key).status = .faulted ∧ (t.strand st.key).fault = 0x1A ∧ (t.strand st.key).pc = (s.strand st.key).pc ∧
      (∀ r, (t.strand st.key).x r = (s.strand st.key).x r) ∧ (∀ k, k ≠ st.key → t.strand k = s.strand k) ∧ t.mem = s.mem ∧ t.ops = s.ops ∧ t.acc = s.acc ∧
      t.feed = s.feed ∧ t.fld .commitCause 3 3 = 1 := by
  obtain ⟨e, hbit, hfault⟩ := s.faultOp_commitNotOpen st.key
  rw [hfault] at hexec
  refine ⟨_, hexec, ?status, ?fault, ?pc, fun r => ?x, fun k hk => ?others, ?mem, ?ops, ?acc, ?feed, ?cause⟩
  case status | fault =>
    rw [State.strandFault_strand_same]
    rfl
  case pc =>
    rw [State.strandFault_strand_same, State.strand_raise]
    exact (BitVec.ofNat_toNat _ _).trans (BitVec.setWidth_eq _)
  case x =>
    rw [State.strandFault_strand_same, State.strand_raise]
    rfl
  case others => rw [State.strandFault_strand_other _ _ _ _ hk, State.strand_raise]
  case mem | ops | acc | feed => simp
  case cause =>
    have hkept := (s.raise e).strandFault_reg st.key ((s.raise e).strand st.key).pc.toNat (code := 0x1A) [] (r := .commitCause) (by decide) (by decide)
      (by simp only [Reg.offset]; omega) (by simp only [Reg.offset]; omega)
    rw [State.fld, hkept]
    exact State.fld_raise_bit (by decide) s (by decide) hbit rfl

/-! ### The shared operation -/

/-- R334: the operands and conditions with which an update operation is put in flight. -/
structure ShardReady (s : State) (core : Nat) (a : VecArgs) (o : ShardOp) (u : UpdViews) : Prop where
  committing : s.fld .stepFlags 3 3 = 1
  room       : s.outstanding core .vector < 4
  operands   : s.shardOperands core a o.cast = .ok u
  nonempty   : u.mast.man.empty = false
  rules      : u.badOperand a o = false
  held       : ∀ v ∈ u.mast :: u.others, v.tilesHeld a.rb.toNat o.t false = true
  gradHeld   : u.grad.tilesHeld a.rd.toNat o.t true = true

/-- R346: the state with the step number in the shard tag's BEGIN, where the instruction sets TAG_BEGIN. -/
def State.beginTag (s : State) (core : Nat) (a : VecArgs) (on : Bool) : State :=
  if on then s.memWrite (s.tagAddr core a) (leBytes 8 (s.reg .stepNumber).toNat) else s

/-- What an update operation launches. -/
def ShardOp.launch (o : ShardOp) (steps : Nat) : VecLaunch :=
  { opcode := o.opcode, words := 3, steps := steps + (if o.cast then 16 * o.t else 0), pal := o.cast, regs := [], kind := .localWrite }

section
variable {a : VecArgs} {o : ShardOp} {u : UpdViews} {reserved : UpdViews → Bool} {steps : UpdViews → Nat}

theorem vecReady_of_room (hroom : s.outstanding st.core.val .vector < 4) (htag : TagRoom s st w) : s.vecReady st.key w = true := by
  simp [State.vecReady, tagFull_of_room htag, hroom]

theorem State.shardOp_of_ready (ht : o.t ≠ 0) (hu : ShardReady s st.core.val a o u) (hreserved : reserved u = false) (htag : TagRoom s st a.w) :
    s.shardOp st.key a o reserved steps = (s.beginTag st.core.val a o.tagBegin).vecLaunch st.key a (o.launch (steps u)) 0 := by
  obtain ⟨hopen, hroom, hoperands, hnonempty, hrules, hheld, hgrad⟩ := hu
  have hall : (u.mast :: u.others).all (fun v => v.tilesHeld a.rb.toNat o.t false) = true := List.all_eq_true.2 hheld
  rw [State.shardOp, if_neg ht, if_neg (by simp [State.committing, hopen])]
  simp only [StrandRef.coreOf_key, hoperands, hreserved, hnonempty, hrules, hall, hgrad, vecReady_of_room hroom htag, Bool.not_true, Bool.false_eq_true,
    if_false]
  rfl

section
variable {c : Instr} (hexec : exec c s = .next (s.shardOp st.key a o reserved steps).s)
include hexec

theorem exec_shardOp_of_zero (ht : o.t = 0) : exec c s = .next (s.noopIssue st.key 3).s := by
  rw [hexec, State.shardOp, if_pos ht]

theorem exec_shardOp_of_closed (ht : o.t ≠ 0) (hclosed : s.fld .stepFlags 3 3 = 0) : exec c s = .next (s.faultOp st.key 0x1A 0 []).s := by
  rw [hexec, State.shardOp, if_neg ht, if_pos (by simp [State.committing, hclosed])]

theorem vectorIssues_shardOp (ht : o.t ≠ 0) (hu : ShardReady s st.core.val a o u) (hreserved : reserved u = false) (htag : TagRoom s st a.w) :
    VectorIssues c s (s.beginTag st.core.val a o.tagBegin) st a (o.launch (steps u)) 0 :=
  vecLaunch_issues _ _ _ _ _ _ _ (by rw [hexec, State.shardOp_of_ready ht hu hreserved htag])

end

end

/-! ### The rows -/

/-- The fields of a UPD (R329). -/
def updOp (w : Word0) : ShardOp :=
  { opcode := 0x32, t := w.f 28 12, needM1 := w.f 11 10 != 0, needM2 := w.f 11 10 == 2, cast := bitOf w.imm.toNat 9, tagBegin := bitOf w.imm.toNat 8 }

/-- The fields of a MEVO (R343). -/
def mevoOp (w : Word0) : ShardOp :=
  { opcode := 0x33, t := w.f 17 8, needM1 := false, needM2 := false, cast := bitOf w.imm.toNat 6, tagBegin := false }

/-- The rating of a UPD in steps, without its cast (R333). -/
def State.updSteps (s : State) (w : Word0) (a : VecArgs) (u : UpdViews) : Nat :=
  6 + (if w.f 11 10 = 0 then 2 else if w.f 11 10 = 2 then 6 else 3) *
    ceilDiv (((List.range a.t).map fun n => s.storedCount u.mast (a.rb.toNat + n)).sum) 64

/-- R343: SWAPS is at most 1,024, and at most 256 where a tile's pattern is P28. -/
def State.SwapsFit (s : State) (w : Word0) (a : VecArgs) (u : UpdViews) : Prop :=
  w.f 28 18 ≤ 256 ∨ (w.f 28 18 ≤ 1024 ∧ ∀ n < w.f 17 8, ∀ e, s.entryOf u.mast (a.rb.toNat + n) = some e → stencilPattern e ≠ 2)

theorem exec_upd (hready : Ready s st) (hread : CanRead s st [w.a, w.b, w.c, w.d]) :
    exec (.upd st w w1 w2) s =
      .next (s.shardOp st.key (vecArgs w w1 w2 (s.strand st.key)) (updOp w) (fun _ => false) (s.updSteps w (vecArgs w w1 w2 (s.strand st.key)))).s := by
  have hrow : exec (.upd st w w1 w2) s = runRow st (fxUpd w w1 w2) s := rfl
  rw [hrow, runRow_of_ready hready, fxUpd, if_neg (by simp [blocked_of_canRead hread])]
  refine congrArg (fun steps => Host.Outcome.next (s.shardOp st.key (vecArgs w w1 w2 (s.strand st.key)) (updOp w) (fun _ => false) steps).s) (funext fun u => ?_)
  rw [State.updSteps]
  split
  case h_1 hform => rw [if_pos hform]
  case h_2 hform => rw [if_neg (by omega), if_pos hform]
  case h_3 h0 h2 => rw [if_neg h0, if_neg h2]

theorem exec_mevo (hready : Ready s st) (hread : CanRead s st [w.a, w.b, w.c, w.d]) :
    ∃ reserved, exec (.mevo st w w1 w2) s =
        .next (s.shardOp st.key (vecArgs w w1 w2 (s.strand st.key)) (mevoOp w) reserved fun _ => 6 + 336 * (mevoOp w).t).s ∧
      ∀ u, s.SwapsFit w (vecArgs w w1 w2 (s.strand st.key)) u → reserved u = false := by
  have hrow : exec (.mevo st w w1 w2) s = runRow st (fxMevo w w1 w2) s := rfl
  rw [hrow, runRow_of_ready hready, fxMevo, if_neg (by simp [blocked_of_canRead hread])]
  refine ⟨_, rfl, fun u hfit => ?_⟩
  simp only [Bool.or_eq_false_iff, Bool.and_eq_false_iff, decide_eq_false_iff_not, List.any_eq_false, List.mem_range, Nat.not_lt]
  rcases hfit with hfew | ⟨hmany, hother⟩
  · exact ⟨by omega, .inl hfew⟩
  · refine ⟨hmany, .inr fun n hn => ?_⟩
    split
    case h_1 e he => simpa using hother n hn e he
    case h_2 => exact Bool.false_ne_true

theorem exec_rmerge_of_closed (hready : Ready s st) (hread : CanRead s st [w.a, w.b, w.c, w.d]) (ht : w.f 28 12 ≠ 0)
    (hclosed : s.fld .stepFlags 3 3 = 0) : exec (.rmerge st w w1) s = .next (s.faultOp st.key 0x1A 0 []).s := by
  have hrow : exec (.rmerge st w w1) s = runRow st (fxRmerge w w1) s := rfl
  rw [hrow, runRow_of_ready hready, fxRmerge, if_neg (by simp [blocked_of_canRead hread]),
    if_neg (c := (vecArgs w w1 0 (s.strand st.key)).t = 0) ht, if_pos (by simp [State.committing, hclosed])]

end Sys2Proof.Machine
end

section
/-! SKETCH (R123–R130, R152): what it puts in flight where its descriptor, its gate record and its tiles are within reach. -/

namespace Sys2Proof.Machine

open Sys2Proof Sys2Proof.Safety

variable {s : State} {st : StrandRef} {w : Word0} {w1 w2 : W64}

theorem exec_sketch_of_zero (hready : Ready s st) (hread : CanRead s st [w.a, w.b, w.c, w.d]) (hm : w.f 28 21 = 0) :
    exec (.sketch st w w1 w2) s = .next (s.noopIssue st.key 3).s := by
  have hrow : exec (.sketch st w w1 w2) s = runRow st (fxSketch w w1 w2) s := rfl
  rw [hrow, runRow_of_ready hready, fxSketch, if_neg (by simp [blocked_of_canRead hread]), if_pos hm]

/-- The fields of a SKETCH: its active rows and the registers that name its descriptor, its gate record and its row tile (R125, R152). -/
structure SketchArgs where
  m     : Nat
  descr : Nat
  gate  : Nat
  tile  : Nat

def sketchArgs (w : Word0) (y : Strand) : SketchArgs :=
  { m := w.f 28 21, descr := (y.x w.a).toNat, gate := (y.x w.d).toNat, tile := (y.x w.b).toNat }

/-- The conditions under which a SKETCH that finds the descriptor `d` is put in flight with operands `p`, `q`, `b` and output `o` (R125–R129, R142, R152). -/
structure SketchReady (s : State) (st : StrandRef) (w : Word0) (w1 w2 : W64) (f : SketchArgs) (d : SketchDescr) (p q b : View) (o : Option View) : Prop where
  active   : f.m ≠ 0
  rows     : f.m ≤ 128
  aligned  : f.gate % 32 = 0
  reach    : f.descr + 64 ≤ 0x200000
  room     : s.outstanding st.core.val .sketch = 0
  left     : s.operandNo st.core.val (fieldOf w1 63 40) .reads = .ok p
  right    : s.operandNo st.core.val (fieldOf w1 39 16) .reads = .ok q
  bias     : s.operandNo st.core.val (fieldOf w2 63 40) .reads = .ok b
  output   : (if w.c = 0 then Except.ok none else (s.operand st.core.val ((s.strand st.key).x w.c) .writes).map some) = .ok o
  record   : f.gate + 0x20 + ceilDiv (ceilDiv d.blocks 4) 32 * 32 + 2 * (d.main + d.repair + d.audit) ≤ 0x200000
  nonempty : p.man.empty = false ∧ q.man.empty = false ∧ b.man.empty = false
  held     : sketchHeld p q b o d.blocks f.tile = true

/-- The operation of a SKETCH from what its work leaves, `x`, and what it decides, `r`; `bad`: its descriptor is poisoned (R35, R128, R130, R217). -/
def sketchLaunch (w : Word0) (st : StrandRef) (pc : Nat) (f : SketchArgs) (bad : Bool) (d : SketchDescr) (x : State × Work) (r : SketchOut) : Launch :=
  let out := sketchEffects st.core.val f.descr f.gate d r [f.descr, f.tile]
  { opcode := 0x2C, words := 3, engine := .sketch, kind := .localWrite, tag := w.tagOf, regs := [], start := x.1.boundary,
    vis := x.1.visibleAt x.1.boundary (x.1.stepsPs (12 + ceilDiv (d.blocks * d.rank) 4)), later := none,
    effects := x.2.effects st.key pc true ++ out ++ poisonMarks (bad || x.2.poisoned) (out.take 1) ++ poisonFault (bad && (x.2.faultOf true).isNone) st.key pc,
    remote := .none, reads := (padBase st.core.val + f.descr, 64) :: x.2.readSpans }

theorem exec_sketch_of_ready {p q b : View} {o : Option View} {f : SketchArgs} {z : State} {d : SketchDescr} {x : State × Work}
    (hready : Ready s st) (hread : CanRead s st [w.a, w.b, w.c, w.d]) (htag : TagRoom s st w) (hf : sketchArgs w (s.strand st.key) = f)
    (hz : s.sense (padBase st.core.val + f.descr) 64 = z) (hd : z.sketchDescr st.core.val f.descr = d)
    (hx : (z.runWork st.core.val fun k => (k.sketch p q b o d f.m f.tile).2) = x) (h : SketchReady s st w w1 w2 f d p q b o) (hsum : x.2.sumBad = false) :
    exec (.sketch st w w1 w2) s = .next (x.1.launch st.key (sketchLaunch w st (s.strand st.key).pc.toNat f
      (z.poisonedRange (padBase st.core.val + f.descr) 64) d x ((Work.start (x.1.readBase st.core.val x.2) st.core.val).sketch p q b o d f.m f.tile).1)).s := by
  obtain ⟨hactive, hrows, haligned, hreach, hroom, hp, hq, hb, ho, hrecord, ⟨hpe, hqe, hbe⟩, hheld⟩ := h
  subst hf hz hd hx
  have hrow : exec (.sketch st w w1 w2) s = runRow st (fxSketch w w1 w2) s := rfl
  dsimp only [sketchArgs] at *
  rw [hrow, runRow_of_ready hready, fxSketch, if_neg (by simp [blocked_of_canRead hread]), if_neg hactive, if_neg (by omega), if_neg (by omega)]
  simp only [StrandRef.coreOf_key, hp, hq, hb, ho]
  rw [if_neg (by omega)]
  simp only [hpe, hqe, hbe, hheld, tagFull_of_room htag, hroom, hsum, Bool.or_self, Bool.not_true, Bool.false_eq_true, if_false, ne_eq, not_true_eq_false,
    decide_false]
  rfl

/-- R128: the gate record is written at the visibility boundary of its SKETCH. -/
theorem gateRecord_mem_sketchLaunch (w : Word0) (st : StrandRef) (pc : Nat) (f : SketchArgs) (bad : Bool) (d : SketchDescr) (x : State × Work) (r : SketchOut) :
    .mem (padBase st.core.val + f.gate) (gateRecord d r) ∈ (sketchLaunch w st pc f bad d x r).effects := by
  simp [sketchLaunch, sketchEffects]

/-- Settles O23: UPD and MEVO by the shared update operation that each row runs, their fault and RMERGE's by its code, SKETCH by what it launches. -/
theorem updatesAndSketches : Obligations.UpdatesAndSketches := by
  unfold Obligations.UpdatesAndSketches
  refine ⟨fun s st w w1 w2 hready hread htag => ?updates, fun s st w w1 w2 hready hread htag => ?sketches⟩
  case updates =>
    intro core a form upd mevo ready
    have hupd := exec_upd (w1 := w1) (w2 := w2) hready hread
    obtain ⟨reserved, hmevo, hreserved⟩ := exec_mevo (w1 := w1) (w2 := w2) hready hread
    have hshard {o : ShardOp} {u : UpdViews} : ready o u → ShardReady s core a o u :=
      fun ⟨hopen, hroom, hoperands, hnonempty, hrules, hheld, hgrad⟩ => ⟨hopen, hroom, hoperands, hnonempty, hrules, hheld, hgrad⟩
    refine ⟨exec_shardOp_of_zero hupd, exec_shardOp_of_zero hmevo, fun ht u hu => ?upd, fun ht u hu hfit => ?mevo, fun hclosed => ?closed⟩
    case upd => exact (vectorIssues_shardOp hupd ht (hshard hu) rfl htag :)
    case mevo => exact (vectorIssues_shardOp hmevo ht (hshard hu) (hreserved u hfit) htag :)
    case closed =>
      exact ⟨fun ht => exec_commitNotOpen (exec_shardOp_of_closed hupd ht hclosed),
        fun ht => exec_commitNotOpen (exec_shardOp_of_closed hmevo ht hclosed),
        fun ht => exec_commitNotOpen (exec_rmerge_of_closed hready hread ht hclosed)⟩
  case sketches =>
    intro y core m descr gate z d bad
    refine ⟨exec_sketch_of_zero hready hread, ?_⟩
    intro hm0 hm128 haligned hreach hidle p q b o hp hq hb ho hrecord hpe hqe hbe tile hheld x r hsum
    have hsketch : SketchReady s st w w1 w2 (sketchArgs w y) d p q b o :=
      ⟨hm0, hm128, haligned, hreach, hidle, hp, hq, hb, ho, hrecord, ⟨hpe, hqe, hbe⟩, hheld⟩
    exact ⟨_, _, exec_sketch_of_ready hready hread htag rfl rfl rfl rfl hsketch hsum, putInFlight_launch .., rfl, rfl, rfl, rfl, rfl,
      gateRecord_mem_sketchLaunch w st _ (sketchArgs w y) ..⟩

end Sys2Proof.Machine
end

section
/-! The Function Level Reset (R362, R495): the registers that it clears are listed no more, so each reads as its Reset column; the rest is the frame. -/

namespace Sys2Proof.Machine

/-- A table filtered by its keys lists what it listed at the keys that are kept. -/
theorem Tab.find?_filter_key {α : Type} (t : Tab α) (keep : Nat → Bool) (k : Nat) :
    Tab.find? (t.filter fun e => keep e.1) k = if keep k then Tab.find? t k else none := by
  induction t with
  | nil => simp [Tab.find?]
  | cons e t ih =>
    obtain ⟨j, v⟩ := e
    by_cases hjk : j = k
    · subst hjk
      cases hkeep : keep j <;> simp [hkeep, ih, Tab.find?]
    · cases hkeep : keep j <;> simp [hkeep, ih, Tab.find?, hjk]

/-- A cleared register reads as its Reset column, another one as before. -/
theorem State.reg_clearRegs (s : State) (which : Nat → Bool) (r : Reg) :
    (s.clearRegs which).reg r = if which r.offset then r.reset else s.reg r := by
  have hfind : Tab.find? (s.clearRegs which).regs r.offset = if !which r.offset then Tab.find? s.regs r.offset else none :=
    Tab.find?_filter_key s.regs (fun o => !which o) r.offset
  cases h : which r.offset <;> simp [State.reg, hfind, h]

/-! ### The registers that a Function Level Reset clears -/

theorem flrReg_of_mailbox {o : Nat} (h : 0x100 ≤ o ∧ o < 0x200) : flrReg o = true := by
  simp [flrReg, h]

theorem flrReg_of_msix {o : Nat} (h : 0x2000 ≤ o ∧ o < 0x3100) : flrReg o = true := by
  simp [flrReg, h]

theorem flrReg_mbCfg (mb : Fin 4) : flrReg (Reg.mbCfg mb).offset = true :=
  flrReg_of_mailbox (by simp only [Reg.offset]; omega)

theorem flrReg_msixEntry (k : Fin 2) : flrReg (Reg.msixEntry k).offset = true :=
  flrReg_of_msix (by simp only [Reg.offset]; omega)

theorem flrReg_msixPba : flrReg Reg.msixPba.offset = true :=
  flrReg_of_msix (by decide)

/-- Only clearing registers changes what a register reads as. -/
theorem State.reg_functionReset {s : State} {r : Reg} (h : flrReg r.offset = true) : s.functionReset.reg r = r.reset :=
  (s.reg_clearRegs flrReg r).trans (if_pos h)

/-- DET_STATUS is none of the cleared registers, so the events due in it stay. -/
theorem State.functionReset_run (s : State) : s.functionReset.run = s.run := rfl

/-- ENABLE is 0 in the Reset column of MB_CFG (R367). -/
theorem State.functionReset_mbEnabled (s : State) (mb : Fin 4) : s.functionReset.mbEnabled mb = false := by
  rw [State.mbEnabled, State.fld, State.reg_functionReset (flrReg_mbCfg mb), Reg.reset]
  decide

/-- The vector's own mask bit is 1 in the Reset column of the MSI-X table (R389). -/
theorem State.functionReset_vectorMasked (s : State) : s.functionReset.vectorMasked = true := by
  have hmask : (s.functionReset.fld (.msixEntry 1) 32 32 == 1) = true := by
    rw [State.fld, State.reg_functionReset (flrReg_msixEntry 1)]
    rfl
  rw [State.vectorMasked, hmask, Bool.true_or]

/-- PERST_N low is a Function Level Reset that also notes the pin and takes the link down (R405, R406). -/
theorem exec_perstAssert (s : State) :
    exec .perstAssert s =
      .next { s.functionReset with dev := { s.functionReset.dev with perstLow := true }, host := { s.functionReset.host with linkUp := false } } := rfl

/-- Settles O59: what is cleared by the Reset column of its registers, what is kept by the frame of the reset, PERST_N by the same state. -/
theorem functionLevelReset : Obligations.FunctionLevelReset := by
  unfold Obligations.FunctionLevelReset
  intro s
  have hmailboxes : ∀ mb, s.functionReset.mbEnabled mb = false := s.functionReset_mbEnabled
  have hentries : ∀ k : Fin 2, s.functionReset.reg (.msixEntry k) = (Reg.msixEntry k).reset := fun k => State.reg_functionReset (flrReg_msixEntry k)
  have hpba : s.functionReset.reg .msixPba = 0 := State.reg_functionReset flrReg_msixPba
  refine ⟨s.functionReset, rfl, hmailboxes, rfl, rfl, s.functionReset_vectorMasked, hentries, hpba, rfl, rfl, rfl, rfl, ?frame⟩
  case frame =>
    exact ⟨rfl, rfl, rfl, rfl, rfl, rfl, rfl, rfl, rfl, s.functionReset_run, rfl, rfl, exec_perstAssert s⟩

end Sys2Proof.Machine
end
